-- ==== Sys2Proof/Word.lean ====
section
/-! DEFINITION. The word types of the DK7 (R12, R59). -/

namespace Sys2Proof

/-- One byte; every packet, descriptor and stored structure is little-endian bytes (R12). -/
abbrev Byte := BitVec 8

/-- A 32-bit word; an FP32 value is one (R59). -/
abbrev Word := BitVec 32

/-- A run of bytes, lowest address first. -/
abbrev Bytes := List Byte

end Sys2Proof
end

