-- ==== Sys2Proof/Syntax.lean ====
section
/-! DEFINITION. The commands of the DK7: one constructor of `Instr` for each row of spec/opcode_table.json,
with the operands its rule gives it, and the data those operands are made of. -/

namespace Sys2Proof

/-! ## Operands of Aqqel commands (R298, R301, R321 to R324) -/

/-- The header fields the gaffer reads of a command, and the queue pair it arrived on (R298, R307). -/
structure Cmd where
  qp : Nat
  seq : Nat
  ctx : Nat
  variant : Nat
  deriving DecidableEq, Repr

/-- A region of host memory (R324). -/
structure Region where
  qpn : Nat
  rkey : Nat
  address : Nat
  pages : Nat
  deriving DecidableEq, Repr

/-- A tensor_ref (R324): a trainable tensor by global index, or a base tensor by layer and matrix. -/
inductive TensorRef where
  | own (index : Nat)
  | base (layer matrix : Nat)
  deriving DecidableEq, Repr

/-- A sample: its token numbers (R324). -/
abbrev Sample := List Nat

/-- The three caps of a context, in percent (R276). -/
structure Caps where
  read : Nat
  write : Nat
  remote : Nat
  deriving DecidableEq, Repr

/-- The stash settings as CONTEXT_CREATE carries them (R103, R331). -/
structure StashSet where
  region : Nat
  policy : Nat
  spill : Nat
  deriving DecidableEq, Repr

/-- The parison settings (R208, R331). -/
structure ParisonSet where
  fillRows : Nat
  prefillChunk : Nat
  holdLimit : Nat
  trainShare : Nat
  deriving DecidableEq, Repr

/-- Parameters of CONTEXT_CREATE (R331); `none` is left out. -/
structure CreateParams where
  groupSize : Option Nat := none
  groupFirst : Option Nat := none
  tileAlloc : Option Nat := none
  weight : Option Nat := none
  caps : Option Caps := none
  ringWeight : Option Nat := none
  watch : Option Bool := none
  stash : Option StashSet := none
  parison : Option ParisonSet := none
  parkLimit : Option Nat := none
  variantGrant : Option (Nat × Nat) := none
  slotGrant : Option (List Nat) := none
  pageStore : Option Region := none
  seed : Option Nat := none
  sampleQueue : Option Nat := none
  replica : Option (Nat × Nat) := none
  extents : Option (List Nat) := none
  deriving DecidableEq, Repr

/-- One adapter record of VARIANT_CREATE (R337). -/
structure AdapterRec where
  layer : Nat
  matrix : Nat
  rank : Nat
  frozen : Bool
  alphaA : Word
  alphaB : Word
  deriving DecidableEq, Repr

/-- One extra-expert record of VARIANT_CREATE (R337). -/
structure ExpertRec where
  extraNo : Nat
  baseExpert : Nat
  alpha : Word
  layers : List Nat
  deriving DecidableEq, Repr

/-- Parameters of VARIANT_CREATE (R337). -/
structure VariantParams where
  adapters : List AdapterRec
  experts : List ExpertRec
  initSeed : Nat
  initScale : Word
  owners : Option (List Nat)
  deriving DecidableEq, Repr

/-- Parameters of STEP (R344). -/
structure StepParams where
  samples : List Sample
  tensors : List TensorRef
  takeQueue : Bool
  microRows : Nat
  deriving DecidableEq, Repr

/-- Parameters of SET_RULE (R346): what is left out is unchanged. -/
structure RuleParams where
  rule : Option Nat := none
  lr : Option Word := none
  weightDecay : Option Word := none
  beta1 : Option Word := none
  beta2 : Option Word := none
  eps : Option Word := none
  copyMode : Option Nat := none
  k : Option Nat := none
  driftLimit : Option Nat := none
  sStart : Option Int := none
  stepSchedule : Option Nat := none
  learn : Option Bool := none
  learnBatch : Option Nat := none
  deriving DecidableEq, Repr

/-- Parameters of SUBMIT (R351). -/
structure SubmitParams where
  prompt : List Nat
  maxTokens : Nat
  mode : Nat
  temperature : Word
  seed : Nat
  stopTokens : List Nat
  learn : Bool
  deriving DecidableEq, Repr

/-! ## Data carried between members and from the host -/

/-- The name of a page key: the context UID and the salt it is derived from (R423). -/
structure PageKey where
  uid : Bytes
  salt : Bytes
  deriving DecidableEq, Repr

/-- A tensor's entry of the layer manifest (R178). `kind` 0 to 4: ADAPTER_A, ADAPTER_B, EXPERT_GATE,
EXPERT_UP, EXPERT_DOWN; `source` is the base matrix or the extra expert number. -/
structure TensorInfo where
  layer : Nat
  index : Nat
  kind : Nat
  source : Nat
  rows : Nat
  cols : Nat
  rank : Nat
  transposed : Bool
  alpha : Word
  frozen : Bool
  deriving DecidableEq, Repr

/-- Rule settings of a variant (R118, R201). -/
structure RuleSet where
  rule : Nat
  lr : Word
  weightDecay : Word
  beta1 : Word
  beta2 : Word
  eps : Word
  copyMode : Nat
  k : Nat
  driftLimit : Nat
  sStart : Option Int
  learn : Bool
  learnBatch : Nat
  deriving DecidableEq, Repr

/-- The state a tensor keeps (R112): FP32 master and rule state, element order row x C + column. `rule` is the rule kind the state
belongs to (R119). -/
structure TensorState where
  rule : Nat
  master : List Word
  st1 : List Word
  st2 : List Word
  deriving DecidableEq, Repr

/-- A working copy: narrow elements in element order and, on a W4 base, its block scales (R482). -/
structure WorkCopy where
  elems : List Nat
  scales : List Nat
  deriving DecidableEq, Repr, Inhabited

/-- What an image of a variant holds (R183, R197), the context's seed with it (R70). The spec does not give its packing into pages. -/
structure VariantImage where
  manifest : List TensorInfo
  experts : List ExpertRec
  stepCounter : Nat
  generation : Nat
  curSlot : Bool
  sExp : List Int
  quiet : List Nat
  settings : RuleSet
  tensors : List TensorState
  copies : List WorkCopy
  seed : Nat
  deriving DecidableEq, Repr

/-- Kinds of a cullet log record (R396). -/
inductive RecordKind where
  | committed | skippedGradient | skippedUpdate | stashExhausted | passed | opened
  deriving DecidableEq, Repr

/-- A cullet log record (R396); `opened` is the record of a step that has not ended (R394). -/
structure LogRecord where
  kind : RecordKind
  step : Nat
  variant : Nat
  schedule : Nat
  automatic : Bool
  agreed : Bool
  degraded : Bool
  sStart : Option Int
  seed : Nat
  microRows : Nat
  microBatches : Nat
  groupSize : Nat
  owners : List Nat
  settings : RuleSet
  stash : StashSet
  lossSum : Word
  tokens : Nat
  baseDigest : Bytes
  sAfter : List Int
  quietAfter : List Nat
  updateSet : List Nat
  generations : List Nat
  samples : List Sample
  deriving DecidableEq, Repr

/-- The body of an IMAGE_HEAD page (R429). The wrapped salt is kept with the key that wraps it (R424). -/
structure ImageHead where
  uid : Bytes
  wrapEstate : Bytes
  salt : Bytes
  estateKeyId : Bytes
  incarnation : Nat
  dataPages : Nat
  baseSeq : Nat
  members : Nat
  variant : Nat
  deriving DecidableEq, Repr

/-- What a page's body holds. -/
inductive PageBody where
  | raw (bytes : Bytes)
  | head (h : ImageHead)
  | image (i : VariantImage)
  | filler
  | log (records : List LogRecord)
  deriving DecidableEq, Repr

/-- An encrypted page (R426): its clear header, the key it was sealed under, and whether it is unaltered. -/
structure SealedPage where
  kind : Nat
  incarnation : Nat
  pageSeq : Nat
  variant : Nat
  pageIndex : Nat
  pages : Nat
  ctx : Nat
  key : PageKey
  intact : Bool
  body : PageBody
  deriving DecidableEq, Repr

/-- The control block of a cane frame (R241). -/
structure Control where
  localFreed : Nat
  transitFreed : Nat
  escapeGen : Nat
  ackSeq : Nat
  rekeyReq : Bool
  replayReq : Bool
  senderPos : Nat
  eqReq : Nat
  deriving DecidableEq, Repr

/-- A bundle of rows between a token module and an expert's home (R219, R220). Values are FP32 words, or the
narrow codes of the payload format, row by row; `rowFp` are the FP32 values that follow the rows. `rowNos` and `ranks` are
the row numbers and expert ranks of R221, `generation` the one its rows read of their variant (R211), and `trainee` the variant that training rows serve, all of
which the header of R219 has no fields for. -/
structure Bundle where
  kind : Nat
  elemFmt : Nat
  layer : Nat
  ctx : Nat
  variant : Nat
  expert : Nat
  parison : Nat
  rows : Nat
  epoch : Nat
  srcPos : Nat
  stash : Bool
  step : Nat
  microBatch : Nat
  incarnation : Nat
  key : Nat
  payload : List Nat
  rowFp : List Word
  tag : Nat
  rowNos : List Nat
  ranks : List Nat
  generation : Nat
  trainee : Nat := 0
  deriving DecidableEq, Repr

/-- The statistics of one layer for one step (R73). -/
structure LayerStat where
  drained : Nat
  sat : Nat
  big : Bool
  nonfinite : Bool
  deriving DecidableEq, Repr

/-- What an owner reports in its vote (R127, R141). -/
structure Vote where
  finite : Bool
  drift : List (Nat × Nat)
  compared : Nat
  deriving DecidableEq, Repr

/-- What the leader tells every member of a step as its first micro-batch begins: what it was accepted with (R119, R136, R137) and the
number of its micro-batches. -/
structure StepHead where
  updateSet : List Nat
  settings : RuleSet
  schedule : Nat
  sStart : Option (Nat × Int)
  seed : Nat
  owners : List Nat
  batches : Nat
  replayed : Bool
  deriving DecidableEq, Repr

/-- Payloads of REDUCE frames (R241, R68, R107, R127 to R132, R390, R400, R401): a step begins; the last G8 partials of a micro-batch's
gradients arrive at their owner, with the tensor of each; an expert's home has no room for a layer's values; the check, its outcome, an
updated step's working copies, the vote with the state it staged, the flip or the abandon; a holder has lost what it held of the step; a header is written; the digests of an owner's
tensors, the tensors whose digests differed at a holder, and the fetch of their owner's copies. -/
inductive ReduceMsg where
  | began (step : Nat) (head : StepHead)
  | grads (step microBatch : Nat) (partials : List (Nat × List Nat))
  | homeFull (step microBatch layer : Nat)
  | check (step : Nat) (bad : Bool) (stats : List LayerStat)
  | checked (step : Nat) (bad : Bool) (stats : List LayerStat)
  | copies (step : Nat) (copies : List (Nat × WorkCopy))
  | vote (step : Nat) (v : Vote) (staged : List (Nat × TensorState))
  | flip (step : Nat)
  | abandon (step status : Nat)
  | lost (step : Nat)
  | headerDone (step : Nat)
  | digestsOf (step : Nat) (digests : List (Nat × Bytes))
  | digests (step : Nat) (differ : List Nat)
  | fetch (tensors : List Nat)
  | fetched (copies : List (Nat × WorkCopy))
  deriving DecidableEq, Repr

/-- One entry of a roll call (R256). State: 0 VACANT, 1 MEMBER, 2 JOINING, 3 LEAVING. -/
structure RollEntry where
  serial : Nat
  state : Nat
  grade : Nat
  layer : Nat
  expertEpoch : Nat
  hbmCapacity : Nat
  hbmFree : Nat
  estateKeyId : Bytes
  westRate : Nat
  eastRate : Nat
  deriving DecidableEq, Repr

/-- A roll call (R256). Pass: 1 collect, 2 publish. -/
structure RollCall where
  rollSeq : Nat
  pass : Nat
  ringSize : Nat
  layer : Nat
  anchor : Nat
  ringEpoch : Nat
  baseDigest : Bytes
  entries : List RollEntry
  deriving DecidableEq, Repr

/-- What an LLDPDU of another Moaros module says (R254); a neighbour without these TLVs reads zero. -/
structure Lldpdu where
  serial : Nat
  port : Nat
  ttl : Nat
  grade : Nat
  profile : Nat
  role : Nat
  layer : Nat
  position : Nat
  ringSize : Nat
  ringEpoch : Nat
  laneRate : Nat
  bypassOpen : Bool
  rollState : Nat
  estateKeyId : Bytes
  aqqelMajor : Nat
  aqqelMinor : Nat
  deriving DecidableEq, Repr

/-- Payloads of ANNOUNCE frames (R223, R176, R193, R217, R273, R376): a new incarnation with its seed, a context that is gone, a context
created with its grants and settings, a member's answer to that, an expert table, a base model load, a variant whose parts are placed
on its members, a member's answer to that, a variant that is gone from them. -/
inductive AnnounceMsg where
  | incarnation (inc seed : Nat)
  | gone
  | created (inc : Nat) (uid : Bytes) (groupFirst tileBase : Nat) (p : CreateParams)
  | placed (refusal : Option Nat)
  | experts (epoch : Nat) (homes : List Nat)
  | baseLoad (digest : Bytes)
  | variant (id : Nat) (owners : List Nat) (slots : List (Option Nat)) (image : VariantImage)
  | partPlaced (id : Nat) (refusal : Option Nat)
  | variantGone (id : Nat)
  | slotGone (id slot : Nat)
  | state (code : Nat)
  | quiet
  deriving DecidableEq, Repr

/-- What a cane frame carries. -/
inductive Payload where
  | none
  | stream (bytes : Bytes)
  | bundle (b : Bundle)
  | reduce (variant : Nat) (m : ReduceMsg)
  | roll (r : RollCall)
  | announce (m : AnnounceMsg)
  | rekey (epoch : Nat)
  | lldp (d : Lldpdu)
  deriving DecidableEq, Repr

/-- The name of a link key and the nonce it is used with: the serials of the lower-serial member and of the other, the lower one's port and
the link epoch it is derived from, which of the two sends, and the frame number (R268, R269, R423). -/
structure LinkSeal where
  lower : Nat
  higher : Nat
  port : Nat
  epoch : Nat
  fromLower : Bool
  frameNo : Nat
  deriving DecidableEq, Repr

/-- A cane frame as received or sent (R241). `sealed` is what its payload is encrypted under on a link (R22, R268); none inside the package. `fecOk` says it passed FEC, `authentic` that its tag verifies under the key
its key_phase names (R248, R268). -/
structure Frame where
  msgType : Nat
  bcast : Bool
  keyPhase : Bool
  dst : Nat
  src : Nat
  hops : Nat
  length : Nat
  ctx : Nat
  tag : Nat
  linkSeq : Nat
  e2eSeq : Nat
  control : Control
  payload : Payload
  fecOk : Bool
  authentic : Bool
  sealed : Option LinkSeal := none
  deriving DecidableEq, Repr

/-- The partner a link trained with (R252, R262, R269): `keys` counts the keys it has established on that port since
boot, this one included. -/
structure Partner where
  serial : Nat
  position : Nat
  bootCount : Nat
  port : Nat
  keys : Nat
  deriving DecidableEq, Repr

/-- A fault the array meets while a MATMUL or ELEMENTWISE runs (R45, R46, R146). -/
inductive ArrayEvent where
  | clean
  | corrected
  | halfLower
  | halfUpper
  | shared
  | sramSingle
  | sramDouble
  deriving DecidableEq, Repr

/-- The outcome of reading one HBM line (R149, R152). -/
inductive HbmOutcome where
  | clean
  | corrected
  | uncorrectable
  | crcMismatch
  deriving DecidableEq, Repr

/-- The area an HBM line lies in (R149, R150). -/
inductive HbmArea where
  | moduleArea
  | baseModel
  | committed (variant : Nat)
  | resident (variant : Nat)
  | work (ctx : Nat)
  | keyValue (ctx request : Nat)
  | extent (ctx : Nat)
  deriving DecidableEq, Repr

/-- A profile (R456). `ports` lists the role codes of ports 0 to 5; `dscp` the 64 priorities. -/
structure Profile where
  layer : Nat
  sparePolicy : Nat
  ports : List Nat
  split : Caps
  expertTiles : Nat
  bulkPriority : Nat
  cmdPriority : Nat
  resumable : Nat
  weight : Nat
  caps : Caps
  ringWeight : Nat
  maxCoreMhz : Nat
  powerCap : Nat
  napAfter : Nat
  quietAfter : Nat
  dormantAfter : Nat
  dscp : List Nat
  deriving DecidableEq, Repr

/-- A firmware image as its manifest names it (R414): the flags say whether its signature verifies under a key of
the fused hash and whether every component matches its digest (R415). -/
structure Image where
  generation : Nat
  minor : Nat
  build : Nat
  securityVersion : Nat
  digest : Bytes
  rotDigest : Bytes
  gafferDigest : Bytes
  microcodeDigest : Bytes
  profiles : List (Option Profile)
  profileDigests : List Bytes
  signatureOk : Bool
  componentsOk : Bool
  deriving DecidableEq, Repr

/-- How reading a host region ended (R170, R349, R370). -/
inductive ReadResult (α : Type) where
  | data (a : α)
  | error
  | stalled
  deriving DecidableEq, Repr

/-- What the base model image fixes (R212, R216, R225, R364), and in transport mode the bytes a load's range names (R376). Its own
format is not in the spec. -/
structure BaseShape where
  digest : Bytes
  format : Nat
  layers : Nat
  dModel : Nat
  routed : Nat
  shared : Nat
  routerK : Nat
  renormalise : Bool
  lengthLimit : Nat
  layerMap : List (Nat × Nat × Nat × Nat)
  baseGradients : List Nat
  moeLayers : List Nat
  hidden : Nat
  sharedHidden : List Nat
  kvBytes : Nat
  sharePages : Nat
  rangeBytes : Bytes
  deriving DecidableEq, Repr

/-- How a start-up step ended (R459, R460). -/
inductive StepResult where
  | done
  | noBootSlot
  | hbmTraining
  | selfTest (failed : List (Nat × Nat)) (listReadable : Bool)
  | ports (failed : List Nat)
  | joined
  | notJoined
  deriving DecidableEq, Repr

/-- A frame that arrives on a FABRIC port (R234, R236). `priority` is the PCP of its tag; a frame with no tag takes its priority from
`dscp` under the profile's map. -/
structure RoceFrame where
  length : Nat
  tags : Nat
  supported : Bool
  priority : Nat
  qp : Nat
  ce : Bool
  dscp : Nat := 0
  deriving DecidableEq, Repr

/-- An inbound RDMA operation (R154, R156). -/
inductive RdmaOp where
  | read (length : Nat)
  | write (bytes : Bytes)
  deriving DecidableEq, Repr

/-- The size of a stash set (R103, R104): bytes on each tile, bytes in all, bytes of its boundary on each tile,
whether every home placed its expert values (R107), and the largest share of the layers above (R105). -/
structure StashSize where
  microBatch : Nat
  layer : Nat
  share : Nat
  total : Nat
  boundary : Nat
  homesOk : Bool
  above : Nat
  deriving DecidableEq, Repr

/-- Which way a loop's monitors ask to move (R447). -/
inductive Move where
  | up | hold | down
  deriving DecidableEq, Repr

/-- Adapted receiver settings of one lane (R250). -/
structure LaneSet where
  peaking : Nat
  dfe : List Int
  slicers : List Int
  deriving DecidableEq, Repr

/-! ## The commands -/

/-- The commands of the DK7, one for each row of the table. -/
inductive Instr where
  | sendReceived (qp : Nat) (packet : Bytes)
  | intakeRound
  | hello (c : Cmd) (offers : List (Nat × Nat))
  | openSession (c : Cmd) (role : Nat) (key : Bytes)
  | closeSession (c : Cmd)
  | keyAdd (c : Cmd) (role : Nat) (salt digest : Bytes)
  | keyRemove (c : Cmd) (role slot : Nat)
  | contextCreate (c : Cmd) (p : CreateParams)
  | contextCreateComplete (ctx : Nat) (refusal : Option Nat)
  | contextDestroy (c : Cmd)
  | destroyComplete (ctx : Nat)
  | contextReset (c : Cmd)
  | resetComplete (ctx : Nat)
  | contextSuspend (c : Cmd)
  | contextResume (c : Cmd)
  | contextShares (c : Cmd) (weight : Option Nat) (caps : Option Caps) (ringWeight : Option Nat)
  | transportUnitStop (ctx : Nat)
  | variantCreate (c : Cmd) (p : VariantParams)
  | variantDestroy (c : Cmd)
  | variantImport (c : Cmd) (image : Region) (owners : Option (List Nat))
  | variantExport (c : Cmd) (dest : Region)
  | evict (c : Cmd)
  | evictForce (c : Cmd)
  | expertAttach (c : Cmd) (extraNo slot : Nat)
  | expertDetach (c : Cmd) (extraNo : Nat)
  | step (c : Cmd) (p : StepParams)
  | eval (c : Cmd) (samples : List Sample) (microRows every : Nat)
  | setRule (c : Cmd) (p : RuleParams)
  | freeze (c : Cmd) (tensors : List TensorRef)
  | thaw (c : Cmd) (tensors : List TensorRef)
  | checkpoint (c : Cmd) (dest : Region) (withLog : Bool)
  | restore (c : Cmd) (image : Region)
  | replay (c : Cmd) (first last : Nat) (log : Option Region)
  | submit (c : Cmd) (p : SubmitParams)
  | cancel (c : Cmd) (target : Nat)
  | mapWindowInbound (c : Cmd) (window address length : Nat)
  | mapWindowOutbound (c : Cmd) (window : Nat) (host : Region)
  | mapWindowPresent (c : Cmd) (window first pages : Nat) (present : Bool)
  | mapWindowUnmap (c : Cmd) (window : Nat)
  | loadProgram (c : Cmd) (programNo : Nat) (program : Bytes)
  | runProgram (c : Cmd) (programNo : Nat)
  | streamOpen (c : Cmd) (descriptor : Bytes)
  | streamOpenResume (c : Cmd) (id : Nat)
  | streamClose (c : Cmd) (id : Nat)
  | ringJoin (c : Cmd) (baseImage : Option Region)
  | ringLeave (c : Cmd)
  | query (c : Cmd) (target : Nat)
  | counters (c : Cmd) (scope : Nat)
  | countersClear (c : Cmd) (scope : Nat)
  | powerStatus (c : Cmd)
  | selectProfile (c : Cmd) (profile : Nat)
  | selectProfileReset (c : Cmd) (profile : Nat)
  | fwStage (c : Cmd) (image : Region)
  | fwStageCheckDone (image : ReadResult Image)
  | fwActivate (c : Cmd)
  | fwActivateTimeout
  | gafferReturn
  | attest (c : Cmd) (nonce : Bytes) (contexts : Option (List Nat))
  | retireTile (c : Cmd) (tile : Nat)
  | faultRecordRead (c : Cmd) (first count : Nat)
  | baseLoad (c : Cmd) (image : Region) (digest : Bytes) (placement : Option (List Nat)) (range : Option (Nat × Nat))
  | baseLoadComplete (result : ReadResult BaseShape)
  | eventPacketSend (session : Nat)
  | array (ctx : Nat)
  | stream (ctx : Nat)
  | waitStream (ctx : Nat)
  | waitTile (ctx : Nat)
  | boundary (ctx : Nat)
  | rounding (ctx : Nat)
  | derivative (ctx : Nat)
  | finiteCheck (ctx : Nat) (othersBad : Bool)
  | update (ctx : Nat) (tile : Nat := 0) (line : HbmOutcome := .clean)
  | commit (ctx : Nat) (tile : Nat := 0) (line : HbmOutcome := .clean)
  | nop (tile : Nat)
  | matmul (tile : Nat) (event : ArrayEvent)
  | elementwise (tile : Nat) (event : ArrayEvent)
  | marverFill (tile : Nat) (line : HbmOutcome := .clean)
  | tileNapEntry (tile : Nat)
  | tileWakeComplete (tile : Nat)
  | unitStart (ctx : Nat)
  | unitEnd (ctx cycles : Nat)
  | layerForwardEnd (ctx : Nat) (set : StashSize)
  | spillWriteComplete (ctx microBatch layer : Nat)
  | stashBringBack (ctx : Nat)
  | layerContinue (ctx row : Nat)
  | holdLimitExpiry (ctx : Nat)
  | fwdOut (port : Nat) (frames : List Frame) (b : Bundle)
  | fwdBack (port : Nat) (frames : List Frame) (b : Bundle)
  | bwdOut (port : Nat) (frames : List Frame) (b : Bundle)
  | bwdBack (port : Nat) (frames : List Frame) (b : Bundle)
  | bounce (port : Nat) (frames : List Frame) (b : Bundle)
  | bundleRun
  | bundleRunEnd (tag : Nat)
  | expertReplacementDone
  | check (variant stepNo : Nat)
  | updateLayer (variant stepNo : Nat) (line : HbmOutcome := .clean)
  | vote (variant stepNo : Nat)
  | flip (variant stepNo : Nat)
  | headerWriteComplete (variant stepNo : Nat)
  | automaticStep (variant : Nat)
  | loadPartPlaced (variant position : Nat)
  | writeOutComplete (variant : Nat)
  | streamReserve (id : Nat)
  | copy (id : Nat)
  | strided (id : Nat)
  | reduceHop (id : Nat) (partials : Bytes)
  | rotate (id : Nat)
  | pageOut (id : Nat)
  | pageIn (id : Nat) (page : ReadResult SealedPage)
  | transferLand (id index : Nat) (bytes : Bytes) (line : HbmOutcome)
  | streamStall (id : Nat)
  | patrolScrub (address : Nat) (area : HbmArea) (outcome : HbmOutcome)
  | frameForward (port : Nat) (frame : Frame)
  | caneStreamFrame (port : Nat) (frame : Frame)
  | reduce (port : Nat) (frame : Frame)
  | rollCallCollect (port : Nat) (frame : Frame)
  | rollCallPublish (port : Nat) (frame : Frame)
  | announce (port : Nat) (frame : Frame)
  | lldp (port : Nat) (frame : Option Frame) (pdu : Lldpdu)
  | rekey (port : Nat) (frame : Frame)
  | idle (port : Nat) (frame : Frame)
  | rekeyDue (port : Nat)
  | ringSignalLoss (port : Nat)
  | linkEstablished (port : Nat) (partner : Partner) (rate : Nat)
  | linkHoldExpiry (port : Nat)
  | berWindow (port : Nat) (exceeded : Bool)
  | eqAdapt (port lane : Nat) (settings : LaneSet) (request : Nat)
  | rollCallTimer
  | collectPassTimeout
  | anchorLost
  | anchorBackoffExpiry
  | noRingTimeout
  | joinQuietPasses
  | bypassSettled
  | leaveDrained
  | lldpTimer (port : Nat)
  | rocePacketReceive (port : Nat) (frame : RoceFrame)
  | cnpReceive (qp : Nat)
  | cnpRateTimer (qp : Nat)
  | pfcFrameReceive (port priority : Nat) (pause : Bool) (pausedCycles : Nat)
  | cmConnect (port qp : Nat)
  | fabricPortDown (port : Nat)
  | inboundRdmaAccess (qp rkey address : Nat) (op : RdmaOp) (line : HbmOutcome := .clean)
  | crossingTimeout (src dst : Nat)
  | quietEntry
  | dormantEntry
  | wakeComplete
  | voltageLoopPeriod (quadrant : Nat) (ask : Move)
  | frequencyLoopPeriod (quadrant : Nat) (ask : Move)
  | thresholdLoopPeriod (quadrant : Nat) (ask : Move)
  | supplyDroop (quadrant : Nat)
  | powerCapWindow (meanWatts : Nat)
  | powerReportWindow (meanWatts : Nat)
  | temperatureLevelChange (source : Nat) (celsius : Int)
  | nrstAssert
  | nrstRelease
  | profileResetRelease
  | inputLoss
  | overvoltage
  | powerOn (decivolts : Nat)
  | strapSample (straps : Nat)
  | startupStepComplete (result : StepResult)
  | entropyHealthFail
  | drbgReseed
  | frIndexWrite (value : Nat)
  | bmbRegisterWrite (address value : Nat)
  | fabricPortLinkUp (port : Nat)
  | transportError (qp : Nat)
  | caneTrainingFailed (port : Nat)
  deriving DecidableEq, Repr

end Sys2Proof
end

