-- ==== Sys2Proof/Decode.lean ====
section
/-! DEFINITION. The command a table word spells. No row of spec/opcode_table.json gives bits: the commands arrive as
packets, frames, pins and events with operands, so no word spells one (assumption log 12). -/

namespace Sys2Proof

/-- The command that `nbits` bits `w` of the table's encoding spell: none, since no row has an encoding. -/
def decodeTableWord (_nbits _w : Nat) : Option Instr := none

end Sys2Proof
end

