-- ==== Sys2Proof/Config.lean ====
section
/-! DEFINITION. What the spec leaves open: values with no body, so that nothing can be proved of them but what
holds of every value (assumption log 1 to 9, 133). -/

namespace Sys2Proof.Config

/-- What the base model's image says of one of its layers beside the layer map of R364: its heads, key-value heads and their width, the
base matrix numbers of the query, key, value and output projections and of the router, those of each shared expert's gate, up and down
matrices, and whether its experts gate with GELU in place of SiLU. -/
structure Plan where
  heads : Nat
  kvHeads : Nat
  headDim : Nat
  query : Nat
  key : Nat
  value : Nat
  output : Nat
  router : Nat
  shared : List (Nat × Nat × Nat)
  gelu : Bool
  deriving DecidableEq, Repr, Inhabited

/-- A free word: indexed by the model's counter of free values. -/
opaque freeWord : Nat → Nat → Word
/-- A salt wrapped under the salt wrap key of a context: by the estate key and the context UID (R423, R424). -/
opaque wrapSalt : Bytes → Bytes → Bytes → Bytes
/-- A free byte of a destination that is not valid (R46, R48, R52). -/
opaque freeByte : Nat → Nat → Byte
/-- Bytes the CTR_DRBG draws at its n-th request (R413). -/
opaque random : Nat → Nat → Bytes
/-- Whether the first is given of two values the spec does not order, a NaN among them or zeros of two signs, as the larger or the
smaller (R55). -/
opaque extremum : Bool → Word → Word → Bool
/-- The format, taken modulo 4, that a derivative's forward operand is read in under an fwd_fmt code that R98 does not give. -/
opaque fwdFormat : Nat → Nat
/-- The slice, taken modulo 4, that a W4 BLOCK_T descriptor with a slice code above 3 delivers (R92). -/
opaque marverSlice : Bytes → Nat
/-- The format code, below 4, an operand of an ELEMENTWISE is read in: no field of R49 gives it (R55). -/
opaque ewFormat : Bytes → Bool → Nat
/-- The vector engine's softmax in FP32 (R212, R227): the routine's steps are not in the spec. -/
opaque softmax : List Word → List Word
/-- The residual a token starts from (R67): the embedding of the base model. -/
opaque embed : Bytes → Nat → List Word
/-- What a base model's image says of a layer: by its digest and the layer. -/
opaque plan : Bytes → Nat → Plan
/-- A matrix of the layer map in the base's working format (R215, R364): digest, layer, base matrix number. -/
opaque baseWeight : Bytes → Nat → Nat → WorkCopy
/-- A routed expert's tensor in the base's working format: digest, expert, layer, and kind as TensorInfo counts (R180). -/
opaque expertWeight : Bytes → Nat → Nat → Nat → WorkCopy
/-- The place of one of the base model's own intermediate gradients in its layer's list (R90): digest, layer, and what it is. -/
opaque gradPlace : Bytes → Nat → Nat → Nat
/-- The index of an attention-score gradient within its tensor, taken modulo 2^27: digest, layer, row, head, position (R90). -/
opaque scoreIndex : Bytes → Nat → Nat → Nat → Nat → Nat
/-- The reciprocal RMS of a residual; the norm and its gain applied; and the gradient through them (R101). The second number is 0 for
the attention norm and 1 for the expert norm. -/
opaque rmsScale : List Word → Word
opaque rmsApply : Bytes → Nat → Nat → List Word → Word → List Word
opaque rmsGrad : Bytes → Nat → Nat → List Word → Word → List Word → List Word
/-- Rotary positions: the heads of a row rotated by a position's angle, a negative one on the way back (R101). -/
opaque rotate : Bytes → Nat → Int → List Word → List Word
/-- The attention softmax of one head's scores: the probabilities and the log-sum-exp; the probabilities again from the log-sum-exp; and
the gradient of the scores from the probabilities, their gradients, and the head's output and its gradient (R101). -/
opaque attnProbs : Bytes → Nat → List Word → List Word × Word
opaque probsFromLse : Bytes → Nat → List Word → Word → List Word
opaque softmaxGrad : Bytes → Nat → List Word → List Word → List Word → List Word → List Word
/-- The gradient of the router logits from the probabilities, the gate weights of the selected experts and their gradients (R101). -/
opaque routerGrad : Bool → List Word → List (Nat × Word) → List Word → List Word
/-- The output head: the logits of a final residual, and the gradient of that residual from the gradient of the logits (R101). -/
opaque headLogits : Bytes → List Word → List Word
opaque headBack : Bytes → List Word → List Word → List Word
/-- The F8 conversions of the output head that saturate, for a final residual (R65): its products are not in the spec. -/
opaque headSats : Bytes → List Word → Nat
/-- The loss of a token from the logits of the position before it (R204, R344). -/
opaque tokenLoss : List Word → Nat → Word
/-- The loss weight of a step of so many tokens (R101, R120). -/
opaque lossWeight : Bytes → Nat → Word
/-- Payload bytes of a REDUCE or ANNOUNCE frame (R241): their packing is not in the spec. -/
opaque messageBytes : Nat → Nat
/-- Pages one member's image of a variant takes (R183): the packing is not in the spec. -/
opaque imagePages : List TensorInfo → Nat
/-- HBM pages a resident variant takes on a member (R150). -/
opaque variantHbm : List TensorInfo → Nat
/-- 64 KiB pages of a cullet log record in the page store (R397). -/
opaque logPages : List LogRecord → Nat
/-- The credits a service-mode stream of pages of some kind asks for (R164): the rate its consumer needs is not in the spec. -/
opaque serviceCredits : Nat → Nat
/-- The page of the page store a log page with a given page_seq goes to (R397, R427): the spec gives no rule for the place. -/
opaque logPlace : Nat → Nat
/-- ECDSA P-384 by RFC 6979 under the identity key (R413, R431): 96 bytes. -/
opaque sign : Bytes → Bytes
/-- The boot ROM's own contents' digest (R417). -/
opaque bootRomDigest : Bytes
/-- The key of an INBOUND window or of a session's status window (R156, R353): the spec gives no rule for its value. -/
opaque rkey : Nat → Nat
/-- Svantaene's assigned OUI (R254). -/
opaque vendorOui : Bytes
/-- What a packed image's digest is taken over: the bytes of a working copy (R400, R432). -/
opaque copyBytes : WorkCopy → Bytes

end Sys2Proof.Config
end

