-- ==== Sys2Proof/Machine/Codes.lean ====
section
/-! DEFINITION. The numbers the manual fixes: statuses (R311), events (R313), counters (R367), fault kinds (R408),
opcodes (R300, R326 to R375) and tenant counters (R295). -/

namespace Sys2Proof.Machine

def stOk : Nat := 0x0000
def stOkReplayed : Nat := 0x0001
def stOkDegraded : Nat := 0x0002
def stBadVersion : Nat := 0x0100
def stAuthFail : Nat := 0x0101
def stNoSession : Nat := 0x0102
def stBusy : Nat := 0x0103
def stNotPermitted : Nat := 0x0104
def stContextGone : Nat := 0x0200
def stFrozen : Nat := 0x0201
def stSlotBusy : Nat := 0x0202
def stAdapterLost : Nat := 0x0203
def stAdapterLoadFailed : Nat := 0x0204
def stTableFull : Nat := 0x0205
def stSkipped : Nat := 0x0300
def stStepLimit : Nat := 0x0301
def stStashExhausted : Nat := 0x0302
def stReplicaDiverged : Nat := 0x0303
def stStreamStall : Nat := 0x0400
def stHalted : Nat := 0x0401
def stTaskAborted : Nat := 0x0402
def stNoSpare : Nat := 0x0403
def stLinkDown : Nat := 0x0500

def evReady : Nat := 0x0001
def evTileRetired : Nat := 0x0002
def evDegraded : Nat := 0x0003
def evReplicaDiverged : Nat := 0x0004
def evDrift : Nat := 0x0005
def evCounterSaturated : Nat := 0x0006
def evCdcStall : Nat := 0x0007
def evStashSpill : Nat := 0x0008
def evStashRecompute : Nat := 0x0009
def evScaleAdjust : Nat := 0x000A
def evNeighbourJoined : Nat := 0x000B
def evNeighbourLeft : Nat := 0x000C
def evBypassOpened : Nat := 0x000D
def evBypassClosed : Nat := 0x000E
def evThermal : Nat := 0x000F
def evFwStaged : Nat := 0x0010
def evContextReset : Nat := 0x0011

def cBadPackets : Nat := 0x0001
def cAuthFailures : Nat := 0x0002
def cPagesAuthFailed : Nat := 0x0003
def cF8Saturations : Nat := 0x0004
def cNonfiniteServing : Nat := 0x0005
def cSramCorrected : Nat := 0x0006
def cHbmCorrected : Nat := 0x0007
def cHbmUncorrectable : Nat := 0x0008
def cArrayFaults : Nat := 0x0009
def cStreamStalls : Nat := 0x000A
def cPauseFc : Nat := 0x000B
def cEthDropped : Nat := 0x000C
def cCaneDropped : Nat := 0x000D
def cCaneTagFailures : Nat := 0x000E
def cCaneTrainingFailures : Nat := 0x000F
def cJoinRefusals : Nat := 0x0010
def cEventsDropped : Nat := 0x0011

/-- Places of the tenant counters in the table Tenant counters (R295); their ids start at 0x0100 (R367). -/
def tTokensReturned : Nat := 0
def tRequestsEnded : Nat := 1
def tSamplesQueued : Nat := 2
def tSamplesDropped : Nat := 3
def tStepsCommitted : Nat := 4
def tStepsSkipped : Nat := 5
def tEventsDropped : Nat := 6
def tPagesIn : Nat := 7
def tPagesOut : Nat := 8
def tTileCc : Nat := 9
def tStreamBytes : Nat := 10

def fkArrayFault : Nat := 0x0001
def fkSramDouble : Nat := 0x0002
def fkHbmUncorrectable : Nat := 0x0003
def fkHbmCrc : Nat := 0x0004
def fkSelftestFail : Nat := 0x0005
def fkRetireCommand : Nat := 0x0006
def fkCdcStall : Nat := 0x0007
def fkThermalShutdown : Nat := 0x0008
def fkBypassFaultClose : Nat := 0x0009
def fkPowerLoss : Nat := 0x000A
def fkLinkDown : Nat := 0x000B
def fkRetiredList : Nat := 0x000C

def opHello : Nat := 0x0001
def opOpenSession : Nat := 0x0002
def opCloseSession : Nat := 0x0003
def opKeyAdd : Nat := 0x0004
def opKeyRemove : Nat := 0x0005
def opContextCreate : Nat := 0x0101
def opContextDestroy : Nat := 0x0102
def opContextReset : Nat := 0x0103
def opContextSuspend : Nat := 0x0104
def opContextResume : Nat := 0x0105
def opContextShares : Nat := 0x0106
def opVariantCreate : Nat := 0x0201
def opVariantDestroy : Nat := 0x0202
def opVariantImport : Nat := 0x0203
def opVariantExport : Nat := 0x0204
def opEvict : Nat := 0x0205
def opExpertAttach : Nat := 0x0206
def opExpertDetach : Nat := 0x0207
def opStep : Nat := 0x0301
def opEval : Nat := 0x0302
def opSetRule : Nat := 0x0303
def opFreeze : Nat := 0x0304
def opCheckpoint : Nat := 0x0305
def opRestore : Nat := 0x0306
def opReplay : Nat := 0x0307
def opSubmit : Nat := 0x0401
def opCancel : Nat := 0x0402
def opMapWindow : Nat := 0x0501
def opLoadProgram : Nat := 0x0502
def opRunProgram : Nat := 0x0503
def opStreamOpen : Nat := 0x0504
def opStreamClose : Nat := 0x0505
def opRingJoin : Nat := 0x0601
def opRingLeave : Nat := 0x0602
def opQuery : Nat := 0x0701
def opCounters : Nat := 0x0702
def opPowerStatus : Nat := 0x0703
def opSelectProfile : Nat := 0x0704
def opFwStage : Nat := 0x0705
def opFwActivate : Nat := 0x0706
def opAttest : Nat := 0x0707
def opRetireTile : Nat := 0x0708
def opFaultRecordRead : Nat := 0x0709
def opBaseLoad : Nat := 0x070A

end Sys2Proof.Machine
end

