-- ==== Sys2Proof/Machine/Fp.lean ====
section
/-! DEFINITION. The number formats of R59 and R60, their conversions (R64 to R66, R69, R140) and FP32
arithmetic (R62), by exact integer arithmetic and one explicit rounding. -/

namespace Sys2Proof.Machine

/-- The exact value a format's bits stand for. `fin neg m e` is m x 2^e with its sign (zeros keep theirs, R62). -/
inductive Fp where
  | nan
  | inf (neg : Bool)
  | fin (neg : Bool) (m : Nat) (e : Int)
  deriving DecidableEq, Repr

/-- A binary format: precision with its hidden bit, exponent of its smallest step, number of fraction bits,
and the largest finite encoding (R60). -/
structure Format where
  prec : Nat
  lsb : Int
  maxEnc : Nat
  width : Nat
  deriving DecidableEq, Repr

/-- FP32: IEEE 754-2019 binary32 (R59). -/
def fmtFP32 : Format := ⟨24, -149, 0x7F7FFFFF, 32⟩
/-- B16: bits [31:16] of the binary32 layout (R59). -/
def fmtB16 : Format := ⟨8, -133, 0x7F7F, 16⟩
/-- F8: E4M3 (R59); largest finite 448. -/
def fmtF8 : Format := ⟨4, -9, 0x7E, 8⟩
/-- G8: E5M2 (R59); largest finite 57,344. -/
def fmtG8 : Format := ⟨3, -16, 0x7B, 8⟩
/-- W4 element: E2M1 (R59); largest magnitude 6. -/
def fmtW4 : Format := ⟨2, -1, 0x7, 4⟩

/-- The emitted NaN of FP32 (R60). -/
def nan32 : Word := 0x7FC00000#32

/-- The finite value an encoding stands for, read by a format's layout. -/
def Format.value (f : Format) (enc : Nat) : Fp :=
  let neg := enc.testBit (f.width - 1)
  let mag := enc % 2 ^ (f.width - 1)
  let ex := mag / 2 ^ (f.prec - 1)
  let fr := mag % 2 ^ (f.prec - 1)
  if ex = 0 then .fin neg fr f.lsb else .fin neg (fr + 2 ^ (f.prec - 1)) (f.lsb + (ex : Int) - 1)

/-- Widening of FP32 (R64, R60). -/
def ofFP32 (w : Word) : Fp :=
  let n := w.toNat
  let mag := n % 2 ^ 31
  if mag < 0x7F800000 then fmtFP32.value n
  else if mag = 0x7F800000 then .inf (n.testBit 31) else .nan

/-- Widening of B16. -/
def ofB16 (n : Nat) : Fp := ofFP32 (BitVec.ofNat 32 (n * 65536))

/-- Widening of F8: 0x7F and 0xFF are NaN, there is no infinity (R60). -/
def ofF8 (n : Nat) : Fp := if n % 128 = 0x7F then .nan else fmtF8.value n

/-- Widening of G8: 0x7C and 0xFC are the infinities, the codes above them NaN (R60). -/
def ofG8 (n : Nat) : Fp :=
  if n % 128 < 0x7C then fmtG8.value n else if n % 128 = 0x7C then .inf (n.testBit 7) else .nan

/-- A value times a power of two, exactly. -/
def Fp.scale : Fp → Int → Fp
  | .fin s m e, k => .fin s m (e + k)
  | x, _ => x

/-- Truncation of m x 2^e toward zero onto a format's grid: the step count, the step's exponent, and the
part cut off as a numerator over 2^sh. -/
def truncMag (f : Format) (m : Nat) (e : Int) : Nat × Int × Nat × Nat :=
  let top := e + (Nat.log2 m : Int) + 1
  let x := max (top - (f.prec : Int)) f.lsb
  if m = 0 then (0, f.lsb, 0, 0)
  else if x ≤ e then (m * 2 ^ (e - x).toNat, x, 0, 0)
  else
    let sh := (x - e).toNat
    (m / 2 ^ sh, x, m % 2 ^ sh, sh)

/-- The encoding of q steps of 2^x, without sign; q may be one more than the format's precision holds. -/
def Format.enc (f : Format) (q : Nat) (x : Int) : Nat := (x - f.lsb).toNat * 2 ^ (f.prec - 1) + q

/-- The magnitude code of m x 2^e (and a little more when `sticky`) rounded to nearest even. It may lie
above the format's largest finite code. -/
def roundMag (f : Format) (m : Nat) (e : Int) (sticky : Bool) : Nat :=
  let (q, x, rem, sh) := truncMag f m e
  let twice := 2 * rem
  let half := 2 ^ sh
  let up := decide (half < twice) || (decide (twice = half) && decide (0 < sh) && (sticky || decide (q % 2 = 1)))
  f.enc (if up then q + 1 else q) x

/-- The sign bit of a format set or clear on a magnitude code. -/
def Format.signed (f : Format) (neg : Bool) (mag : Nat) : Nat := if neg then 2 ^ (f.width - 1) + mag else mag

/-- Rounding to FP32, to nearest even, with overflow to infinity (R62). -/
def packFP32 (neg : Bool) (m : Nat) (e : Int) (sticky : Bool) : Word :=
  let mag := roundMag fmtFP32 m e sticky
  BitVec.ofNat 32 (fmtFP32.signed neg (if mag ≤ fmtFP32.maxEnc then mag else 0x7F800000))

/-- An exact value as FP32, rounded once to nearest even; every NaN becomes the emitted one (R62). -/
def toFP32 : Fp → Word
  | .nan => nan32
  | .inf neg => if neg then 0xFF800000#32 else 0x7F800000#32
  | .fin neg m e => packFP32 neg m e false

/-- Whether an FP32 word is an infinity or NaN. -/
def nonFinite (w : Word) : Bool := decide (0x7F800000 ≤ w.toNat % 2 ^ 31)

/-- Exact product (binary32 special values: infinity times zero is NaN). -/
def Fp.mul : Fp → Fp → Fp
  | .nan, _ => .nan
  | _, .nan => .nan
  | .inf s, .inf t => .inf (s != t)
  | .inf s, .fin t m _ => if m = 0 then .nan else .inf (s != t)
  | .fin s m _, .inf t => if m = 0 then .nan else .inf (s != t)
  | .fin s m e, .fin t n f => .fin (s != t) (m * n) (e + f)

/-- The signed numerator of a finite value over 2^k. -/
def scaledInt (neg : Bool) (m : Nat) (e k : Int) : Int :=
  let v : Int := (m * 2 ^ (e - k).toNat : Nat)
  if neg then -v else v

/-- Exact sum. A sum of exactly zero is +0 unless both terms are -0 (nearest-even binary32). -/
def Fp.add : Fp → Fp → Fp
  | .nan, _ => .nan
  | _, .nan => .nan
  | .inf s, .inf t => if s = t then .inf s else .nan
  | .inf s, .fin _ _ _ => .inf s
  | .fin _ _ _, .inf t => .inf t
  | .fin s m e, .fin t n f =>
    let k := min e f
    let v := scaledInt s m e k + scaledInt t n f k
    if v = 0 then .fin (s && t) 0 0 else .fin (decide (v < 0)) v.natAbs k

/-- The exact sum of a list of values (R35 step 2). A sum of no values is +0 (R481). -/
def Fp.sum : List Fp → Fp
  | [] => .fin false 0 0
  | x :: xs => xs.foldl Fp.add x

/-- FP32 addition, rounded once (R62). -/
def fadd (a b : Word) : Word := toFP32 ((ofFP32 a).add (ofFP32 b))
/-- The negative of an FP32 value; a NaN stays a NaN. -/
def fneg (a : Word) : Word := a ^^^ 0x80000000#32
/-- FP32 subtraction (R62). -/
def fsub (a b : Word) : Word := toFP32 ((ofFP32 a).add (ofFP32 (fneg b)))
/-- FP32 multiplication (R62). -/
def fmul (a b : Word) : Word := toFP32 ((ofFP32 a).mul (ofFP32 b))
/-- Fused multiply and add, one rounding (R55). -/
def ffma (a k b : Word) : Word := toFP32 (((ofFP32 a).mul (ofFP32 k)).add (ofFP32 b))
/-- A value times 2^k, rounded once (R72). -/
def fscale (a : Word) (k : Int) : Word := toFP32 ((ofFP32 a).scale k)

/-- The order key of a non-NaN FP32 word: both zeros have key 0. -/
def orderKey (w : Word) : Int :=
  let n := w.toNat
  if n < 2 ^ 31 then (n : Int) else -((n - 2 ^ 31 : Nat) : Int)

/-- Whether an FP32 word is a NaN. -/
def isNaN (w : Word) : Bool := decide (0x7F800000 < w.toNat % 2 ^ 31)

/-- Strict order of FP32 values; a NaN compares with nothing. -/
def flt (a b : Word) : Bool := !isNaN a && !isNaN b && decide (orderKey a < orderKey b)

/-- Integer square root by setting bits from the top: the largest r below 2^n with r x r at most v. -/
def isqrt (v : Nat) : Nat → Nat → Nat
  | 0, r => r
  | n + 1, r =>
    let r' := r + 2 ^ n
    isqrt v n (if r' * r' ≤ v then r' else r)

/-- Correctly rounded reciprocal (R56). -/
def recip (w : Word) : Word :=
  match ofFP32 w with
  | .nan => nan32
  | .inf s => if s then 0x80000000#32 else 0#32
  | .fin s m e =>
    if m = 0 then (if s then 0xFF800000#32 else 0x7F800000#32)
    else packFP32 s (2 ^ 80 / m) (-80 - e) (decide (2 ^ 80 % m ≠ 0))

/-- Correctly rounded reciprocal square root (R56). -/
def rsqrt (w : Word) : Word :=
  match ofFP32 w with
  | .nan => nan32
  | .inf s => if s then nan32 else 0#32
  | .fin s m e =>
    if m = 0 then (if s then 0xFF800000#32 else 0x7F800000#32)
    else if s then nan32
    else
      let m' := if e % 2 = 0 then m else 2 * m
      let e' := if e % 2 = 0 then e else e - 1
      let r := isqrt (2 ^ 160 / m') 81 0
      packFP32 false r (-80 - e' / 2) (decide (r * r * m' ≠ 2 ^ 160))

/-- Bits of working precision of exp2. DEDUCED: enough for every FP32 input to round correctly (assumption log 129). -/
def expBits : Nat := 256

/-- The product of 2^(2^-i) over the set bits of a fraction of `n` bits still to read, all scaled by 2^256:
`c` is the factor of the next bit. -/
def exp2Frac (f : Nat) : Nat → Nat → Nat → Nat
  | 0, _, acc => acc
  | n + 1, c, acc =>
    let acc' := if f.testBit n then acc * c / 2 ^ expBits else acc
    exp2Frac f n (isqrt (c * 2 ^ expBits) (expBits + 1) 0) acc'

/-- Correctly rounded 2^x (R56). -/
def exp2 (w : Word) : Word :=
  match ofFP32 w with
  | .nan => nan32
  | .inf s => if s then 0#32 else 0x7F800000#32
  | .fin s m e =>
    if flt w 0x43000000#32 then
      if flt w 0xC3170000#32 then 0#32
      else
        let v := scaledInt s m e (-149)
        let n := v / 2 ^ 149
        let f := (v % 2 ^ 149).toNat
        if f = 0 then packFP32 false 1 n false
        else packFP32 false (exp2Frac f 149 (isqrt (2 ^ (2 * expBits + 1)) (expBits + 1) 0) (2 ^ expBits))
          (n - expBits) true
    else 0x7F800000#32

/-- The first `n` binary digits of the base-2 logarithm of y in [1, 2), y scaled by 2^256. -/
def log2Digits : Nat → Nat → Nat → Nat
  | 0, _, acc => acc
  | n + 1, y, acc =>
    let y2 := y * y / 2 ^ expBits
    if 2 ^ (expBits + 1) ≤ y2 then log2Digits n (y2 / 2) (2 * acc + 1) else log2Digits n y2 (2 * acc)

/-- Correctly rounded base-2 logarithm (R56). -/
def log2 (w : Word) : Word :=
  match ofFP32 w with
  | .nan => nan32
  | .inf s => if s then nan32 else 0x7F800000#32
  | .fin s m e =>
    if m = 0 then 0xFF800000#32
    else if s then nan32
    else
      let k := Nat.log2 m
      let n := e + (k : Int)
      if m = 2 ^ k then packFP32 (decide (n < 0)) n.natAbs 0 false
      else
        let v := n * 2 ^ 200 + (log2Digits 200 (m * 2 ^ (expBits - k)) 0 : Nat)
        if 0 ≤ v then packFP32 false v.toNat (-200) true
        else packFP32 true ((-v).toNat - 1) (-200) true

/-- x / y means x times recip(y) (R120). -/
def fdiv (a b : Word) : Word := fmul a (recip b)
/-- sqrt(x) means x times rsqrt(x) above zero, and 0 at zero (R120). -/
def fsqrt (a : Word) : Word := if a.toNat % 2 ^ 31 = 0 then 0#32 else fmul a (rsqrt a)

/-- One level of the pairwise order (R481). -/
def pairLevel : List Word → List Word
  | a :: b :: t => fadd a b :: pairLevel t
  | l => l

/-- Pairwise levels until one value remains, `fuel` levels at most. -/
def pairSumFuel : Nat → List Word → Word
  | _, [] => 0#32
  | _, [x] => x
  | 0, x :: _ => x
  | n + 1, l => pairSumFuel n (pairLevel l)

/-- The sum of values pairwise in a fixed order (R481). -/
def pairSum (l : List Word) : Word := pairSumFuel (Nat.log2 l.length + 1) l

/-- A narrow value with its flags: whether a finite value saturated, whether the input was non-finite (R65). -/
structure Narrow where
  enc : Nat
  sat : Bool
  bad : Bool
  deriving DecidableEq, Repr

/-- FP32 to B16, nearest even; infinities and the emitted NaN (R65). -/
def toB16 (w : Word) : Nat :=
  match ofFP32 w with
  | .nan => 0x7FC0
  | .inf s => if s then 0xFF80 else 0x7F80
  | .fin s m e =>
    let mag := roundMag fmtB16 m e false
    fmtB16.signed s (if mag ≤ fmtB16.maxEnc then mag else 0x7F80)

/-- Whether m x 2^e exceeds a format's largest finite value. -/
def exceeds (f : Format) (m : Nat) (e : Int) : Bool :=
  match f.value f.maxEnc with
  | .fin _ n g =>
    let k := min e g
    decide (scaledInt false n g k < scaledInt false m e k)
  | _ => false

/-- FP32 to F8, nearest even, saturating at 448 (R65). -/
def toF8 (w : Word) : Narrow :=
  match ofFP32 w with
  | .fin s m e =>
    if exceeds fmtF8 m e then ⟨fmtF8.signed s fmtF8.maxEnc, true, false⟩
    else ⟨fmtF8.signed s (roundMag fmtF8 m e false), false, false⟩
  | _ => ⟨0x7F, false, true⟩

/-- Stochastic rounding of a magnitude with the 16-bit word r (R69 steps 2 to 5; R140). -/
def stochMag (f : Format) (m : Nat) (e : Int) (r : Nat) : Nat :=
  let (q, x, rem, sh) := truncMag f m e
  let t := 65536 * rem / 2 ^ sh
  f.enc (if t + r < 65536 then q else q + 1) x

/-- FP32, already scaled, to G8 with the element's random word (R65, R69). -/
def toG8 (w : Word) (r : Nat) : Narrow :=
  match ofFP32 w with
  | .nan => ⟨0x7E, false, true⟩
  | .inf s => ⟨if s then 0xFC else 0x7C, false, true⟩
  | .fin s m e =>
    if exceeds fmtG8 m e then ⟨fmtG8.signed s fmtG8.maxEnc, true, false⟩
    else ⟨fmtG8.signed s (stochMag fmtG8 m e r), false, false⟩

/-- The in-place rounding of R140 onto a grid (W4 or F8): clamp, else stochastic. -/
def inPlaceRound (f : Format) (q : Fp) (r : Nat) : Option Nat :=
  match q with
  | .fin s m e =>
    if exceeds f m e then some (f.signed s f.maxEnc) else some (f.signed s (stochMag f m e r))
  | _ => none

/-- The value of a W4 element under a scale byte; scale 0xFF makes it NaN (R60, R64). -/
def ofW4 (elem scale : Nat) : Fp :=
  if scale = 0xFF then .nan else (fmtW4.value elem).scale ((scale : Int) - 127)

/-- A W4 element widened to FP32 (R64). -/
def w4ToFP32 (elem scale : Nat) : Word := toFP32 (ofW4 elem scale)

/-- floor(log2) of a finite non-zero value. -/
def floorLog2 (m : Nat) (e : Int) : Int := e + (Nat.log2 m : Int)

/-- The largest magnitude's floor(log2) of a list of finite values; none when all are zero. -/
def maxLog2 : List Fp → Option Int
  | [] => none
  | .fin _ m e :: t =>
    match maxLog2 t with
    | none => if m = 0 then none else some (floorLog2 m e)
    | some k => if m = 0 then some k else some (max k (floorLog2 m e))
  | _ :: t => maxLog2 t

/-- Whether a value is finite. -/
def Fp.isFin : Fp → Bool
  | .fin _ _ _ => true
  | _ => false

/-- The scale byte of a W4 block of finite values (R66). -/
def w4Scale (vs : List Fp) : Nat :=
  match maxLog2 vs with
  | none => 0x7F
  | some k => (max (-127) (min 127 (k - 2)) + 127).toNat

/-- One element of a W4 block under its scale byte, rounded to nearest even (R66). -/
def w4Elem (scale : Nat) : Fp → Nat
  | .fin s m e =>
    let mag := roundMag fmtW4 m (e - ((scale : Int) - 127)) false
    fmtW4.signed s (min mag fmtW4.maxEnc)
  | _ => 0

/-- Conversion of a block of FP32 values to W4: scale byte, elements, non-finite flag (R66). -/
def toW4Block (vs : List Word) : Nat × List Nat × Bool :=
  let xs := vs.map ofFP32
  if xs.all Fp.isFin then
    let sc := w4Scale xs
    (sc, xs.map (w4Elem sc), false)
  else (0xFF, vs.map (fun _ => 0), true)

/-- big_l of R73: a magnitude above 3,584. -/
def bigFP (w : Word) : Bool := flt 0x45600000#32 (BitVec.ofNat 32 (w.toNat % 2 ^ 31))

end Sys2Proof.Machine
end

