-- ==== Sys2Proof/Machine/Tab.lean ====
section
/-! DEFINITION. Finite tables keyed by number: sorted lists of key and value, so that equal tables are equal
data. Every numbered collection of the module (contexts, variants, tiles, sessions, ...) is one. -/

namespace Sys2Proof.Machine

/-- A table: keys strictly rising. -/
abbrev Tab (α : Type) := List (Nat × α)

/-- The entry of a key. -/
def Tab.find {α : Type} : Tab α → Nat → Option α
  | [], _ => none
  | (k, v) :: t, i => if k = i then some v else Tab.find t i

/-- The entry of a key, or a default. -/
def Tab.getOr {α : Type} (t : Tab α) (i : Nat) (d : α) : α := (t.find i).getD d

/-- Write an entry, keeping the order. -/
def Tab.put {α : Type} : Tab α → Nat → α → Tab α
  | [], i, v => [(i, v)]
  | (k, w) :: t, i, v =>
    if k = i then (i, v) :: t
    else if k < i then (k, w) :: Tab.put t i v
    else (i, v) :: (k, w) :: t

/-- Remove an entry. -/
def Tab.del {α : Type} : Tab α → Nat → Tab α
  | [], _ => []
  | (k, w) :: t, i => if k = i then Tab.del t i else (k, w) :: Tab.del t i

/-- Change an entry that exists. -/
def Tab.modify {α : Type} (t : Tab α) (i : Nat) (f : α → α) : Tab α :=
  match t.find i with
  | some v => t.put i (f v)
  | none => t

/-- The keys in use. -/
def Tab.keys {α : Type} (t : Tab α) : List Nat := t.map Prod.fst

/-- The entries without their keys. -/
def Tab.vals {α : Type} (t : Tab α) : List α := t.map Prod.snd

/-- Change every entry. -/
def Tab.each {α : Type} (t : Tab α) (f : Nat → α → α) : Tab α := t.map (fun p => (p.1, f p.1 p.2))

/-- Keep the entries that pass. -/
def Tab.keep {α : Type} (t : Tab α) (p : Nat → α → Bool) : Tab α := t.filter (fun q => p q.1 q.2)

/-- The keys strictly rise. -/
def Tab.wf {α : Type} (t : Tab α) : Prop := t.keys.Pairwise (· < ·)

/-- The lowest of 0 to n - 1 that is no key (R306). -/
def Tab.lowestFree {α : Type} (t : Tab α) (n : Nat) : Option Nat :=
  (List.range n).find? (fun i => (t.find i).isNone)

/-! ## Order -/

/-- Put an element into an ordered list, before those it does not follow. -/
def insertBy {α : Type} (le : α → α → Bool) (x : α) : List α → List α
  | [] => [x]
  | y :: ys => if le x y then x :: y :: ys else y :: insertBy le x ys

/-- A list in order; elements that tie keep the order they had. -/
def sortBy {α : Type} (le : α → α → Bool) (l : List α) : List α := l.foldr (insertBy le) []

end Sys2Proof.Machine
end

