-- ==== Sys2Proof/Machine/State.lean ====
section
/-! DEFINITION. The state of the module: every piece the spec gives it, as plain data, and the state at power-on. -/

namespace Sys2Proof.Machine

/-! ## Reasons to stop -/

/-- Why a step faults. Each constructor names one row of the table Undefined behaviour (R320). -/
inductive Fault where
  /-- Raised by MATMUL with an operand pair R32 does not list. Safe. -/
  | operandPair
  /-- Raised by MATMUL with reuse set and no such block loaded (R37). Safe. -/
  | reuseUnloaded
  /-- Raised by an operation whose destination overlaps an input (R47). Safe. -/
  | overlap
  /-- Raised by a tile-local offset not a multiple of 64 or a region past 8 MiB (R50). Safe. -/
  | tileOffset
  /-- Raised by a reserved descriptor code, or rank 64 on an F8 base (R51). Safe. -/
  | reservedCode
  /-- Raised by a reserved ew_op (R55). Safe. -/
  | reservedEwOp
  /-- Raised by a rounding element index of 2^32 or more (R71). Safe. -/
  | elementIndex
  /-- Raised by a marver descriptor outside its rules (R92, R93, R95). Safe. -/
  | marverDescriptor
  /-- Raised by a reserved drain_fn (R99). Safe. -/
  | reservedDrainFn
  /-- Raised by a drain_fn with a form R100 excludes. Safe. -/
  | drainFnForm
  /-- Raised by a SET_RULE value outside its range (R118). Safe. -/
  | ruleRange
  /-- Raised by a program that writes a generation slot a running operation reads (R143). Safe. -/
  | slotInUse
  /-- Raised by a stream descriptor outside R162. Safe. -/
  | streamDescriptor
  /-- Raised by streams opened unchecked whose buffers overlap or exceed the space free (R168). Safe. -/
  | uncheckedStream
  /-- Raised by a malformed body of a command that passes every general check (R302). Safe. -/
  | malformedBody
  /-- Raised by a command whose sequence is still awaiting its final reply (R309). Safe. -/
  | duplicateSequence
  /-- Raised by a transport-mode reset issued in another order (R455). Safe. -/
  | resetOrder
  deriving DecidableEq, Repr

/-- Why a step refuses. -/
inductive Refusal where
  /-- Raised by exec's arm of a command that has no meaning yet. Safe: the machine stops. -/
  | notModelled (mnemonic : String)
  deriving DecidableEq, Repr

/-! ## Outputs -/

/-- A packet the module sends (R298, R302, R310): `status` is none for an EVENT. -/
structure Packet where
  qp : Nat
  minor : Nat
  opcode : Nat
  final : Bool
  seq : Nat
  ctx : Nat
  variant : Nat
  status : Option Nat
  params : List (Nat × Bytes)
  deriving DecidableEq, Repr

/-- RoCEv2 answers that are not packets (R154, R297). -/
inductive Nak where
  | invalidRequest | rnr | remoteAccess
  deriving DecidableEq, Repr

/-- What leaves the module. -/
inductive Out where
  | packet (p : Packet)
  | nak (qp : Nat) (kind : Nak)
  | rdmaReply (qp : Nat) (bytes : Bytes)
  | connected (qp port : Nat)
  | page (region : Region) (index : Nat) (p : SealedPage)
  | pageRead (region : Region) (index : Nat)
  | hostRead (region : Region) (offset : Nat)
  | hostWrite (region : Region) (offset : Nat) (bytes : Bytes)
  | frame (port : Nat) (f : Frame)
  | lldpdu (port : Nat) (d : Lldpdu)
  | cnp (qp : Nat)
  | pfc (port priority : Nat) (xoff : Bool)
  deriving DecidableEq, Repr

/-! ## Protocol -/

/-- An event (R286, R287): module scope when `ctx` is none. -/
structure Event where
  code : Nat
  ctx : Option Nat
  incarnation : Nat
  causeSeq : Nat
  step : Nat
  variant : Nat
  params : List (Nat × Bytes)
  deriving DecidableEq, Repr

/-- What waits on a session for its port engine, in the order the gaffer produced it (R288). -/
inductive Egress where
  | event (e : Event)
  | reply (p : Packet)
  deriving DecidableEq, Repr

/-- The state of a queue pair (R303, R308). -/
inductive QpState where
  | hello | openState | session (n : Nat) | error
  deriving DecidableEq, Repr

/-- A queue pair: its port, state, session minor, packets in its receives, and sending rate in bits per second (R236). -/
structure Qp where
  port : Nat
  st : QpState
  minor : Nat
  inbox : List Bytes
  rate : Nat
  target : Nat
  rises : Nat
  deriving DecidableEq, Repr

/-- The role of a session (R8). -/
inductive Role where
  | operator | tenant (ctx : Nat)
  deriving DecidableEq, Repr

/-- A session (R287, R289, R307, R309, R430). -/
structure Session where
  serial : Nat
  qp : Nat
  role : Role
  awaiting : List (Nat × Nat)
  egress : List Egress
  eventSeq : Nat
  dropped : Nat
  reportSeq : Nat
  statusKey : Nat
  deriving DecidableEq, Repr

/-- A provisioned key: 16-byte salt and 48-byte digest (R304). -/
structure KeySlot where
  salt : Bytes
  digest : Bytes
  deriving DecidableEq, Repr

/-- A command in progress, for its later reply: the session it came on (its number, and the model's own serial of
that session, since numbers are given again), the queue pair, and its header. -/
structure Ticket where
  session : Nat
  serial : Nat
  qp : Nat
  seq : Nat
  opcode : Nat
  ctx : Nat
  variant : Nat
  deriving DecidableEq, Repr

/-- A counter: value, SAT and WRAP (R405, R406). -/
structure Counter where
  value : Nat
  sat : Bool
  wrap : Bool
  deriving DecidableEq, Repr

/-! ## Contexts -/

/-- The states of a context (R275). -/
inductive CtxState where
  | free | creating | active | suspended | resetting | destroying
  deriving DecidableEq, Repr

/-- The settings of a context, as given or defaulted (R103, R154, R177, R186, R200, R208, R276, R331). `region` and `spillArea` are the
stash region and the spill area that are in use, in 256 KiB and 64 MiB: none in transport mode (R111). -/
structure Settings where
  groupSize : Nat
  groupFirst : Nat
  tileAlloc : Nat
  weight : Nat
  caps : Caps
  ringWeight : Nat
  watch : Bool
  stash : StashSet
  region : Nat
  spillArea : Nat
  parison : ParisonSet
  parkLimit : Nat
  variantFirst : Nat
  variantCount : Nat
  slotGrant : List Nat
  pageStore : Option Region
  seedGiven : Option Nat
  sampleQueue : Nat
  replicaPolicy : Nat
  digestInterval : Nat
  extents : List (Nat × Nat)
  deriving DecidableEq, Repr

/-- A row of a parison (R207, R210, R211, R224). -/
structure Row where
  request : Nat
  position : Nat
  token : Nat
  last : Bool
  layer : Nat
  residual : List Word
  generation : Nat
  copies : List WorkCopy
  awaiting : List Nat
  gates : List (Nat × Word)
  answers : List (Nat × List Nat)
  deriving DecidableEq, Repr

/-- A parison (R207, R209, R210): `sets` are the adapter column block sets of one that has begun, each its rank and the variants that take
its slots in order. -/
structure Parison where
  id : Nat
  rows : List Row
  sets : List (Nat × List Nat)
  deriving DecidableEq, Repr

/-- A unit of work (R282); `stopped` is one that a retirement has stopped, whose end brings nothing (R382). -/
inductive Work where
  | parison (p : Parison)
  | micro (variant step index : Nat)
  | evalMicro (eval index : Nat)
  | update (variant step : Nat)
  | program
  | stopped
  deriving DecidableEq, Repr

/-- A unit that runs, and the tiles it holds (R281). -/
structure Running where
  work : Work
  tiles : List Nat
  deriving DecidableEq, Repr

/-- Where a stash set is (R104, R105): `waiting` for the space a spill frees; `boundary` is the boundary alone of the lowest layer to be
recomputed. -/
inductive StashPlace where
  | onTile | waiting | spilling | spilled | boundary
  deriving DecidableEq, Repr

/-- The stash set's part of one row: exactly what the backward pass of its layer reads (R102), each value in the format of R63, the gate
and up values of routed and extra experts apart. The X operands are held only where a dW product of the step reads them. -/
structure RowSet where
  boundary : List Word
  rms1 : Word
  x1 : List Nat
  q : List Nat
  k : List Nat
  v : List Nat
  lse : List Word
  att : List Nat
  hs : List (Nat × List Nat)
  mid : List Word
  rms2 : Word
  x2 : List Nat
  probs : List Word
  gates : List (Nat × Word)
  shared : List (List Nat × List Nat)
  deriving DecidableEq, Repr

/-- A stash set held for a micro-batch and layer (R102): what it takes, where it is, and its rows. -/
structure StashEntry where
  size : StashSize
  place : StashPlace
  rows : List RowSet
  deriving DecidableEq, Repr

/-- A sample in the queue of a context (R200). -/
structure Queued where
  variant : Nat
  tokens : Sample
  deriving DecidableEq, Repr

/-- A window (R155). -/
inductive Window where
  | inbound (address length rkey : Nat)
  | outbound (host : Region) (absent : List Nat)
  deriving DecidableEq, Repr

/-- A program that runs (R355, R356): its number, the index of its next operation, whether it
stands at a BOUNDARY, and the UPDATE operations since the last COMMIT. -/
structure ProgRun where
  ticket : Ticket
  programNo : Nat
  program : Bytes
  digest : Bytes
  index : Nat
  atBoundary : Bool
  openUpdates : List Bytes
  deriving DecidableEq, Repr

/-- What a micro-batch that runs has with its experts' homes (R219, R224): the number of its parison, the legs of its pass whose bundles
have left, the bundles not yet answered, and the answers. -/
structure Travel where
  parison : Nat
  legs : Nat
  sent : List Bundle
  answers : List Bundle
  deriving DecidableEq, Repr

/-- Nothing sent. -/
def Travel.none : Travel := ⟨0, 0, [], []⟩

/-- A context, or on a member that is not its home its presence (R273). `present` says it has a ready or running unit
(R281); `awaitQuiet` are the members a CONTEXT_SUSPEND still awaits, or at another member the home that awaits its report (R291). -/
structure Ctx where
  st : CtxState
  home : Bool
  incarnation : Nat
  uid : Bytes
  salt : Option Bytes
  seed : Nat
  pageSeq : Nat
  settings : Settings
  tileBase : Nat
  keys : Tab KeySlot
  halted : List Nat
  v : Nat
  starts : List Bool
  schedule : Nat
  queue : List Queued
  counters : List Counter
  snapshot : List Nat
  unitsSince : Nat
  createTicket : Option Ticket
  destroyTickets : List Ticket
  resetTickets : List Ticket
  suspendTickets : List Ticket
  awaitQuiet : List Nat
  openParison : Option Parison
  closed : List Parison
  running : Option Running
  stash : List StashEntry
  windows : Tab Window
  programs : Tab (Bytes × Bytes)
  runQueue : List (Ticket × Nat)
  prog : Option ProgRun
  nextStream : Nat
  nextParison : Nat
  present : Bool
  travel : Travel := Travel.none
  deriving DecidableEq, Repr

/-! ## Variants -/

/-- The states of a directory entry (R181). -/
inductive VarState where
  | free | absent | loading | resident | evicting | writing | lost
  deriving DecidableEq, Repr

/-- An extra expert and the ring slot it is attached to (R179, R192, R196). `releasing` holds slots detached but not yet
released, each with the uses that still hold it. -/
structure Extra where
  decl : ExpertRec
  slot : Option Nat
  deriving DecidableEq, Repr

/-- A tensor this member owns or holds (R112, R132): committed state, staged state, the gradient of each step in flight under the
model's own number of the step (R125, R131), both slots. -/
structure Tensor where
  info : TensorInfo
  committed : TensorState
  staged : Option TensorState
  grads : Tab (List Word)
  slot0 : WorkCopy
  slot1 : WorkCopy
  half : Bool
  deriving DecidableEq, Repr

/-- A restore in progress (R349). -/
structure Restore where
  ticket : Ticket
  image : Region
  fromAbsent : Bool
  loading : Bool
  marked : Bool
  deriving DecidableEq, Repr

/-- A variant's directory entry and all that belongs to it (R181, R183). `sStartPending` is a starting exponent set and not yet taken,
with the model's own number of the SET_RULE, and `sStartTaken` the number of the last one taken (R119). `forked` says that the variant
was restored and the records beyond its counter are not replayed (R399); `fetching` are the tensors whose owner's copy is being
fetched (R401). -/
structure Var where
  st : VarState
  home : Bool
  ctx : Nat
  owners : List Nat
  curSlot : Bool
  dirty : Bool
  active : Bool
  activeSince : Nat
  force : Bool
  forDestroy : Bool
  pins : Nat
  pendingPins : Nat
  stepCounter : Nat
  largestGiven : Nat
  generation : Nat
  storePage : Nat
  storePages : Nat
  storeSeq : Nat
  lastUse : Nat
  manifestPage : Nat
  manifestLen : Nat
  settings : RuleSet
  sStartPending : Option (Nat × Int)
  sStartTaken : Nat
  forked : Bool
  fetching : List Nat
  lastDerive : Nat
  sExp : List Int
  quiet : List Nat
  extras : List Extra
  releasing : List (Nat × Nat × List Nat)
  tensors : List Tensor
  log : List LogRecord
  logPagesHeld : Nat
  sinceDigest : Nat
  partsWaiting : List Nat
  evictTickets : List Ticket
  destroyTickets : List Ticket
  restore : Option Restore
  hbmPages : Nat
  waitSpace : Bool
  deriving DecidableEq, Repr

/-- What waits for HBM that write-outs under way will free (R184, R273, R337, R339): a context created here and its
announcement, a presence and the home that hears of it, a variant that is ready to be placed and its reply, a part of a variant and the
home that hears of it (R183). -/
inductive SpaceUse where
  | context (n : Nat) (msg : AnnounceMsg)
  | presence (n home : Nat)
  | variant (id : Nat) (v : Var) (ticket : Ticket) (params : List (Nat × Bytes))
  | part (id home : Nat) (v : Var)
  deriving DecidableEq, Repr

/-- One of them, and the HBM pages it needs. -/
structure SpaceWait where
  need : Nat
  use : SpaceUse
  deriving DecidableEq, Repr

/-- A parked use (R185, R186): its entry of the park table, the command, the session that issued it, its place in intake order, and
whether it holds a pin (or a pending one). -/
structure Parked where
  entry : Nat
  order : Nat
  ticket : Ticket
  variant : Nat
  ctx : Nat
  pinned : Bool
  use : Instr
  deriving DecidableEq, Repr

/-- The pin of a request that has ended, held until its final reply has been sent (R23): the reply's ticket, the variant, and the
request's own number. -/
structure PinWait where
  ticket : Ticket
  variant : Nat
  holder : Nat
  deriving DecidableEq, Repr

/-- Phases of a step (R127); `checked` is one whose owner has reported its check and awaits the outcome (R128). -/
inductive Phase where
  | waiting | run | checked | updating | voted | flipped
  deriving DecidableEq, Repr

/-- Why a step must end at its next micro-batch boundary. -/
structure Ending where
  status : Nat
  deriving DecidableEq, Repr

/-- A training step in progress (R126, R127, R344). `leaderAt` is the position of its leader; `owners` and `stash` are those it runs
under, a replay's the record's (R398); `arrived` holds the working copies other owners have sent (R132), and `backAt` the layer the
backward pass of the micro-batch that runs has come down to (R133); `homeFull` the micro-batches and layers whose values an expert's home
had no room for (R107); `experts` the extra experts its rows run, those attached when it was accepted (R195, R213). -/
structure TStep where
  id : Nat
  variant : Nat
  ctx : Nat
  number : Nat
  ticket : Option Ticket
  leader : Bool
  leaderAt : Nat
  seed : Nat
  owners : List Nat
  stash : StashSet
  arrived : List (Nat × WorkCopy)
  backAt : Option Nat
  homeFull : List (Nat × Nat)
  replay : Option Nat
  incarnation : Nat
  updateSet : List Nat
  experts : List Nat
  settings : RuleSet
  schedule : Nat
  sStart : Option (Nat × Int)
  batches : List (List Sample)
  microRows : Nat
  generations : List Nat
  done : Nat
  phase : Phase
  stats : List LayerStat
  losses : List Word
  tokens : Nat
  spillPeak : Nat
  recomputed : List (Nat × Nat)
  recomputeForwards : Nat
  stashWork : Nat
  checks : Tab (Bool × List LayerStat)
  layersLeft : List Nat
  layersDone : List Nat
  derives : Bool
  badUpdate : Bool
  drift : List (Nat × Nat)
  compared : Nat
  votes : Tab Vote
  headers : List Nat
  digestsDue : Bool
  differ : List (Nat × List Nat)
  ending : Option Ending
  rerun : Bool
  degraded : Bool
  reading : List WorkCopy
  readExp : List Int
  pinned : Bool
  deriving DecidableEq, Repr

/-- An evaluation (R204, R205); `experts` are the extra experts its rows run (R195). -/
structure EvalRun where
  ticket : Ticket
  variant : Nat
  ctx : Nat
  experts : List Nat
  batches : List (List Sample)
  every : Nat
  commitsLeft : Nat
  active : Bool
  generation : Nat
  reading : List WorkCopy
  done : Nat
  losses : List Word
  tokens : Nat
  ending : Option Ending
  afterStep : Nat
  degraded : Bool
  rerun : Bool
  deriving DecidableEq, Repr

/-- A serving request (R225, R226). `kv` is its key-value state: for each layer the keys and values of its positions, F8 (R63, R225). -/
structure Request where
  ticket : Ticket
  variant : Nat
  ctx : Nat
  p : SubmitParams
  produced : List Nat
  placed : Nat
  inParison : Bool
  cancelled : Bool
  ending : Option Ending
  kvPages : Nat
  kv : Tab (List (List Nat × List Nat))
  pinned : Bool
  experts : List Nat
  deriving DecidableEq, Repr

/-- A replay command in progress (R350, R398). -/
structure Replay where
  ticket : Ticket
  variant : Nat
  records : List LogRecord
  replayed : Nat
  last : Nat
  degraded : Bool
  deriving DecidableEq, Repr

/-! ## Tiles, streams -/

/-- Tile power states (R441). -/
inductive TilePower where
  | run | idle | nap | off
  deriving DecidableEq, Repr

/-- An operation in a tile's queue: its 32-byte descriptor and its context (R44, R49). -/
structure QueueOp where
  desc : Bytes
  ctx : Nat
  marverDone : Nat
  retried : Bool
  deriving DecidableEq, Repr

/-- The stationary block held (R37). -/
structure Loaded where
  address : Nat
  fmt : Nat
  half : Nat
  rows : List (List Nat)
  scales : List (List Nat)
  rowScaled : Bool
  deriving DecidableEq, Repr

/-- A filled marver buffer: the address word of the operand it serves, the piece of it, and its rows (R96). -/
structure MarverBuf where
  descAddr : Nat
  piece : Nat
  rows : List (List Nat)
  scales : List (List Nat)
  deriving DecidableEq, Repr

/-- What two counted array faults of a tile must share to retire it: a step, by the model's own key of it, or a RUN_PROGRAM of a
context (R46). -/
inductive FaultScope where
  | step (id : Nat)
  | program (ctx : Nat)
  deriving DecidableEq, Repr

/-- A logical tile in service (R30, R71, R76, R98, R280, R441). `faults` holds the steps and programs that have met a counted fault on
it (R46), `corrected` its corrected-error counter of the banks (R146), `regCorrected` the corrected errors of its stationary
registers (R45). -/
structure Tile where
  power : TilePower
  waking : Bool
  queue : List QueueOp
  completions : List Nat
  loaded : List Loaded
  rounding : Bytes
  deriv : Bytes
  marver : List MarverBuf
  lastCtx : Option Nat
  held : Option Nat
  faults : List FaultScope
  corrected : Counter
  regCorrected : Counter
  sets : List (Tab LayerStat)
  microcode : Bytes
  deriving DecidableEq, Repr

/-- Who a stream serves (R157, R355, R358). -/
inductive StreamUse where
  | command (t : Ticket)
  | program (slot : Nat)
  | load (variant : Nat)
  | restoring (variant : Nat)
  | importing (t : Ticket) (variant : Nat) (owners : List Nat)
  | writeOut (variant : Nat)
  | exporting (t : Ticket) (variant : Nat) (withLog : Option Bool) (step records : Nat)
  | replayLog (t : Ticket) (variant first last : Nat)
  | logPage (variant : Nat)
  | feed (tile : Nat)
  | answers
  deriving DecidableEq, Repr

/-- The state of a stream (R167, R170, R171). -/
inductive StreamState where
  | waiting | running | halted (window page : Nat) | ended (status : Nat)
  deriving DecidableEq, Repr

/-- A stream (R157, R160, R161, R164, R165, R172). `credits` and `classes` are what it reserves on its engine, `halves` the starts it
has made, `consumed` the operations that have run on the halves of a stream that feeds an array, and `later` the command that resumed a
program's stream (R358). -/
structure Strm where
  ctx : Nat
  id : Nat
  use : StreamUse
  kind : Nat
  engine : Nat
  desc : Bytes
  st : StreamState
  issued : Nat
  outstanding : List (Nat × Bytes)
  landed : List Nat
  pages : List PageBody
  head : Option ImageHead
  region : Option Region
  baseSeq : Nat
  total : Nat
  credits : Nat
  classes : List Nat
  halves : Nat
  consumed : Nat
  discard : Bool
  later : Option Ticket
  deriving DecidableEq, Repr

/-! ## Ring -/

/-- A queued bundle at a home, and one that runs (R223, R447). -/
structure HomeBundle where
  b : Bundle
  running : Option Nat
  deriving DecidableEq, Repr

/-- Gate and up values kept for a backward pass, F8, row by row (R102, R223); `variant` is the one its rows serve. -/
structure HomeStash where
  ctx : Nat
  incarnation : Nat
  variant : Nat
  parison : Nat
  step : Nat
  microBatch : Nat
  layer : Nat
  expert : Nat
  srcPos : Nat
  values : List Nat
  deriving DecidableEq, Repr

/-- An expert table entry (R215): 0 UNUSED, 1 SHARED, 2 ROUTED, 3 EXTRA. -/
structure ExpertEntry where
  kind : Nat
  isLocal : Bool
  home : Nat
  ctx : Nat
  variant : Nat
  extraNo : Nat
  expert : Nat
  weightsPage : Nat
  epoch : Nat
  deriving DecidableEq, Repr

/-- The state of a cane link (R249, R264, R364). -/
inductive LinkState where
  | up | held | down | dark
  deriving DecidableEq, Repr

/-- Where in a rekey a link is (R270). -/
inductive RekeyState where
  | idle | asked | sent | switched
  deriving DecidableEq, Repr

/-- A frame that passes through, in the transit pool or in its escape slice (R246, R247). -/
structure Passing where
  frame : Frame
  slice : Option Nat
  deriving DecidableEq, Repr

/-- One cane link of a ring port (R239 to R253, R268 to R271, R285). -/
structure Link where
  st : LinkState
  rate : Nat
  stored : Bool
  partner : Option Partner
  epoch : Nat
  oldEpoch : Option Nat
  phase : Bool
  rekey : RekeyState
  txFrame : Nat
  rxFrame : Nat
  replay : List Frame
  sendQueue : List Frame
  localHeld : Nat
  transitHeld : Nat
  localFreed : Nat
  transitFreed : Nat
  localSeen : Nat
  transitSeen : Nat
  escapeGen : Nat
  escapeSent : Nat
  escapeSeen : Nat
  localPool : List Frame
  passing : List Passing
  deficits : Tab Nat
  drrAt : Nat
  keys : Nat
  ackSeq : Nat
  replayReq : Bool
  rekeyReq : Bool
  tagFails : Nat
  badWindows : Nat
  taps : List Int
  eqReq : Nat
  lanes : Tab LaneSet
  deriving DecidableEq, Repr

/-- Where the module is in joining or leaving the ring (R262, R265). -/
inductive Member where
  | out
  | listening
  | admitted (position : Nat)
  | opening (position : Nat)
  | member
  | leaving
  | closing
  deriving DecidableEq, Repr

/-- The ring state of this member (R217, R244, R255 to R267). `heard` is the roll call a joiner's taps heard last; `hearWest` and
`hearEast` the positions of its neighbours P and Q. -/
structure Ring where
  st : Member
  position : Option Nat
  ringEpoch : Nat
  rollSeq : Nat
  anchor : Nat
  collectOut : Bool
  backoff : Bool
  table : Option RollCall
  quietPasses : Nat
  lastEpochHeard : Option Nat
  e2eTx : Tab Nat
  e2eRx : Tab Nat
  expertEpoch : Nat
  experts : Tab ExpertEntry
  moving : List (Nat × Nat)
  joinTicket : Option Ticket
  leaveTicket : Option Ticket
  joinImage : Option Region
  heard : Option RollCall
  hearWest : Option Nat
  hearEast : Option Nat
  deriving DecidableEq, Repr

/-- A neighbour record (R254). -/
abbrev Neighbour := Lldpdu

/-- A frame in a receive buffer of a fabric port: its priority, queue pair and bytes (R235). -/
structure RxFrame where
  priority : Nat
  qp : Nat
  bytes : Nat
  deriving DecidableEq, Repr

/-- A port (R231 to R237, R253). -/
structure Port where
  up : Bool
  neighbour : Option Neighbour
  rx : List RxFrame
  xoffSent : List Nat
  pausedBy : List Nat
  lanes : Tab LaneSet
  deriving DecidableEq, Repr

/-! ## Power, board, firmware -/

/-- The state of the module (R443, R454, R459, R470). `starting n` is start-up step n in progress. -/
inductive Mode where
  | unpowered
  | starting (n : Nat)
  | active
  | quiet
  | dormant
  | warmReset (byPin : Bool)
  | failed
  deriving DecidableEq, Repr

/-- The adaptive loops of one quadrant (R447, R448). -/
structure Quadrant where
  millivolts : Nat
  mhz : Nat
  bias : Int
  stretch : Bool
  outOfService : Bool
  deriving DecidableEq, Repr

/-- A fault record (R407). -/
structure FaultRecord where
  recordSeq : Nat
  bootCount : Nat
  kind : Nat
  outcome : Nat
  die : Nat
  quadrant : Nat
  index : Nat
  logicalTile : Nat
  ctx : Nat
  incarnation : Nat
  step : Nat
  intakeRound : Nat
  detail0 : Nat
  detail1 : Nat
  fwBuild : Nat
  deriving DecidableEq, Repr

/-- Fused values (R410). The identity private key is reached by the signing engine only (R411). -/
structure Fuses where
  serial : Nat
  grade : Nat
  identityKeyHash : Bytes
  estateKey : Bytes
  firmwareKeyHash : Bytes
  securityVersion : Nat
  deriving DecidableEq, Repr

/-- Module flash (R304, R379, R407, R411, R416, R418). -/
structure Flash where
  operatorKeys : Tab KeySlot
  retired : List (Nat × Nat)
  faults : List FaultRecord
  recordSeq : Nat
  bootCount : Nat
  slotA : Option Image
  slotB : Option Image
  activeB : Bool
  staged : Bool
  powerLost : Bool
  deriving DecidableEq, Repr

/-- Pins and the board-management register that is writable (R462, R468 to R472). -/
structure Board where
  straps : Nat
  nrstLow : Bool
  pgood : Bool
  nfaultLow : Bool
  bypassOpen : Bool
  bypassMoving : Option Bool
  frIndex : Nat
  input : Nat
  deriving DecidableEq, Repr

/-- Power management of the module (R436, R443 to R449, R451, R452, R459). `step` is the start-up step reached, `cold` says that the
start-up under way follows power-on, `stepOneDone` that step 1 has ended and nRST is awaited (R469), `retiredNow` the tiles retired since power-on (R382), and `resetAfter` names the session
whose SELECT_PROFILE reply a warm reset follows. -/
structure Power where
  mode : Mode
  ready : Bool
  waking : Bool
  reported : Nat
  pacing : Nat
  level : Nat
  thermalDue : List Event
  temps : Tab Int
  quads : Tab Quadrant
  step : Nat
  cold : Bool
  stepOneDone : Bool
  retiredNow : List (Nat × Nat)
  resetAfter : Option Nat
  deriving DecidableEq, Repr

/-- Firmware at run (R415 to R420). -/
structure Firmware where
  running : Option Image
  fallback : Bool
  offline : Bool
  switched : Bool
  previousB : Bool
  activateTicket : Option Ticket
  stageTickets : List Ticket
  heldAttests : List (Ticket × Bytes × List Nat)
  deriving DecidableEq, Repr

/-- The base model on this member (R215, R216, R375, R376). -/
structure Base where
  shape : Option BaseShape
  loading : Option Bytes
  tickets : List Ticket
  image : Option Region
  placement : Option (List Nat)
  range : Option (Nat × Nat)
  extent : Option (Nat × Nat)
  pages : Nat
  deriving DecidableEq, Repr

/-! ## The whole module -/

/-- The state of the module. `pending` is the queue of commands that wait; `out` what has left the module, oldest
first; `freeCount` the model's counter of free values. -/
structure State where
  pending : List Instr
  out : List Out
  freeCount : Nat
  mem : List Host.Cell
  fuses : Fuses
  flash : Flash
  board : Board
  power : Power
  profile : Profile
  profileNo : Nat
  selected : Option Nat
  fw : Firmware
  base : Base
  drbgRequests : Nat
  drbgSeedAt : Nat
  qps : Tab Qp
  sessions : Tab Session
  intakeRounds : Nat
  roundSubmits : List Nat
  counters : Tab Counter
  ctxs : Tab Ctx
  createCounts : Tab Nat
  vars : Tab Var
  park : List Parked
  reclaimFull : List Nat
  pinWaits : List PinWait
  spaceWaits : List SpaceWait
  steps : List TStep
  evals : Tab EvalRun
  requests : Tab Request
  replays : List Replay
  nextId : Nat
  tiles : Tab Tile
  phys : Tab Nat
  spares : Tab Nat
  streams : Tab Strm
  stalls : Tab Counter
  hbmFree : Nat
  hbmRetired : List Nat
  ports : Tab Port
  links : Tab Link
  ring : Ring
  bundles : List HomeBundle
  homeStash : List HomeStash
  deriving DecidableEq, Repr

/-! ## Reset values -/

/-- A counter at zero. -/
def Counter.zero : Counter := ⟨0, false, false⟩

/-- A tile after reset (R71, R98, R450): registers, buffers and blocks zero, queue empty. -/
def Tile.reset : Tile :=
  { power := .off, waking := false, queue := [], completions := [], loaded := [], rounding := List.replicate 32 0,
    deriv := List.replicate 32 0, marver := [], lastCtx := none, held := none, faults := [], corrected := Counter.zero, regCorrected := Counter.zero,
    sets := [[], [], []], microcode := [] }

/-- A port that is down. -/
def Port.reset : Port := { up := false, neighbour := none, rx := [], xoffSent := [], pausedBy := [], lanes := [] }

/-- A link never established (R246: the sender holds every credit at establishment). -/
def Link.reset : Link :=
  { st := .dark, rate := 0, stored := false, partner := none, epoch := 0, oldEpoch := none, phase := false,
    rekey := .idle, txFrame := 0, rxFrame := 0, replay := [], sendQueue := [], localHeld := 1024,
    transitHeld := 1024, localFreed := 0, transitFreed := 0, localSeen := 0, transitSeen := 0, escapeGen := 0,
    escapeSent := 0, escapeSeen := 0, localPool := [], passing := [], deficits := [], drrAt := 0, keys := 0,
    ackSeq := 0xFFFFFF, replayReq := false,
    rekeyReq := false, tagFails := 0, badWindows := 0, taps := [0, 0, 0], eqReq := 0, lanes := [] }

/-- A quadrant's loops at start (R447, R459 step 4): guaranteed clock; supply and bias DESIGN CHOICE (assumption log 33). -/
def Quadrant.reset : Quadrant := { millivolts := 900, mhz := 1250, bias := 0, stretch := false, outOfService := false }

/-- The ring state before the first join (R255, R364). -/
def Ring.reset : Ring :=
  { st := .out, position := none, ringEpoch := 0, rollSeq := 0, anchor := 0, collectOut := false, backoff := false,
    table := none, quietPasses := 0, lastEpochHeard := none, e2eTx := [], e2eRx := [], expertEpoch := 0, experts := [],
    moving := [], joinTicket := none, leaveTicket := none, joinImage := none, heard := none, hearWest := none,
    hearEast := none }

/-- DSCP n to priority n / 8 (R458). -/
def dscpDefault : List Nat := (List.range 64).map (· / 8)

/-- The TDP of a grade in watts (R3). -/
def tdpOf (grade : Nat) : Nat := if grade = 2 then 1330 else if grade = 3 then 1460 else 1400

/-- Shipped profile 0 of a grade (R458): its port roles and its TDP are the grade's (R3). -/
def Profile.shipped0 (grade : Nat) : Profile :=
  { layer := 0, sparePolicy := 0, ports := if grade = 3 then [1, 1, 2, 3, 1, 1] else [1, 1, 2, 3, 0, 0], split := ⟨50, 30, 20⟩, expertTiles := 4,
    bulkPriority := 3, cmdPriority := 4, resumable := 64, weight := 100, caps := ⟨25, 25, 25⟩, ringWeight := 16,
    maxCoreMhz := 1450, powerCap := tdpOf grade, napAfter := 25000, quietAfter := 2500000, dormantAfter := 0,
    dscp := dscpDefault }

/-- Shipped profile 1 (R458). -/
def Profile.shipped1 (grade : Nat) : Profile :=
  { Profile.shipped0 grade with
    maxCoreMhz := 1250, powerCap := 1200, napAfter := 2500, quietAfter := 250000, dormantAfter := 1500000000 }

/-- Shipped profile 2 (R458). -/
def Profile.shipped2 (grade : Nat) : Profile := { Profile.shipped0 grade with layer := 1, expertTiles := 0 }

/-- The image in slot A at manufacture: generation 1 with the shipped profiles (R414, R458); digests and
build DESIGN CHOICE (assumption log 10). -/
def Image.shipped (grade : Nat) : Image :=
  { generation := 1, minor := 0, build := 1, securityVersion := 0, digest := List.replicate 48 1,
    rotDigest := List.replicate 48 2, gafferDigest := List.replicate 48 3, microcodeDigest := List.replicate 48 4,
    profiles := [some (Profile.shipped0 grade), some (Profile.shipped1 grade), some (Profile.shipped2 grade), none],
    profileDigests := [List.replicate 48 5, List.replicate 48 6, List.replicate 48 7, List.replicate 48 0],
    signatureOk := true, componentsOk := true }

/-- Firmware before any image runs. -/
def Firmware.reset : Firmware :=
  { running := none, fallback := false, offline := false, switched := false, previousB := false,
    activateTicket := none, stageTickets := [], heldAttests := [] }

/-- No base model (R364). -/
def Base.reset : Base :=
  { shape := none, loading := none, tickets := [], image := none, placement := none, range := none, extent := none,
    pages := 0 }

/-- The power management at power-on: start-up step 1 in progress (R459). -/
def Power.reset : Power :=
  { mode := .starting 1, ready := false, waking := false, reported := 0, pacing := 0, level := 0, thermalDue := [],
    temps := [], quads := [], step := 1, cold := true, stepOneDone := false, retiredNow := [], resetAfter := none }

/-- A module of a grade right after power-on: start-up step 1 in progress (R459), the bypass closed, straps open (R468),
nothing in any table. Manufactured values are those of assumption log 10. -/
def State.resetOf (grade : Nat) : State :=
  { pending := [], out := [], freeCount := 0, mem := [],
    fuses := { serial := 1, grade := grade, identityKeyHash := List.replicate 48 0, estateKey := List.replicate 32 0,
               firmwareKeyHash := List.replicate 48 0, securityVersion := 0 },
    flash := { operatorKeys := [(0, ⟨List.replicate 16 0, List.replicate 48 0⟩)], retired := [], faults := [],
               recordSeq := 0, bootCount := 0, slotA := some (Image.shipped grade), slotB := none, activeB := false,
               staged := false, powerLost := false },
    board := { straps := 3, nrstLow := false, pgood := false, nfaultLow := false, bypassOpen := false,
               bypassMoving := none, frIndex := 0, input := 480 },
    power := Power.reset, profile := Profile.shipped0 grade, profileNo := 0, selected := none, fw := Firmware.reset,
    base := Base.reset, drbgRequests := 0, drbgSeedAt := 0, qps := [], sessions := [], intakeRounds := 0, roundSubmits := [],
    counters := [], ctxs := [], createCounts := [], vars := [], park := [], reclaimFull := [], pinWaits := [], spaceWaits := [], steps := [], evals := [], requests := [],
    replays := [], nextId := 0, tiles := [], phys := [], spares := [], streams := [], stalls := [], hbmFree := 0,
    hbmRetired := [], ports := [], links := [], ring := Ring.reset, bundles := [], homeStash := [] }

/-- The module right after power-on: a DK7-H8 (R3, R459; assumption log 10). -/
def State.reset : State := State.resetOf 1

end Sys2Proof.Machine
end

