-- ==== Sys2Proof/Machine/Memory.lean ====
section
/-! DEFINITION. The module's address space (R144, R148, R153): tile SRAM and HBM as one sparse memory in canonical
form. An unlisted address reads zero (assumption log 11). -/

namespace Sys2Proof.Machine

/-- Bytes of one tile's memory (R153). -/
def tileBytes : Nat := 0x800000

/-- First module address of HBM (R153). -/
def hbmBase : Nat := 0x1000000000

/-- The module address of a tile-local offset (R50). -/
def tileAddr (tile offset : Nat) : Nat := tile * tileBytes + offset

/-- One past the last HBM address of a grade (R6, R153). -/
def hbmEnd (grade : Nat) : Nat := if grade = 2 then 0x4600000000 else 0x5800000000

/-- The bank of a tile-local offset (R144). -/
def bankOf (offset : Nat) : Nat := 4 * bits offset 22 21 + bits offset 7 6

/-- The HBM stack of an HBM offset (R148). -/
def stackOf (grade o : Nat) : Nat := o / 256 % (if grade = 2 then 6 else 8)

/-- The channel of an HBM offset (R148). -/
def channelOf (grade o : Nat) : Nat := o / 256 / (if grade = 2 then 6 else 8) % 32

/-- The canonical form: addresses strictly rising, no zero byte listed. -/
def Memory.wf (m : List Host.Cell) : Prop := m.Pairwise (fun a b => a.1 < b.1) ∧ ∀ c ∈ m, c.2 ≠ 0

/-- Read one byte. -/
def readByte : List Host.Cell → Nat → Byte
  | [], _ => 0
  | (k, b) :: t, a => if k = a then b else readByte t a

/-- Write one byte; writing zero removes the entry. -/
def writeByte : List Host.Cell → Nat → Byte → List Host.Cell
  | [], a, v => if v = 0 then [] else [(a, v)]
  | (k, b) :: t, a, v =>
    if k = a then (if v = 0 then t else (a, v) :: t)
    else if k < a then (k, b) :: writeByte t a v
    else if v = 0 then (k, b) :: t else (a, v) :: (k, b) :: t

/-- Read `n` bytes from an address. -/
def readBytes (m : List Host.Cell) (a n : Nat) : Bytes := (List.range n).map (fun i => readByte m (a + i))

/-- Write a run of bytes from an address. -/
def writeBytes : List Host.Cell → Nat → Bytes → List Host.Cell
  | m, _, [] => m
  | m, a, b :: bs => writeBytes (writeByte m a b) (a + 1) bs

/-- Zero a range (R151, R280). -/
def zeroRange (m : List Host.Cell) (a n : Nat) : List Host.Cell :=
  m.filter (fun c => decide (c.1 < a) || decide (a + n ≤ c.1))

/-- A little-endian 32-bit word of memory. -/
def readWord (m : List Host.Cell) (a : Nat) : Word := BitVec.ofNat 32 (leNat (readBytes m a 4))

/-- Read `n` consecutive FP32 values. -/
def readWords (m : List Host.Cell) (a n : Nat) : List Word := (List.range n).map (fun i => readWord m (a + 4 * i))

/-- Write consecutive FP32 values. -/
def writeWords (m : List Host.Cell) (a : Nat) (ws : List Word) : List Host.Cell :=
  writeBytes m a (ws.flatMap (fun w => leBytes 4 w.toNat))

end Sys2Proof.Machine
end

