-- ==== Sys2Proof/Machine/Sha.lean ====
section
/-! DEFINITION. SHA-384 (FIPS 180-4), HMAC and HKDF over it (RFC 2104, RFC 5869), which R304, R354, R412,
R415, R423 and R432 name. -/

namespace Sys2Proof.Machine

/-- The 64-bit words packed in a number of `n` words, first word on top. -/
def unpack64 (n v : Nat) : List (BitVec 64) := (List.range n).map (fun i => BitVec.ofNat 64 (v >>> (64 * (n - 1 - i))))

/-- The round constants of SHA-384, eight to a number. -/
def shaConstants : List (BitVec 64) :=
  unpack64 8 0x428A2F98D728AE227137449123EF65CDB5C0FBCFEC4D3B2FE9B5DBA58189DBBC3956C25BF348B53859F111F1B605D019923F82A4AF194F9BAB1C5ED5DA6D8118 ++
  unpack64 8 0xD807AA98A303024212835B0145706FBE243185BE4EE4B28C550C7DC3D5FFB4E272BE5D74F27B896F80DEB1FE3B1696B19BDC06A725C71235C19BF174CF692694 ++
  unpack64 8 0xE49B69C19EF14AD2EFBE4786384F25E30FC19DC68B8CD5B5240CA1CC77AC9C652DE92C6F592B02754A7484AA6EA6E4835CB0A9DCBD41FBD476F988DA831153B5 ++
  unpack64 8 0x983E5152EE66DFABA831C66D2DB43210B00327C898FB213FBF597FC7BEEF0EE4C6E00BF33DA88FC2D5A79147930AA72506CA6351E003826F142929670A0E6E70 ++
  unpack64 8 0x27B70A8546D22FFC2E1B21385C26C9264D2C6DFC5AC42AED53380D139D95B3DF650A73548BAF63DE766A0ABB3C77B2A881C2C92E47EDAEE692722C851482353B ++
  unpack64 8 0xA2BFE8A14CF10364A81A664BBC423001C24B8B70D0F89791C76C51A30654BE30D192E819D6EF5218D69906245565A910F40E35855771202A106AA07032BBD1B8 ++
  unpack64 8 0x19A4C116B8D2D0C81E376C085141AB532748774CDF8EEB9934B0BCB5E19B48A8391C0CB3C5C95A634ED8AA4AE3418ACB5B9CCA4F7763E373682E6FF3D6B2B8A3 ++
  unpack64 8 0x748F82EE5DEFB2FC78A5636F43172F6084C87814A1F0AB728CC702081A6439EC90BEFFFA23631E28A4506CEBDE82BDE9BEF9A3F7B2C67915C67178F2E372532B ++
  unpack64 8 0xCA273ECEEA26619CD186B8C721C0C207EADA7DD6CDE0EB1EF57D4F7FEE6ED17806F067AA72176FBA0A637DC5A2C898A6113F9804BEF90DAE1B710B35131C471B ++
  unpack64 8 0x28DB77F523047D8432CAAB7B40C724933C9EBE0A15C9BEBC431D67C49C100D4C4CC5D4BECB3E42B6597F299CFC657E2A5FCB6FAB3AD6FAEC6C44198C4A475817

/-- The chaining value SHA-384 starts from. -/
def shaInit : List (BitVec 64) :=
  unpack64 8 0xCBBB9D5DC1059ED8629A292A367CD5079159015A3070DD17152FECD8F70E593967332667FFC00B318EB44A8768581511DB0C2E0D64F98FA747B5481DBEFA4FA4

/-- Big-endian bytes of a number, `n` of them. -/
def beBytes (n v : Nat) : Bytes := (leBytes n v).reverse

/-- The number big-endian bytes spell. -/
def beNat (bs : Bytes) : Nat := leNat bs.reverse

/-- A word turned right by each of some amounts, the turns combined without carry. -/
def turns (x : BitVec 64) (amounts : List Nat) : BitVec 64 := amounts.foldl (fun acc n => acc ^^^ x.rotateRight n) 0

/-- The message schedule, newest word first: `n` more words. -/
def shaSchedule : Nat → List (BitVec 64) → List (BitVec 64)
  | 0, w => w
  | n + 1, w =>
    let old := w.getD 14 0
    let new := w.getD 1 0
    let mixed := (turns old [1, 8] ^^^ (old >>> 7)) + (turns new [19, 61] ^^^ (new >>> 6))
    shaSchedule n ((mixed + w.getD 6 0 + w.getD 15 0) :: w)

/-- The two chains of working words, newest first: the working variables a to d are the newest four of `left`, e to h
those of `right`. -/
structure ShaChains where
  left : List (BitVec 64)
  right : List (BitVec 64)
  deriving DecidableEq, Repr

/-- Whichever of two words a third selects, bit by bit. -/
def pickBits (sel x y : BitVec 64) : BitVec 64 := y ^^^ (sel &&& (x ^^^ y))

/-- The value most of three words have, bit by bit. -/
def majorityBits (x y z : BitVec 64) : BitVec 64 := (x &&& y) ||| (z &&& (x ||| y))

/-- One round adds a word to each chain; `kw` is the round constant plus the schedule's word. -/
def ShaChains.round (r : ShaChains) (kw : BitVec 64) : ShaChains :=
  let at0 (l : List (BitVec 64)) (i : Nat) : BitVec 64 := l.getD i 0
  let e := at0 r.right 0
  let a := at0 r.left 0
  let carried := kw + at0 r.right 3 + turns e [14, 18, 41] + pickBits e (at0 r.right 1) (at0 r.right 2)
  { left := (carried + turns a [28, 34, 39] + majorityBits a (at0 r.left 1) (at0 r.left 2)) :: r.left.take 3,
    right := (carried + at0 r.left 3) :: r.right.take 3 }

/-- The compression of one 128-byte block. -/
def shaBlock (h : List (BitVec 64)) (block : Bytes) : List (BitVec 64) :=
  let w := (shaSchedule 64 (unpack64 16 (beNat block)).reverse).reverse
  let last := (List.zipWith (· + ·) shaConstants w).foldl ShaChains.round ⟨h.take 4, h.drop 4⟩
  List.zipWith (· + ·) h (last.left ++ last.right)

/-- All blocks of a padded message. -/
def shaBlocks : Nat → List (BitVec 64) → Bytes → List (BitVec 64)
  | 0, h, _ => h
  | n + 1, h, bs => shaBlocks n (shaBlock h (bs.take 128)) (bs.drop 128)

/-- The padded message. -/
def shaPad (bs : Bytes) : Bytes :=
  let n := bs.length
  bs ++ [0x80] ++ List.replicate ((239 - n % 128) % 128) 0 ++ beBytes 16 (8 * n)

/-- SHA-384 of a run of bytes: 48 bytes. -/
def sha384 (bs : Bytes) : Bytes :=
  let p := shaPad bs
  ((shaBlocks (p.length / 128) shaInit p).take 6).flatMap (fun w => beBytes 8 w.toNat)

/-- HMAC-SHA-384. -/
def hmac384 (key msg : Bytes) : Bytes :=
  let k := if 128 < key.length then sha384 key else key
  let k := k ++ List.replicate (128 - k.length) 0
  sha384 (k.map (· ^^^ 0x5C) ++ sha384 (k.map (· ^^^ 0x36) ++ msg))

/-- HKDF expansion, `n` blocks from counter `i` (RFC 5869). -/
def hkdfExpand (prk info : Bytes) : Nat → Nat → Bytes → Bytes
  | 0, _, _ => []
  | n + 1, i, prev =>
    let t := hmac384 prk (prev ++ info ++ [BitVec.ofNat 8 i])
    t ++ hkdfExpand prk info n (i + 1) t

/-- HKDF-SHA-384 with the given salt, input key and info, `len` bytes (R412, R423). An empty salt is 48 zero bytes. -/
def hkdf384 (salt ikm info : Bytes) (len : Nat) : Bytes :=
  let prk := hmac384 (if salt = [] then List.replicate 48 0 else salt) ikm
  (hkdfExpand prk info ((len + 47) / 48) 1 []).take len

end Sys2Proof.Machine
end

