-- ==== Sys2Proof/Machine/Ops.lean ====
section
/-! DEFINITION. The shared operations over the state: outputs, replies and events (R286 to R290, R310), counters
(R405, R406), fault records (R407), random draws (R413), and the fields of each table. -/

namespace Sys2Proof.Machine

/-- The outcome of a step over this state. -/
abbrev Res := Host.Outcome State Fault Refusal

/-- Go on with the next state; a fault or refusal stands. -/
def Res.bind (r : Res) (f : State → Res) : Res :=
  match r with
  | .next s => f s
  | .fault e => .fault e
  | .refused e => .refused e

/-- Do a list of things in order. -/
def Res.each {α : Type} : List α → (α → State → Res) → State → Res
  | [], _, s => .next s
  | a :: as, f, s => (f a s).bind (Res.each as f)

/-- Do a list of things that always go on. -/
def eachDo {α : Type} (l : List α) (f : α → State → State) (s : State) : State := l.foldl (fun s a => f a s) s

/-- Do something only under a condition. -/
def whenDo (c : Bool) (f : State → State) (s : State) : State := if c then f s else s

/-! ## Parameters (R301, R323) -/

/-- A parameter of n bytes. -/
def pN (n ty v : Nat) : Nat × Bytes := (ty, leBytes n v)
def p8 (ty v : Nat) : Nat × Bytes := pN 1 ty v
def p16 (ty v : Nat) : Nat × Bytes := pN 2 ty v
def p32 (ty v : Nat) : Nat × Bytes := pN 4 ty v
def p64 (ty v : Nat) : Nat × Bytes := pN 8 ty v

/-! ## Tables -/

def State.ctx (s : State) (n : Nat) : Option Ctx := s.ctxs.find n
def State.var (s : State) (n : Nat) : Option Var := s.vars.find n
def State.tile (s : State) (n : Nat) : Tile := s.tiles.getOr n Tile.reset
def State.port (s : State) (n : Nat) : Port := s.ports.getOr n Port.reset
def State.link (s : State) (n : Nat) : Link := s.links.getOr n Link.reset
def State.quad (s : State) (n : Nat) : Quadrant := s.power.quads.getOr n Quadrant.reset
def State.strm (s : State) (n : Nat) : Option Strm := s.streams.find n
def State.setCtx (s : State) (n : Nat) (c : Ctx) : State := { s with ctxs := s.ctxs.put n c }
def State.modCtx (s : State) (n : Nat) (f : Ctx → Ctx) : State := { s with ctxs := s.ctxs.modify n f }
def State.setVar (s : State) (n : Nat) (v : Var) : State := { s with vars := s.vars.put n v }
def State.modVar (s : State) (n : Nat) (f : Var → Var) : State := { s with vars := s.vars.modify n f }
def State.modTile (s : State) (n : Nat) (f : Tile → Tile) : State := { s with tiles := s.tiles.put n (f (s.tile n)) }
def State.modPort (s : State) (n : Nat) (f : Port → Port) : State := { s with ports := s.ports.put n (f (s.port n)) }
def State.modLink (s : State) (n : Nat) (f : Link → Link) : State := { s with links := s.links.put n (f (s.link n)) }
def State.modQuad (s : State) (n : Nat) (f : Quadrant → Quadrant) : State :=
  { s with power := { s.power with quads := s.power.quads.put n (f (s.quad n)) } }
def State.modStrm (s : State) (n : Nat) (f : Strm → Strm) : State := { s with streams := s.streams.modify n f }
def State.modSession (s : State) (n : Nat) (f : Session → Session) : State := { s with sessions := s.sessions.modify n f }
def State.modQp (s : State) (n : Nat) (f : Qp → Qp) : State := { s with qps := s.qps.modify n f }
def State.modRing (s : State) (f : Ring → Ring) : State := { s with ring := f s.ring }
def State.modPower (s : State) (f : Power → Power) : State := { s with power := f s.power }
def State.modBoard (s : State) (f : Board → Board) : State := { s with board := f s.board }
def State.modFlash (s : State) (f : Flash → Flash) : State := { s with flash := f s.flash }
def State.modFw (s : State) (f : Firmware → Firmware) : State := { s with fw := f s.fw }

/-- The state of a context: FREE when it has no entry (R275). -/
def State.ctxState (s : State) (n : Nat) : CtxState := match s.ctx n with | some c => c.st | none => .free

/-- The incarnation of a context, 0 when FREE. -/
def State.incarnation (s : State) (n : Nat) : Nat := match s.ctx n with | some c => c.incarnation | none => 0

/-- The state of a variant: FREE when it has no entry (R181). -/
def State.varState (s : State) (n : Nat) : VarState := match s.var n with | some v => v.st | none => .free

/-- This member's position; a ring of one is position 0 (R232, R255). -/
def State.pos (s : State) : Nat := s.ring.position.getD 0

/-- A new identifier of the model's own. -/
def State.fresh (s : State) : Nat × State := (s.nextId, { s with nextId := s.nextId + 1 })

/-- A free 32-bit value, and the state with the counter of free values advanced. -/
def State.freeNat (s : State) : Nat × State :=
  ((Config.freeWord s.freeCount 0).toNat, { s with freeCount := s.freeCount + 1 })

/-! ## Outputs -/

/-- Something leaves the module. -/
def State.emit (s : State) (o : Out) : State := { s with out := s.out ++ [o] }

/-- The session minor of a queue pair (R303). -/
def State.minorOf (s : State) (qp : Nat) : Nat := match s.qps.find qp with | some q => q.minor | none => 0

/-- Whether the port of a queue pair is paused on a priority by received PFC frames (R235). -/
def State.paused (s : State) (qp priority : Nat) : Bool :=
  match s.qps.find qp with | some q => (s.port q.port).pausedBy.contains priority | none => false

/-- A packet on a session: behind whatever already waits there, so that the order of R288 holds; at once when
nothing waits and the command priority is not paused (R235). -/
def State.sendOn (s : State) (session : Nat) (p : Packet) : State :=
  match s.sessions.find session with
  | some ss =>
    if ss.egress = [] && !s.paused ss.qp s.profile.cmdPriority then s.emit (.packet p)
    else s.modSession session (fun ss => { ss with egress := ss.egress ++ [.reply p] })
  | none => s

/-- Whether a ticket's session is still the one it came on, and still awaits its reply (R308, R310). -/
def State.live (s : State) (t : Ticket) : Bool :=
  match s.sessions.find t.session with
  | some ss => decide (ss.serial = t.serial) && ss.awaiting.contains (t.seq, t.opcode)
  | none => false

/-- The reply packet of a command (R310). -/
def State.replyOf (s : State) (t : Ticket) (final : Bool) (status : Nat) (params : List (Nat × Bytes)) : Packet :=
  { qp := t.qp, minor := s.minorOf t.qp, opcode := 0x8000 + t.opcode, final := final, seq := t.seq, ctx := t.ctx,
    variant := t.variant, status := some status, params := params }

/-- The final reply of a command (R310); discarded when its session has closed (R308). -/
def State.answerWith (s : State) (t : Ticket) (status : Nat) (params : List (Nat × Bytes)) : State :=
  if s.live t then
    (s.modSession t.session (fun ss => { ss with awaiting := ss.awaiting.erase (t.seq, t.opcode) })).sendOn t.session
      (s.replyOf t true status params)
  else s

/-- A final reply without parameters. -/
def State.answer (s : State) (t : Ticket) (status : Nat) : State := s.answerWith t status []

/-- An intermediate reply (R310). -/
def State.interim (s : State) (t : Ticket) (status : Nat) (params : List (Nat × Bytes)) : State :=
  if s.live t then s.sendOn t.session (s.replyOf t false status params) else s

/-- Answer every ticket of a list alike. -/
def State.answerAll (s : State) (ts : List Ticket) (status : Nat) : State := eachDo ts (fun t s => s.answer t status) s

/-! ## Counters -/

/-- Whether a session receives an event (R286). -/
def State.receives (s : State) (ss : Session) (e : Event) : Bool :=
  match e.ctx, ss.role with
  | none, .operator => true
  | none, .tenant _ => false
  | some n, .tenant m => decide (n = m)
  | some n, .operator =>
    decide (e.code = evContextReset) || (match s.ctx n with | some c => c.settings.watch | none => false)

/-- The number of events that wait on a session (R289). -/
def Session.queued (ss : Session) : Nat := (ss.egress.filter (fun g => match g with | .event _ => true | _ => false)).length

/-- An event enters one session's queue; a full queue drops it and counts it on the session (R289). -/
def Session.push (ss : Session) (e : Event) : Session :=
  if ss.queued < 1024 then { ss with egress := ss.egress ++ [.event e] } else { ss with dropped := ss.dropped + 1 }

/-- Whether an event may enter queues: a context event only under its context's current incarnation (R290). -/
def State.current (s : State) (e : Event) : Bool :=
  match e.ctx with
  | none => true
  | some n => decide (s.incarnation n = e.incarnation)

/-- How many sessions drop an event. -/
def State.drops (s : State) (e : Event) : Nat :=
  (s.sessions.vals.filter (fun ss => s.receives ss e && decide (1024 ≤ ss.queued))).length

/-- An event enters every queue it goes to (R286, R289). -/
def State.deliver (s : State) (e : Event) : State :=
  { s with sessions := s.sessions.each (fun _ ss => if s.receives ss e then ss.push e else ss) }

/-- COUNTER_SATURATED of a counter (R406). -/
def satEvent (ctx : Option Nat) (incarnation id : Nat) : Event :=
  { code := evCounterSaturated, ctx := ctx, incarnation := incarnation, causeSeq := 0, step := 0, variant := 0,
    params := [p16 0x90 id, p8 0x91 (if ctx.isSome then 1 else 0)] }

/-- An error counter plus n: 32 bits, sticking at its largest value with SAT (R405). -/
def Counter.addError (c : Counter) (n : Nat) : Counter :=
  if c.value + n < 0xFFFFFFFF then { c with value := c.value + n } else { c with value := 0xFFFFFFFF, sat := true }

/-- A performance counter plus n: 48 bits, wrapping and toggling WRAP (R405). -/
def Counter.addPerf (c : Counter) (n : Nat) : Counter :=
  { c with value := (c.value + n) % 2 ^ 48, wrap := c.wrap != decide ((c.value + n) / 2 ^ 48 % 2 = 1) }

/-- A tenant counter plus n: 48 bits, sticking at 0xFFFF_FFFF_F000 with SAT (R405). -/
def Counter.addTenant (c : Counter) (n : Nat) : Counter :=
  if c.value + n < 0xFFFFFFFFF000 then { c with value := c.value + n } else { c with value := 0xFFFFFFFFF000, sat := true }

/-- A module error counter advances; COUNTER_SATURATED once per saturation (R405, R406). -/
def State.countError (s : State) (id n : Nat) : State :=
  let c := s.counters.getOr id Counter.zero
  let c' := c.addError n
  let s' := { s with counters := s.counters.put id c' }
  if c'.sat && !c.sat then s'.deliver (satEvent none 0 id) else s'

/-- A module performance counter advances. -/
def State.countPerf (s : State) (id n : Nat) : State :=
  { s with counters := s.counters.put id ((s.counters.getOr id Counter.zero).addPerf n) }

/-- F8 conversions that saturated are counted (R65). -/
def State.countF8 (s : State) (n : Nat) : State := if n = 0 then s else s.countPerf cF8Saturations n

/-- A tenant counter of a context advances (R295, R405). -/
def State.countTenant (s : State) (ctx place n : Nat) : State :=
  match s.ctx ctx with
  | some c =>
    let k := c.counters.getD place Counter.zero
    let k' := k.addTenant n
    let s' := s.setCtx ctx { c with counters := c.counters.set place k' }
    if k'.sat && !k.sat then s'.deliver (satEvent (some ctx) c.incarnation (0x0100 + place)) else s'
  | none => s

/-- An event is raised: delivered, and its drops counted (R286, R289, R290). -/
def State.raise (s : State) (e : Event) : State :=
  if s.current e then
    let n := s.drops e
    let s' := s.deliver e
    if n = 0 then s'
    else match e.ctx with
      | none => s'.countError cEventsDropped n
      | some c => s'.countTenant c tEventsDropped n
  else s

/-- A module event (R286) that the work of a command raised, with its sequence number as cause (R287). -/
def State.raiseFor (s : State) (code cause : Nat) (params : List (Nat × Bytes)) : State :=
  s.raise { code := code, ctx := none, incarnation := 0, causeSeq := cause, step := 0, variant := 0, params := params }

/-- A module event that no command's work raised: its cause is 0 (R286, R287). -/
def State.raiseModule (s : State) (code : Nat) (params : List (Nat × Bytes)) : State := s.raiseFor code 0 params

/-- The cause of an event: the sequence number of a command in progress, 0 without one (R287). -/
def causeOf (t : Option Ticket) : Nat := match t with | some t => t.seq | none => 0

/-- A context event of the current incarnation. -/
def State.raiseCtx (s : State) (code ctx causeSeq step variant : Nat) (params : List (Nat × Bytes)) : State :=
  s.raise { code := code, ctx := some ctx, incarnation := s.incarnation ctx, causeSeq := causeSeq, step := step,
            variant := variant, params := params }

/-- The tenant counters reported: each value rounded down to a multiple of 4,096 (R295). -/
def Ctx.roundedCounters (c : Ctx) : List Nat := c.counters.map (fun k => k.value / 4096 * 4096)

/-- A snapshot of the tenant counters (R295). -/
def Ctx.snap (c : Ctx) : Ctx := { c with snapshot := c.roundedCounters, unitsSince := 0 }

/-! ## Fault records (R407, R408) -/

/-- A record with no place or work named. -/
def blankRecord (kind outcome : Nat) : FaultRecord :=
  { recordSeq := 0, bootCount := 0, kind := kind, outcome := outcome, die := 0xFF, quadrant := 0xFF, index := 0xFF,
    logicalTile := 0xFFFF, ctx := 0xFFFF, incarnation := 0, step := 0, intakeRound := 0, detail0 := 0, detail1 := 0,
    fwBuild := 0 }

/-- A free 64-bit value. -/
def State.freeLong (s : State) : Nat × State :=
  ((Config.freeWord s.freeCount 0).toNat + (Config.freeWord s.freeCount 1).toNat * 2 ^ 32, { s with freeCount := s.freeCount + 1 })

/-- An outcome code of a fault record whose kind the spec ties to none: a free one of the five (R407). -/
def State.freeOutcome (s : State) : Nat × State := let (n, s) := s.freeNat; (n % 5, s)

/-- Whether the detail words of a kind are known: detail0 the address of an HBM error; both, the domains of a crossing stall
(R407, R437, assumption log 28). -/
def detailKnown (kind i : Nat) : Bool :=
  decide (kind = fkCdcStall) || (decide (i = 0) && (decide (kind = fkHbmUncorrectable) || decide (kind = fkHbmCrc)))

/-- A detail word: as it is known, or free. -/
def State.detail (s : State) (kind i v : Nat) : Nat × State := if detailKnown kind i then (v, s) else s.freeLong

/-- Enter a fault record: newest first, 64 at most (R407). -/
def State.record (s : State) (r : FaultRecord) : State :=
  let (d0, s) := s.detail r.kind 0 r.detail0
  let (d1, s) := s.detail r.kind 1 r.detail1
  let r' := { r with recordSeq := s.flash.recordSeq + 1, bootCount := s.flash.bootCount, intakeRound := s.intakeRounds, detail0 := d0,
                     detail1 := d1, fwBuild := match s.fw.running with | some i => i.build | none => 0 }
  s.modFlash (fun f => { f with faults := (r' :: f.faults).take 64, recordSeq := f.recordSeq + 1 })

/-- The 64 bytes of a fault record (R407). -/
def FaultRecord.encode (r : FaultRecord) : Bytes :=
  let body := leBytes 4 r.recordSeq ++ leBytes 4 r.bootCount ++ leBytes 2 r.kind ++ leBytes 1 r.outcome ++ [0] ++
    leBytes 1 r.die ++ leBytes 1 r.quadrant ++ leBytes 1 r.index ++ [0] ++ leBytes 2 r.logicalTile ++ leBytes 2 r.ctx ++
    leBytes 4 r.incarnation ++ leBytes 8 r.step ++ leBytes 8 r.intakeRound ++ leBytes 8 r.detail0 ++
    leBytes 8 r.detail1 ++ leBytes 4 r.fwBuild
  body ++ leBytes 4 (crc32c body)

/-! ## Keys and randomness -/

/-- `n` bytes drawn from the DRBG (R413). -/
def State.draw (s : State) (n : Nat) : Bytes × State :=
  ((Config.random s.drbgRequests n ++ List.replicate n 0).take n, { s with drbgRequests := s.drbgRequests + 1 })

/-- ASCII of a short label. -/
def ascii (t : String) : Bytes := t.toList.map (fun c => BitVec.ofNat 8 c.toNat)

/-- The estate key ID (R412). -/
def State.estateKeyId (s : State) : Bytes := hkdf384 [] s.fuses.estateKey (ascii "DK7 ESTATE ID") 8

/-- The page key of a context's current incarnation: none once its salt is erased (R423, R425). -/
def Ctx.pageKey (c : Ctx) : Option PageKey := c.salt.map (fun z => ⟨c.uid, z⟩)

/-! ## Firmware and layer -/

/-- The minor the running firmware speaks. -/
def State.fwMinor (s : State) : Nat := match s.fw.running with | some i => i.minor | none => 0

/-- The operating layer in force (R18): false service, true transport. -/
def State.transport (s : State) : Bool := decide (s.profile.layer = 1)

/-- Whether the gaffer takes commands: started, awake and not offline (R315, R420, R444). -/
def State.gafferUp (s : State) : Bool :=
  !s.fw.offline && (match s.power.mode with | .active => true | .starting n => decide (7 < n) | _ => false)

/-- A wake trigger (R444): in QUIET or DORMANT the wake begins. -/
def State.wakeTrigger (s : State) : State :=
  match s.power.mode with
  | .quiet => s.modPower (fun p => { p with waking := true })
  | .dormant => s.modPower (fun p => { p with waking := true })
  | _ => s

/-! ## Fabric ports (R235, R237) -/

/-- Whether a region of host memory cannot be reached now: its queue pair is in the error state, or its port is paused on the
bulk priority. -/
def State.hostBlocked (s : State) (r : Region) : Bool :=
  match s.qps.find r.qpn with
  | some q => decide (q.st = .error) || (s.port q.port).pausedBy.contains s.profile.bulkPriority
  | none => false

/-- Bytes of a priority in a port's receive buffer. -/
def Port.used (q : Port) (priority : Nat) : Nat := ((q.rx.filter (fun f => decide (f.priority = priority))).map (fun f => f.bytes)).sum

/-- XON for every priority whose use has fallen below 512 KiB (R235). -/
def State.sendXon (s : State) (p : Nat) : State :=
  let low := (s.port p).xoffSent.filter (fun k => decide ((s.port p).used k < 524288))
  let s := s.modPort p (fun q => { q with xoffSent := q.xoffSent.filter (fun k => !low.contains k) })
  eachDo low (fun k s => s.emit (.pfc p k false)) s

/-- The port engine has taken what came for a queue pair: it leaves the receive buffers (R235). -/
def State.drainQp (s : State) (qp : Nat) : State :=
  match s.qps.find qp with
  | some q =>
    (s.modPort q.port (fun k => { k with rx := k.rx.filter (fun f => decide (f.qp ≠ qp)) })).sendXon q.port
  | none => s

/-! ## Sizes -/

/-- Bytes of 64 MiB. -/
def mib64 : Nat := 0x4000000

/-- Pages of 64 KiB in all of a grade's HBM (R3). -/
def hbmPages (grade : Nat) : Nat := (hbmEnd grade - hbmBase) / 65536

/-- Pages of the module area: 8 GiB (R150). -/
def moduleAreaPages : Nat := 131072

/-- Ports a grade has (R3). -/
def portCount (grade : Nat) : Nat := if grade = 3 then 6 else 4

/-- TDP of a grade in watts (R3). -/
def tdp (grade : Nat) : Nat := if grade = 2 then 1330 else if grade = 3 then 1460 else 1400

/-- I/O dies of a grade (R3). -/
def ioDies (grade : Nat) : Nat := if grade = 3 then 3 else 2

/-- HBM stacks of a grade (R3). -/
def stackCount (grade : Nat) : Nat := if grade = 2 then 6 else 8

/-- HBM capacity of a grade in GiB (R3). -/
def hbmGiB (grade : Nat) : Nat := if grade = 2 then 216 else 288

/-- Unused spare tiles (R378). -/
def State.sparesLeft (s : State) : Nat := s.spares.length

/-- Whether a logical tile is vacant (R380). -/
def State.vacant (s : State) (t : Nat) : Bool := (s.phys.find t).isNone

/-- The number of vacant logical tiles (R388). -/
def State.vacantCount (s : State) : Nat := 256 - s.phys.length

/-- Whether a tile lies in the expert tile group (R278). -/
def State.expertTile (s : State) (t : Nat) : Bool := decide (256 - 16 * s.profile.expertTiles ≤ t)

/-- Whether a port has FABRIC role (R231). -/
def State.fabric (s : State) (p : Nat) : Bool := decide (s.profile.ports.getD p 0 = 1)

/-- Whether the profile gives ring roles (R231, R232). -/
def State.ringRoles (s : State) : Bool := decide (s.profile.ports.getD 2 0 = 2) && decide (s.profile.ports.getD 3 0 = 3)

end Sys2Proof.Machine
end

