-- ==== Sys2Proof/Machine/Philox.lean ====
section
/-! DEFINITION. Philox-4x32-10 and the rounding key and counter of R70. -/

namespace Sys2Proof.Machine

/-- The four counter or output words, c0 first. -/
structure Quad32 where
  x0 : Word
  x1 : Word
  x2 : Word
  x3 : Word
  deriving DecidableEq, Repr

/-- High and low halves of a 32 x 32 product. -/
def mulHiLo (a b : Word) : Word × Word :=
  let p := a.toNat * b.toNat
  (BitVec.ofNat 32 (p / 2 ^ 32), BitVec.ofNat 32 p)

/-- `n` rounds with the key words bumped after each. -/
def philoxRounds : Nat → Word → Word → Quad32 → Quad32
  | 0, _, _, c => c
  | n + 1, k0, k1, c =>
    let (h0, l0) := mulHiLo 0xD2511F53#32 c.x0
    let (h1, l1) := mulHiLo 0xCD9E8D57#32 c.x2
    philoxRounds n (k0 + 0x9E3779B9#32) (k1 + 0xBB67AE85#32)
      ⟨h1 ^^^ c.x1 ^^^ k0, l1, h0 ^^^ c.x3 ^^^ k1, l0⟩

/-- Philox-4x32 with 10 rounds: 64-bit key, 128-bit counter (R70). -/
def philox (key counter : Nat) : Quad32 :=
  philoxRounds 10 (BitVec.ofNat 32 key) (BitVec.ofNat 32 (key / 2 ^ 32))
    ⟨BitVec.ofNat 32 counter, BitVec.ofNat 32 (counter / 2 ^ 32), BitVec.ofNat 32 (counter / 2 ^ 64),
      BitVec.ofNat 32 (counter / 2 ^ 96)⟩

/-- The output as one 128-bit value, x0 lowest. -/
def Quad32.toNat (q : Quad32) : Nat :=
  q.x0.toNat + 2 ^ 32 * q.x1.toNat + 2 ^ 64 * q.x2.toNat + 2 ^ 96 * q.x3.toNat

/-- The 16-bit word j of an output (R70). -/
def Quad32.half (q : Quad32) (j : Nat) : Nat := bits q.toNat (16 * j + 15) (16 * j)

/-- The fields of a rounding counter (R70, R71). `tail` holds micro_batch, layer, site, tensor and hop in
their places of bytes 16-23 of the rounding state block, bits [29:0] zero. -/
structure RoundCtr where
  key : Nat
  step : Nat
  tail : Nat
  deriving DecidableEq, Repr

/-- Bits [63:30] of a rounding counter from its fields (table Rounding counter). -/
def ctrTail (microBatch layer site tensor hop : Nat) : Nat :=
  microBatch % 4096 * 2 ^ 52 + layer % 256 * 2 ^ 44 + site % 16 * 2 ^ 40 + tensor % 32 * 2 ^ 35 + hop % 32 * 2 ^ 30

/-- The 16-bit random word of an element (R70). -/
def randomWord (c : RoundCtr) (index : Nat) : Nat :=
  (philox c.key (c.step % 2 ^ 64 * 2 ^ 64 + c.tail / 2 ^ 30 * 2 ^ 30 + index / 8)).half (index % 8)

/-- The rounding key: context seed XOR variant ID (R70). -/
def roundKey (seed variant : Nat) : Nat := (seed ^^^ (variant % 2 ^ 17)) % 2 ^ 64

/-- Rounding sites (table Rounding sites). -/
def siteDX : Nat := 0
/-- Activation gradient to an expert's home. -/
def siteDXToExpert : Nat := 1
/-- Activation gradient from an expert's home. -/
def siteDXFromExpert : Nat := 2
/-- Weight-gradient partial in a reduce-scatter hop. -/
def siteDWReduce : Nat := 3
/-- In-place delta. -/
def siteInPlace : Nat := 4

end Sys2Proof.Machine
end

