-- ==== Sys2Proof/Machine/Operands.lean ====
section
/-! DEFINITION. Operand forms: stream descriptors (R161), program operations (R355), the rounding state block (R71),
and the fields read from them. Array descriptors are in Array. -/

namespace Sys2Proof.Machine

/-! ## Stream descriptors (R161) -/

/-- Kind code of a stream. -/
def sdKind (d : Bytes) : Nat := bits (field d 0 8) 63 60
/-- Source endpoint code. -/
def sdSrcKind (d : Bytes) : Nat := bits (field d 0 8) 59 56
/-- Destination endpoint code. -/
def sdDstKind (d : Bytes) : Nat := bits (field d 0 8) 55 52
/-- Whether the reservation is unchecked (R168). -/
def sdUnchecked (d : Bytes) : Bool := bit (field d 0 8) 47
/-- Whether each landed half enqueues an operation. -/
def sdStart (d : Bytes) : Bool := bit (field d 0 8) 46
/-- Stall limit exponent. -/
def sdStallExp (d : Bytes) : Nat := bits (field d 0 8) 45 40
/-- Number of 256-byte transfers. -/
def sdTransfers (d : Bytes) : Nat := bits (field d 0 8) 31 0 + 1
/-- Source address word. -/
def sdSrc (d : Bytes) : Nat := field d 8 8
/-- Destination address word. -/
def sdDst (d : Bytes) : Nat := field d 16 8
/-- Source stride. -/
def sdSrcStride (d : Bytes) : Nat := field d 28 4
/-- Destination stride. -/
def sdDstStride (d : Bytes) : Nat := field d 24 4
/-- Full buffer in 256-byte units. -/
def sdBufUnits (d : Bytes) : Nat := bits (field d 32 8) 63 44
/-- Credits reserved. -/
def sdCredits (d : Bytes) : Nat := bits (field d 32 8) 43 34
/-- Bytes of one row (STRIDED, ROTATE). -/
def sdRowBytes (d : Bytes) : Nat := 64 * (bits (field d 32 8) 33 18 + 1)
/-- Tile-local offset of the operation descriptor for start. -/
def sdOpAddr (d : Bytes) : Nat := 64 * bits (field d 32 8) 16 0
/-- Step of a REDUCE_HOP. -/
def sdStep (d : Bytes) : Nat := field d 40 8
/-- Counter fields of a REDUCE_HOP. -/
def sdTail (d : Bytes) : Nat := field d 48 8
/-- Variant ID of a REDUCE_HOP. -/
def sdVariant (d : Bytes) : Nat := bits (field d 48 8) 16 0
/-- row_stride, scale_shift and index_base of a REDUCE_HOP. -/
def sdRound (d : Bytes) : Nat := field d 56 8

/-- The module address in an address word. -/
def modAddr (w : Nat) : Nat := bits w 39 0
/-- The window number in a host window address. -/
def winNo (w : Nat) : Nat := bits w 63 56
/-- The byte offset in a host window address. -/
def winOffset (w : Nat) : Nat := bits w 55 0

/-- Endpoint code of a tile. -/
def epTile : Nat := 0
/-- Endpoint code of HBM. -/
def epHbm : Nat := 1
/-- Endpoint code of a host window. -/
def epHost : Nat := 4

/-- Whether an endpoint is module memory. -/
def isLocal (k : Nat) : Bool := decide (k ≤ 1)
/-- Whether an endpoint is a ring port. -/
def isRing (k : Nat) : Bool := decide (k = 2) || decide (k = 3)

/-- The bandwidth classes of a stream (R158): read, write and remote. A tile-to-tile stream draws none. -/
def sdClasses (d : Bytes) : List Nat :=
  let a := sdSrcKind d
  let b := sdDstKind d
  if !isLocal a || !isLocal b then [2]
  else if a = epHbm && b = epHbm then [0, 1]
  else if a = epHbm then [0]
  else if b = epHbm then [1]
  else []

/-- The class's credits per engine (R159). -/
def classCredits (split : Caps) (k : Nat) : Nat :=
  640 * (if k = 0 then split.read else if k = 1 then split.write else split.remote) / 100

/-- The largest credits a context may reserve in a class on an engine (R284). -/
def capCredits (split caps : Caps) (k : Nat) : Nat :=
  classCredits split k * (if k = 0 then caps.read else if k = 1 then caps.write else caps.remote) / 100

/-- The limit a descriptor's credits are checked against: the smallest of its classes (R162). A fabric stream has
640 (DEDUCED: the whole engine, assumption log 178). -/
def sdCreditLimit (split : Caps) (d : Bytes) : Nat :=
  (sdClasses d).foldl (fun m k => min m (classCredits split k)) 640

/-- The rules of R162. -/
def sdValid (split : Caps) (d : Bytes) : Bool :=
  decide (1 ≤ sdKind d) && decide (sdKind d ≤ 6) && decide (sdSrcKind d ≤ 4) && decide (sdDstKind d ≤ 4) &&
  decide (16 ≤ sdStallExp d) && decide (sdStallExp d ≤ 36) && decide (0 < sdCredits d) &&
  decide (sdCredits d ≤ sdCreditLimit split d) && decide (0 < sdBufUnits d) && decide (sdBufUnits d % 2 = 0)

/-- Bytes at a local end for one transfer: the FP32 partials of a REDUCE_HOP are four times as wide as the G8 on the wire
(R163). -/
def sdWidth (d : Bytes) : Nat := if sdKind d = 3 then 1024 else 256

/-- Total bytes of a stream at a local end: rows of STRIDED and ROTATE are counted by their transfers too. -/
def sdBytes (d : Bytes) : Nat := sdWidth d * sdTransfers d

/-- Where byte `i` of a strided end lies: row by row with the stride between rows (R163). -/
def stridedAt (base stride row i : Nat) : Nat := base + i / row * stride + i % row

/-- Whether a kind moves rows with strides. -/
def strideKind (d : Bytes) : Bool := decide (sdKind d = 2) || decide (sdKind d = 4)

/-- Module addresses of the 256 bytes of transfer `i` at the source. -/
def sdSrcAddrs (d : Bytes) (i : Nat) : List Nat :=
  (List.range 256).map (fun j =>
    if strideKind d then stridedAt (modAddr (sdSrc d)) (sdSrcStride d) (sdRowBytes d) (256 * i + j)
    else modAddr (sdSrc d) + 256 * i + j)

/-- Module addresses of the 256 bytes of transfer `i` at the destination. -/
def sdDstAddrs (d : Bytes) (i : Nat) : List Nat :=
  (List.range 256).map (fun j =>
    if strideKind d then stridedAt (modAddr (sdDst d)) (sdDstStride d) (sdRowBytes d) (256 * i + j)
    else modAddr (sdDst d) + 256 * i + j)

/-- The buffer at the destination: first address and length (R161). -/
def sdBuffer (d : Bytes) : Nat × Nat := (modAddr (sdDst d), 256 * sdBufUnits d)

/-- Whether two ranges share a byte. -/
def overlaps (a n b m : Nat) : Bool := decide (max a b < min (a + n) (b + m))

/-! ## Program operations (R355) -/

/-- Operation `i` of a program: 80 bytes. -/
def progOp (p : Bytes) (i : Nat) : Bytes := slice p (80 * i) 80
/-- Its code. -/
def poCode (o : Bytes) : Nat := bits (field o 0 8) 63 56
/-- Its target. -/
def poTarget (o : Bytes) : Nat := bits (field o 0 8) 47 32
/-- Its master address (UPDATE). -/
def poMaster (o : Bytes) : Nat := bits (field o 8 8) 39 0
/-- Its body: 64 bytes. -/
def poBody (o : Bytes) : Bytes := slice o 16 64
/-- The number of operations of a program. -/
def progLen (p : Bytes) : Nat := p.length / 80

/-! ## The rounding state block (R71) -/

/-- The key of a rounding block. -/
def rbKey (b : Bytes) : Nat := field b 0 8
/-- The step of a rounding block. -/
def rbStep (b : Bytes) : Nat := field b 8 8
/-- micro_batch, layer, site, tensor, hop in their places. -/
def rbTail (b : Bytes) : Nat := field b 16 8
/-- The layer field (bits [51:44] of the tail, R70). -/
def rbLayer (b : Bytes) : Nat := bits (rbTail b) 51 44

end Sys2Proof.Machine
end

