-- ==== Sys2Proof/Machine/Rules.lean ====
section
/-! DEFINITION. The array's order of sums (R35), the four update rules (R120 to R124), and the working copy: derived
(R138, R482), in place (R139, R140) and its drift (R141). -/

namespace Sys2Proof.Machine

/-! ## Sums in the array's order (R35) -/

/-- A list cut into runs of `n`, `fuel` runs at most. -/
def runs {α : Type} (n : Nat) : Nat → List α → List (List α)
  | 0, _ => []
  | _, [] => []
  | f + 1, l => l.take n :: runs n f (l.drop n)

/-- One segment: the exact sum of its exact products, times the block scale, rounded once (R35 steps 1 to 3). -/
def segmentSum (ps : List (Fp × Fp)) (scale : Int) : Word := toFP32 ((Fp.sum (ps.map (fun p => p.1.mul p.2))).scale scale)

/-- The segment values added in order, the running total starting at segment 0 (R35 step 4). -/
def segmentTotal : List Word → Word
  | [] => 0#32
  | w :: ws => ws.foldl fadd w

/-- A product of any length without block scales, 256 rows a link, each link added to the one before (R35). -/
def dotLinks : List (List (Fp × Fp)) → Option Word → Word
  | [], acc => acc.getD 0#32
  | l :: ls, acc =>
    let t := segmentTotal ((runs 32 (l.length + 1) l).map (fun ps => segmentSum ps 0))
    dotLinks ls (some (match acc with | some a => fadd t a | none => t))

/-- The dot product of two vectors of exact values (R35). -/
def dotArray (xs ys : List Fp) : Word := dotLinks (runs 256 (xs.length + 1) (xs.zip ys)) none

/-! ## Matrices in element order row x C + column -/

/-- An element. -/
def el (m : List Word) (c i j : Nat) : Word := m.getD (i * c + j) 0#32
/-- A row's values. -/
def rowOf (m : List Word) (c i : Nat) : List Word := (List.range c).map (fun j => el m c i j)
/-- A column's values. -/
def colOf (m : List Word) (r c j : Nat) : List Word := (List.range r).map (fun i => el m c i j)
/-- Build a matrix. -/
def build (r c : Nat) (f : Nat → Nat → Word) : List Word := (List.range (r * c)).map (fun k => f (k / c) (k % c))
/-- The transpose. -/
def transpose (m : List Word) (r c : Nat) : List Word := build c r (fun i j => el m c j i)
/-- Two lists combined element by element. -/
def zip2 (f : Word → Word → Word) (a b : List Word) : List Word := (a.zip b).map (fun p => f p.1 p.2)

/-- FP32 of a small number, exactly when it has at most 24 bits. -/
def natFP (n : Nat) : Word := packFP32 false n 0 false

/-- The constant 1. -/
def one32 : Word := 0x3F800000#32

/-! ## The rules -/

/-- g of R120: the gradient at rest times 2^(-s_l). -/
def gradOf (s : Int) (g : Word) : Word := fscale g (-s)

/-- PLAIN (R121). -/
def rulePlain (q : RuleSet) (s : Int) (g : List Word) (x : TensorState) : TensorState :=
  let lrl := fscale q.lr (-s)
  let wd := fmul q.lr q.weightDecay
  { master := zip2 (fun w g => fsub w (fadd (fmul lrl g) (fmul wd w))) x.master g, rule := 0, st1 := [], st2 := [] }

/-- A bias correction of MOMENT2 (R122). -/
def biasCorrection (beta : Word) (t : Nat) : Word :=
  if 2 ^ 24 < t then one32 else recip (fsub one32 (exp2 (fmul (natFP t) (log2 beta))))

/-- MOMENT2 (R122). -/
def ruleMoment2 (q : RuleSet) (t : Nat) (s : Int) (g : List Word) (x : TensorState) : TensorState :=
  let r1 := biasCorrection q.beta1 t
  let r2 := biasCorrection q.beta2 t
  let gs := g.map (gradOf s)
  let m := zip2 (fun m g => fadd (fmul q.beta1 m) (fmul (fsub one32 q.beta1) g)) x.st1 gs
  let v := zip2 (fun v g => fadd (fmul q.beta2 v) (fmul (fsub one32 q.beta2) (fmul g g))) x.st2 gs
  let u := zip2 (fun m v => fmul (fmul m r1) (recip (fadd (fsqrt (fmul v r2)) q.eps))) m v
  { master := zip2 (fun w u => fsub w (fmul q.lr (fadd u (fmul q.weightDecay w)))) x.master u, rule := 1, st1 := m, st2 := v }

/-- FACTORED on a matrix (R123). -/
def ruleFactored (q : RuleSet) (s : Int) (r c : Nat) (g : List Word) (x : TensorState) : TensorState :=
  let gs := g.map (gradOf s)
  let sq := gs.map (fun g => fadd (fmul g g) q.eps)
  let row := (List.range r).map (fun i => fadd (fmul q.beta2 (x.st1.getD i 0#32))
    (fmul (fsub one32 q.beta2) (fmul (pairSum (rowOf sq c i)) (recip (natFP c)))))
  let col := (List.range c).map (fun j => fadd (fmul q.beta2 (x.st2.getD j 0#32))
    (fmul (fsub one32 q.beta2) (fmul (pairSum (colOf sq r c j)) (recip (natFP r)))))
  let rbar := fmul (pairSum row) (recip (natFP r))
  let v := build r c (fun i j => fmul (fmul (row.getD i 0#32) (col.getD j 0#32)) (recip rbar))
  let u := zip2 (fun g v => fmul g (rsqrt v)) gs v
  { master := zip2 (fun w u => fsub w (fmul q.lr (fadd u (fmul q.weightDecay w)))) x.master u, rule := 2, st1 := row, st2 := col }

/-- FACTORED on a one-dimensional tensor (R123). -/
def ruleFactored1 (q : RuleSet) (s : Int) (g : List Word) (x : TensorState) : TensorState :=
  let gs := g.map (gradOf s)
  let v := zip2 (fun v g => fadd (fmul q.beta2 v) (fmul (fsub one32 q.beta2) (fadd (fmul g g) q.eps))) x.st1 gs
  let u := zip2 (fun g v => fmul g (rsqrt v)) gs v
  { master := zip2 (fun w u => fsub w (fmul q.lr (fadd u (fmul q.weightDecay w)))) x.master u, rule := 2, st1 := v, st2 := [] }

/-- The exponent that places an operand's largest magnitude in [128, 256) (R124). -/
def orthoExp (m : List Word) : Int := match maxLog2 (m.map ofFP32) with | some k => 7 - k | none => 0

/-- A product of R124: each operand scaled, converted to F8, multiplied on the array and scaled back. `a` is r x k,
`b` is k x c. -/
def orthoMul (a b : List Word) (r k c : Nat) : List Word :=
  let ea := orthoExp a
  let eb := orthoExp b
  let fa := a.map (fun w => ofF8 (toF8 (fscale w ea)).enc)
  let fb := b.map (fun w => ofF8 (toF8 (fscale w eb)).enc)
  (List.range (r * c)).map (fun n =>
    let x := (List.range k).map (fun t => fa.getD (n / c * k + t) (.fin false 0 0))
    let y := (List.range k).map (fun t => fb.getD (t * c + n % c) (.fin false 0 0))
    fscale (dotArray x y) (-(ea + eb)))

/-- 1.875 X - 1.25 P + 0.375 Q, left to right (R124). -/
def orthoMix (x p q : List Word) : List Word :=
  zip2 fadd (zip2 fsub (x.map (fmul 0x3FF00000#32)) (p.map (fmul 0x3FA00000#32))) (q.map (fmul 0x3EC00000#32))

/-- The iterations of R124. -/
def orthoIter (r c : Nat) : Nat → List Word → List Word
  | 0, x => x
  | n + 1, x =>
    let xt := transpose x r c
    let x' :=
      if c ≤ r then
        let a := orthoMul xt x c r c
        let p := orthoMul x a r c c
        orthoMix x p (orthoMul p a r c c)
      else
        let a := orthoMul x xt r c r
        let p := orthoMul a x r r c
        orthoMix x p (orthoMul a p r r c)
    orthoIter r c n x'

/-- The larger of 1 and a value. -/
def max1 (w : Word) : Word := if flt one32 w then w else one32

/-- ORTHO on a matrix (R124). -/
def ruleOrtho (q : RuleSet) (s : Int) (r c : Nat) (g : List Word) (x : TensorState) : TensorState :=
  let m := zip2 (fun m g => fadd (fmul q.beta1 m) g) x.st1 (g.map (gradOf s))
  let k := recip (fadd (fsqrt (pairSum (m.map (fun v => fmul v v)))) q.eps)
  let o := orthoIter r c 5 (m.map (fun v => fmul v k))
  let f := fsqrt (max1 (fmul (natFP r) (recip (natFP c))))
  { master := zip2 (fun w o => fsub w (fmul q.lr (fadd (fmul f o) (fmul q.weightDecay w)))) x.master o, rule := 3, st1 := m, st2 := [] }

/-- ORTHO on a one-dimensional tensor (R124). -/
def ruleOrtho1 (q : RuleSet) (s : Int) (g : List Word) (x : TensorState) : TensorState :=
  let m := zip2 (fun m g => fadd (fmul q.beta1 m) g) x.st1 (g.map (gradOf s))
  { master := zip2 (fun w m => fsub w (fmul q.lr (fadd m (fmul q.weightDecay w)))) x.master m, rule := 3, st1 := m, st2 := [] }

/-- The zero rule state of a tensor (R125). -/
def zeroState (rule r c : Nat) (master : List Word) : TensorState :=
  let z (n : Nat) : List Word := List.replicate n 0#32
  if rule = 1 then ⟨rule, master, z (r * c), z (r * c)⟩
  else if rule = 2 then (if r = 1 || c = 1 then ⟨rule, master, z (r * c), []⟩ else ⟨rule, master, z r, z c⟩)
  else if rule = 3 then ⟨rule, master, z (r * c), []⟩
  else ⟨rule, master, [], []⟩

/-- A rule applied to one tensor (R120). -/
def applyRule (q : RuleSet) (t : Nat) (s : Int) (r c : Nat) (g : List Word) (x : TensorState) : TensorState :=
  let flat := decide (r = 1) || decide (c = 1)
  if q.rule = 0 then rulePlain q s g x
  else if q.rule = 1 then ruleMoment2 q t s g x
  else if q.rule = 2 then (if flat then ruleFactored1 q s g x else ruleFactored q s r c g x)
  else (if flat then ruleOrtho1 q s g x else ruleOrtho q s r c g x)

/-- Whether a new master or rule state holds a non-finite value (R129). -/
def badState (x : TensorState) : Bool := x.master.any nonFinite || x.st1.any nonFinite || x.st2.any nonFinite

/-! ## Working copies -/

/-- The number of block rows of a W4 working copy (R482). -/
def blockRows (r : Nat) : Nat := (r + 31) / 32

/-- The rows of block `b` of column `j`, missing rows taken as zero (R482). -/
def blockVals (m : List Word) (r c b j : Nat) : List Word :=
  (List.range 32).map (fun k => if 32 * b + k < r then el m c (32 * b + k) j else 0#32)

/-- Conversion of a matrix to the base's working format (R66, R138, R482). `fmt` is the code of R61: 1 F8, 4 W4. -/
def narrowCopy (fmt r c : Nat) (m : List Word) : WorkCopy :=
  if fmt = 1 then ⟨m.map (fun w => (toF8 w).enc), []⟩
  else
    let blocks := (List.range (blockRows r * c)).map (fun k => toW4Block (blockVals m r c (k / c) (k % c)))
    { elems := (List.range (r * c)).map (fun n => ((blocks.getD (n / c / 32 * c + n % c) (0, [], false)).2.1).getD (n / c % 32) 0),
      scales := blocks.map (fun b => b.1) }

/-- DERIVE (R138): the conversion of alpha x w'. -/
def deriveCopy (fmt r c : Nat) (alpha : Word) (master : List Word) : WorkCopy :=
  narrowCopy fmt r c (master.map (fmul alpha))

/-- The conversions of a DERIVE that saturate, as the F8 saturation counter counts them (R65, R138). -/
def deriveSats (fmt : Nat) (alpha : Word) (master : List Word) : Nat :=
  if fmt = 1 then (master.filter (fun w => (toF8 (fmul alpha w)).sat)).length else 0

/-- The scale byte of element `n` of a W4 copy. -/
def scaleAt (w : WorkCopy) (c n : Nat) : Nat := w.scales.getD (n / c / 32 * c + n % c) 0xFF

/-- An element of a working copy widened exactly (R64). -/
def widenAt (fmt c : Nat) (w : WorkCopy) (n : Nat) : Word :=
  if fmt = 1 then toFP32 (ofF8 (w.elems.getD n 0)) else w4ToFP32 (w.elems.getD n 0) (scaleAt w c n)

/-- Whether a working copy holds a non-finite element or block scale (R129). -/
def badCopy (fmt : Nat) (w : WorkCopy) : Bool :=
  if fmt = 1 then w.elems.any (fun e => decide (e % 128 = 0x7F)) else w.scales.any (fun k => decide (k = 0xFF))

/-- One in-place element (R139, R140), `first` the element index of the copy's element 0: none when y is not finite. -/
def inPlaceAt (fmt c : Nat) (ctr : RoundCtr) (first : Nat) (cur : WorkCopy) (alpha : Word) (w w' : Word) (n : Nat) : Option Nat :=
  let y := ofFP32 (fadd (widenAt fmt c cur n) (fmul alpha (fsub w' w)))
  let q := if fmt = 1 then y else y.scale (127 - (scaleAt cur c n : Int))
  inPlaceRound (if fmt = 1 then fmtF8 else fmtW4) q (randomWord ctr (first + n))

/-- INPLACE_K (R139): every element in place, block scales unchanged; and whether any y was not finite. -/
def inPlaceCopy (fmt c : Nat) (ctr : RoundCtr) (first : Nat) (cur : WorkCopy) (alpha : Word) (old new : List Word) : WorkCopy × Bool :=
  let es := (List.range new.length).map (fun n => inPlaceAt fmt c ctr first cur alpha (old.getD n 0#32) (new.getD n 0#32) n)
  (⟨es.map (fun e => e.getD 0), cur.scales⟩, es.any (fun e => e.isNone))

/-- The exact difference of two finite values exceeds a unit in magnitude. -/
def differsBy (a b unit : Fp) : Bool :=
  match a, b, unit with
  | .fin s m e, .fin t n f, .fin _ u g =>
    let k := min e (min f g)
    decide (scaledInt false u g k < (scaledInt s m e k - scaledInt t n f k).natAbs)
  | .fin _ _ _, .fin _ _ _, _ => false
  | _, _, _ => true

/-- The unit of the derived grid at a magnitude code (R141): the gap above, or below the largest magnitude. -/
def gridUnit (f : Format) (mag : Nat) : Fp :=
  let lo := if mag = f.maxEnc then mag - 1 else mag
  (f.value (lo + 1)).add (match f.value lo with | .fin s m e => .fin (!s) m e | x => x)

/-- Whether an element drifted (R141): its in-place value differs from its derived value by more than one unit. -/
def driftedAt (fmt c : Nat) (inp cur derived : WorkCopy) (n : Nat) : Bool :=
  if fmt = 1 then
    let d := derived.elems.getD n 0
    differsBy (ofF8 (inp.elems.getD n 0)) (ofF8 d) (gridUnit fmtF8 (d % 128))
  else
    let d := derived.elems.getD n 0
    differsBy (ofW4 (inp.elems.getD n 0) (scaleAt cur c n)) (ofW4 d (scaleAt derived c n))
      ((gridUnit fmtW4 (d % 8)).scale ((scaleAt derived c n : Int) - 127))

/-- The number of drifted elements of a tensor (R141). -/
def driftCount (fmt c : Nat) (inp cur derived : WorkCopy) : Nat :=
  ((List.range inp.elems.length).filter (driftedAt fmt c inp cur derived)).length

end Sys2Proof.Machine
end

