-- ==== Sys2Proof/Machine/Array.lean ====
section
/-! DEFINITION. Operations of the matrix array as functions of a tile's memory: the descriptor, plain and marver operands,
products, the drain with its derivatives, and element-wise functions (R31 to R55, R60 to R72, R88, R91 to R100). -/

namespace Sys2Proof.Machine

/-! ## The descriptor (R49, R50) -/

/-- Operation code. -/
def aoOp (d : Bytes) : Nat := bits (field d 0 8) 63 60
/-- Format of the stationary operand: 0 F8, 1 W4, 2 G8. -/
def aoStatFmt (d : Bytes) : Nat := bits (field d 0 8) 59 58
/-- Format of the moving operand: 0 F8, 1 G8. -/
def aoMovFmt (d : Bytes) : Nat := bits (field d 0 8) 57 56
/-- Half: 0 full width, 1 lower, 2 upper. -/
def aoHalf (d : Bytes) : Nat := bits (field d 0 8) 55 54
/-- ACCUMULATE. -/
def aoAcc (d : Bytes) : Bool := bit (field d 0 8) 53
/-- Stream against the block already loaded. -/
def aoReuse (d : Bytes) : Bool := bit (field d 0 8) 52
/-- Output format: 0 FP32, 1 F8, 2 G8, 3 B16. -/
def aoOut (d : Bytes) : Nat := bits (field d 0 8) 51 48
/-- Moving rows. -/
def aoRows (d : Bytes) : Nat := bits (field d 0 8) 47 32 + 1
/-- Adapter rank. -/
def aoRank (d : Bytes) : Nat := 8 * 2 ^ bits (field d 0 8) 31 30
/-- Whether the stationary block is an adapter column block. -/
def aoAdapter (d : Bytes) : Bool := bit (field d 0 8) 29
/-- Element-wise function. -/
def aoEw (d : Bytes) : Nat := bits (field d 0 8) 28 24
/-- Fused derivative. -/
def aoDrain (d : Bytes) : Nat := bits (field d 0 8) 23 16
/-- Address words. -/
def aoStat (d : Bytes) : Nat := field d 8 4
def aoMov (d : Bytes) : Nat := field d 12 4
def aoSrc (d : Bytes) : Nat := field d 16 4
def aoDst (d : Bytes) : Nat := field d 20 4
def aoAux (d : Bytes) : Nat := field d 24 4
def aoTag (d : Bytes) : Nat := field d 28 4

/-- Whether an operand passes through the marver. -/
def viaMarver (a : Nat) : Bool := bit a 31
/-- Tile-local offset of an address word. -/
def offsetOf (a : Nat) : Nat := bits a 22 0
/-- What an address word names: its offset and its marver bit. The bits between them are Rsv0 and ignored (R14, R50). -/
def addrKey (a : Nat) : Nat := offsetOf a + (if viaMarver a then 0x80000000 else 0)

/-- Logical columns of a stationary format: 32, or 64 in W4 (R31). -/
def fmtWidth (fmt : Nat) : Nat := if fmt = 1 then 64 else 32

/-- The columns of a problem: all, or those of its half's cells (R44). -/
def aoCols (d : Bytes) : List Nat :=
  let w := fmtWidth (aoStatFmt d)
  if aoHalf d = 1 then List.range (w / 2)
  else if aoHalf d = 2 then (List.range (w / 2)).map (· + w / 2)
  else List.range w

/-- Bytes of an element in an output format. -/
def outSize (f : Nat) : Nat := if f = 0 then 4 else if f = 3 then 2 else 1

/-- Whether output rows take the 256-byte layout of R42: an adapter column block converted to F8, or to G8 (R88). -/
def aoWide (d : Bytes) : Bool := aoAdapter d && (decide (aoOut d = 1) || decide (aoOut d = 2))

/-- Bytes of one output row. -/
def aoRowBytes (d : Bytes) : Nat := if aoWide d then 256 else (aoCols d).length * outSize (aoOut d)

/-! ## The marver descriptor (R92, R93) -/

/-- Mode: 1 BLOCK_T, 2 ROWS_T, 3 PANEL_ROWS, 4 STRIDED_BLOCK. -/
def mdMode (m : Bytes) : Nat := bits (field m 0 8) 63 60
/-- Element format. -/
def mdFmt (m : Bytes) : Nat := bits (field m 0 8) 59 58
/-- Slice of BLOCK_T. -/
def mdSlice (m : Bytes) : Nat := bits (field m 0 8) 55 53
/-- Byte offset of STRIDED_BLOCK. -/
def mdCol (m : Bytes) : Nat := bits (field m 0 8) 52 45
/-- Number of sources. -/
def mdCount (m : Bytes) : Nat := bits (field m 0 8) 39 32 + 1
/-- First source. -/
def mdSrc (m : Bytes) : Nat := field m 12 4
/-- Bytes between sources. -/
def mdStride (m : Bytes) : Nat := field m 8 4
/-- Bytes between source rows. -/
def mdRowStride (m : Bytes) : Nat := field m 20 4

/-- The regions of a tile the sources of a marver descriptor lie in (R93): the blocks of BLOCK_T, the rows of ROWS_T and
STRIDED_BLOCK, the panels of PANEL_ROWS. What lies between them is no input (R47, R97). -/
def mdSources (m : Bytes) (rows : Nat) : List (Nat × Nat) :=
  let src (b : Nat) : Nat := offsetOf (mdSrc m) + b * mdStride m
  if mdMode m = 1 then (List.range (mdCount m)).map (fun b => (src b, if mdFmt m = 1 then 8704 else 8192))
  else if mdMode m = 2 then
    (List.range (mdCount m)).flatMap (fun b => (List.range 256).map (fun i => (src b + i * mdRowStride m, 256)))
  else if mdMode m = 3 then (List.range (mdCount m)).map (fun b => (src b, rows * (256 / mdCount m)))
  else (List.range 256).map (fun k => (offsetOf (mdSrc m) + mdCol m + k * mdRowStride m, 32))

/-- The slice a BLOCK_T descriptor takes. In W4 the table Marver descriptor gives 0 to 3 only, and neither R95 nor R320 calls
another code undefined: the rows such a code delivers are those of a free slice (DESIGN CHOICE, assumption log 143). -/
def mdSliceOf (m : Bytes) : Nat := if mdFmt m = 1 && decide (3 < mdSlice m) then Config.marverSlice m % 4 else mdSlice m

/-- Bytes of the sources from the first source on (R93). -/
def mdExtent (m : Bytes) (rows : Nat) : Nat :=
  let last := (mdCount m - 1) * mdStride m
  if mdMode m = 1 then last + (if mdFmt m = 1 then 8704 else 8192)
  else if mdMode m = 2 then last + 255 * mdRowStride m + 256
  else if mdMode m = 3 then last + rows * (256 / mdCount m)
  else mdCol m + 255 * mdRowStride m + 32

/-- The rules of R93 and R95 for a descriptor on the stationary side, `fmt` the operation's format. Bit [31] of src_addr is Rsv0
(R50), so it is not looked at (R14). -/
def mdStatOk (m : Bytes) (fmt : Nat) : Bool :=
  decide (mdFmt m = fmt) && decide (mdSrc m % 64 = 0) && decide (mdStride m % 64 = 0) &&
  decide (offsetOf (mdSrc m) + mdExtent m 0 ≤ 0x800000) &&
  ((decide (mdMode m = 1) &&
      (if fmt = 1 then decide (mdCount m ≤ 4) else decide (mdCount m ≤ 8))) ||
   (decide (mdMode m = 4) && decide (fmt ≠ 1) && decide (mdCount m = 1) && decide (mdCol m % 32 = 0) &&
      decide (mdCol m ≤ 224) && decide (mdRowStride m % 32 = 0)))

/-- The rules of R93 and R95 for a descriptor on the moving side; `fmt` in the codes of the stationary side. -/
def mdMovOk (m : Bytes) (fmt rows : Nat) : Bool :=
  decide (mdFmt m = fmt) && decide (fmt ≠ 1) && decide (mdSrc m % 64 = 0) && decide (mdStride m % 64 = 0) &&
  decide (offsetOf (mdSrc m) + mdExtent m rows ≤ 0x800000) &&
  ((decide (mdMode m = 2) && decide (mdRowStride m % 64 = 0) && decide (rows = 256 * mdCount m)) ||
   (decide (mdMode m = 3) && (decide (mdCount m = 4) || decide (mdCount m = 8))))

/-! ## Reading a tile's memory -/

/-- The bytes of a tile as numbers, by tile-local offset. -/
def tileByte (mem : List Host.Cell) (tile o : Nat) : Nat := (readByte mem (tileAddr tile o)).toNat

/-- `n` bytes of a tile. -/
def tileBytesAt (mem : List Host.Cell) (tile o n : Nat) : Bytes := readBytes mem (tileAddr tile o) n

/-- An FP32 value of a tile. -/
def tileWord (mem : List Host.Cell) (tile o : Nat) : Word := readWord mem (tileAddr tile o)

/-- The marver descriptor at an address word. -/
def marverAt (mem : List Host.Cell) (tile a : Nat) : Bytes := tileBytesAt mem tile (offsetOf a) 32

/-- The inputs an operation reads besides its block: memory, tile, rounding and derivative blocks, and
filled marver buffers. -/
structure ArrayIn where
  mem : List Host.Cell
  tile : Nat
  rounding : Bytes
  deriv : Bytes
  marver : List MarverBuf
  deriving DecidableEq, Repr

/-! ## The stationary block (R31, R33, R93, R94) -/

/-- A stationary element of a block in the layout of R33: row k, logical column j. -/
def blockElem (mem : List Host.Cell) (tile fmt base k j : Nat) : Nat :=
  if fmt = 1 then
    let b := tileByte mem tile (base + 32 * k + j / 2)
    if j % 2 = 0 then b % 16 else b / 16
  else tileByte mem tile (base + 32 * k + j)

/-- The scale byte of segment g, column j of a W4 block. -/
def blockScale (mem : List Host.Cell) (tile base g j : Nat) : Nat := tileByte mem tile (base + 8192 + 64 * g + j)

/-- A block read from the banks. -/
def plainBlock (mem : List Host.Cell) (tile fmt half a : Nat) : Loaded :=
  let base := offsetOf a
  let w := fmtWidth fmt
  { address := a, fmt := fmt, half := half,
    rows := (List.range 256).map (fun k => (List.range w).map (blockElem mem tile fmt base k)),
    scales := if fmt = 1 then (List.range 8).map (fun g => (List.range 64).map (blockScale mem tile base g)) else [],
    rowScaled := false }

/-- A block the marver transposes (BLOCK_T): row k is a column of a source; absent sources give zero rows. -/
def transposedBlock (mem : List Host.Cell) (tile fmt half a : Nat) (m : Bytes) : Loaded :=
  let w := fmtWidth fmt
  let src (b : Nat) : Nat := offsetOf (mdSrc m) + b * mdStride m
  { address := a, fmt := fmt, half := half,
    rows := (List.range 256).map (fun k => (List.range w).map (fun c =>
      if k / w < mdCount m then blockElem mem tile fmt (src (k / w)) (w * mdSliceOf m + c) (k % w) else 0)),
    scales := if fmt = 1 then (List.range 256).map (fun k =>
        if k / w < mdCount m then [blockScale mem tile (src (k / w)) (2 * mdSliceOf m) (k % w),
          blockScale mem tile (src (k / w)) (2 * mdSliceOf m + 1) (k % w)] else [127, 127]) else [],
    rowScaled := decide (fmt = 1) }

/-- A block gathered row by row (STRIDED_BLOCK). -/
def stridedBlock (mem : List Host.Cell) (tile fmt half a : Nat) (m : Bytes) : Loaded :=
  { address := a, fmt := fmt, half := half,
    rows := (List.range 256).map (fun k => (List.range 32).map (fun c =>
      tileByte mem tile (offsetOf (mdSrc m) + mdCol m + k * mdRowStride m + c))),
    scales := [], rowScaled := false }

/-- The marver buffer that holds a piece of the operand a descriptor address names (R96). -/
def ArrayIn.buffer (x : ArrayIn) (a piece : Nat) : Option MarverBuf :=
  x.marver.find? (fun b => decide (addrKey b.descAddr = addrKey a) && decide (b.piece = piece))

/-- The stationary block an operation loads; one the marver has built already comes from its buffer (R96). -/
def loadBlock (x : ArrayIn) (d : Bytes) : Loaded :=
  let a := aoStat d
  if !viaMarver a then plainBlock x.mem x.tile (aoStatFmt d) (aoHalf d) a
  else
    let m := marverAt x.mem x.tile a
    if mdMode m = 1 then
      match x.buffer a 0 with
      | some f =>
        { address := a, fmt := aoStatFmt d, half := aoHalf d, rows := f.rows, scales := f.scales, rowScaled := decide (aoStatFmt d = 1) }
      | none => transposedBlock x.mem x.tile (aoStatFmt d) (aoHalf d) a m
    else stridedBlock x.mem x.tile (aoStatFmt d) (aoHalf d) a m

/-! ## The moving rows (R33, R93) -/

/-- Element i of row r of a ROWS_T operand: byte r of row i of its tile, tile by tile (R93). -/
def rowsT (mem : List Host.Cell) (tile : Nat) (m : Bytes) (r i : Nat) : Nat :=
  tileByte mem tile (offsetOf (mdSrc m) + r / 256 * mdStride m + i * mdRowStride m + r % 256)

/-- Element i of moving row r. -/
def movElem (x : ArrayIn) (d : Bytes) (r i : Nat) : Nat :=
  let a := aoMov d
  if !viaMarver a then tileByte x.mem x.tile (offsetOf a + 256 * r + i)
  else
    let m := marverAt x.mem x.tile a
    if mdMode m = 2 then
      match x.buffer a (r / 256) with
      | some f => (f.rows.getD (r % 256) []).getD i 0
      | none => rowsT x.mem x.tile m r i
    else
      let n := 256 / mdCount m
      tileByte x.mem x.tile (offsetOf (mdSrc m) + i / n * mdStride m + r * n + i % n)

/-- Moving row r. -/
def movRow (x : ArrayIn) (d : Bytes) (r : Nat) : List Nat := (List.range 256).map (movElem x d r)

/-- The number of buffers the marver fills for an operation: one for BLOCK_T, which a block already loaded does not need (R37),
one for each tile of ROWS_T (R96). -/
def marverPieces (x : ArrayIn) (d : Bytes) : Nat :=
  if aoOp d ≠ 1 then 0
  else if viaMarver (aoStat d) && !aoReuse d && decide (mdMode (marverAt x.mem x.tile (aoStat d)) = 1) then 1
  else if viaMarver (aoMov d) && decide (mdMode (marverAt x.mem x.tile (aoMov d)) = 2) then
    mdCount (marverAt x.mem x.tile (aoMov d))
  else 0

/-- A buffer filled with a piece of an operation's buffered operand (R96). -/
def marverFilled (x : ArrayIn) (d : Bytes) (piece : Nat) : MarverBuf :=
  if viaMarver (aoStat d) && !aoReuse d && decide (mdMode (marverAt x.mem x.tile (aoStat d)) = 1) then
    let b := transposedBlock x.mem x.tile (aoStatFmt d) (aoHalf d) (aoStat d) (marverAt x.mem x.tile (aoStat d))
    ⟨aoStat d, 0, b.rows, b.scales⟩
  else
    ⟨aoMov d, piece, (List.range 256).map (fun r => (List.range 256).map (rowsT x.mem x.tile (marverAt x.mem x.tile (aoMov d)) (256 * piece + r))), []⟩

/-! ## A product (R35, R94) -/

/-- The value of a moving element. -/
def movValue (fmt e : Nat) : Fp := if fmt = 1 then ofG8 e else ofF8 e

/-- The value of a stationary element before its block scale; scale 0xFF makes a W4 element NaN (R60). -/
def statValue (fmt e scale : Nat) : Fp :=
  if fmt = 1 then (if scale = 0xFF then .nan else fmtW4.value e) else if fmt = 2 then ofG8 e else ofF8 e

/-- The scale byte of row k, column j of a loaded block; 127 is 1. -/
def Loaded.scaleOf (l : Loaded) (k j : Nat) : Nat :=
  if l.fmt ≠ 1 then 127
  else if l.rowScaled then (l.scales.getD k []).getD (j / 32) 127
  else (l.scales.getD (k / 32) []).getD j 127

/-- The exact products of segment g for column j. -/
def segmentProducts (l : Loaded) (movFmt : Nat) (row : List Nat) (g j : Nat) : List (Fp × Fp) :=
  (List.range 32).map (fun i =>
    let k := 32 * g + i
    let v := statValue l.fmt ((l.rows.getD k []).getD j 0) (l.scaleOf k j)
    (if l.rowScaled then v.scale ((l.scaleOf k j : Int) - 127) else v, movValue movFmt (row.getD k 0)))

/-- The sum of a column for one moving row, steps 1 to 4 of R35 (R94 for a row-scaled block). -/
def columnSum (l : Loaded) (movFmt : Nat) (row : List Nat) (j : Nat) : Word :=
  segmentTotal ((List.range 8).map (fun g =>
    segmentSum (segmentProducts l movFmt row g j) (if l.rowScaled then 0 else (l.scaleOf (32 * g) j : Int) - 127)))

/-! ## Fused derivatives (R98, R99) -/

/-- log2 e, sqrt(2/pi) and 0.044715 in FP32. -/
def cL : Word := 0x3FB8AA3B#32
def cC1 : Word := 0x3F4C422A#32
def cC2 : Word := 0x3D372713#32

/-- The sigmoid. -/
def sigFP (a : Word) : Word := recip (fadd one32 (exp2 (fneg (fmul a cL))))
/-- silu. -/
def siluFP (a : Word) : Word := fmul a (sigFP a)
/-- silu'. -/
def dsiluFP (a : Word) : Word := fmul (sigFP a) (fadd one32 (fmul a (fsub one32 (sigFP a))))
/-- t of R99. -/
def geluT (a : Word) : Word :=
  let z := fmul cC1 (fadd a (fmul (fmul (fmul cC2 a) a) a))
  fsub one32 (fmul 0x40000000#32 (recip (fadd one32 (exp2 (fmul (fmul 0x40000000#32 z) cL)))))
/-- gelu. -/
def geluFP (a : Word) : Word := fmul (fmul 0x3F000000#32 a) (fadd one32 (geluT a))
/-- gelu'. -/
def dgeluFP (a : Word) : Word :=
  let t := geluT a
  fadd (fmul 0x3F000000#32 (fadd one32 t))
    (fmul (fmul (fmul (fmul 0x3F000000#32 a) (fsub one32 (fmul t t))) cC1)
      (fadd one32 (fmul (fmul (fmul 0x40400000#32 cC2) a) a)))

/-- The derivative block's fields. -/
def dbA (b : Bytes) : Nat := field b 4 4
def dbB (b : Bytes) : Nat := field b 0 4
def dbDst2 (b : Bytes) : Nat := field b 12 4
def dbGate (b : Bytes) : Nat := field b 8 4
def dbRowsum (b : Bytes) : Nat := field b 20 4
def dbFmt (b : Bytes) : Nat := bits (field b 16 4) 7 4

/-- Whether a derivative has a second destination. -/
def drainPair (f : Nat) : Bool := decide (1 ≤ f) && decide (f ≤ 4)
/-- Whether a derivative is gated. -/
def drainGated (f : Nat) : Bool := decide (f = 2) || decide (f = 4) || decide (f = 8)

/-- The format a forward operand is read in, in the codes of R61. R98 gives fwd_fmt the codes 0x0, 0x1 and 0x3, and nothing says
what another code reads: one of the four formats, and which is free (DESIGN CHOICE, assumption log 144). -/
def fwdFormat (b : Bytes) : Nat := if dbFmt b ≤ 1 || dbFmt b = 3 then dbFmt b else Config.fwdFormat (dbFmt b) % 4
/-- Bytes of a forward operand's element. -/
def fwdSize (b : Bytes) : Nat := outSize (fwdFormat b)

/-- An element of an operand in one of the formats FP32, F8, G8 and B16 (R61), widened to FP32. -/
def widenedAt (mem : List Host.Cell) (tile fmt o : Nat) : Word :=
  if fmt = 0 then tileWord mem tile o
  else if fmt = 1 then toFP32 (ofF8 (tileByte mem tile o))
  else if fmt = 2 then toFP32 (ofG8 (tileByte mem tile o))
  else toFP32 (ofB16 (tileByte mem tile o + 256 * tileByte mem tile (o + 1)))

/-- A forward operand widened: row r, column j of width w at an address. -/
def fwdAt (mem : List Host.Cell) (tile : Nat) (b : Bytes) (a w r j : Nat) : Word :=
  widenedAt mem tile (fwdFormat b) (offsetOf a + (r * w + j) * fwdSize b)

/-- The larger (or smaller) of two values. Of two that the spec does not order, a NaN among them or zeros of two signs, either
may be given, and which is free (R55, assumption log 19); a NaN given is the emitted one (R60, R62). -/
def ewExtremum (smaller : Bool) (a b : Word) : Word :=
  let first := if flt a b then smaller else if flt b a then !smaller else Config.extremum smaller a b
  let r := if first then a else b
  if isNaN r then nan32 else r

/-- What a derivative gives for one value: to dst, to dst2, and its term of the rowsum (R99). -/
def drainValue (f : Nat) (d a b w : Word) : Word × Word × Word :=
  let dst :=
    if f = 1 then fmul (fmul d b) (dsiluFP a)
    else if f = 2 then fmul (fmul (fmul w d) b) (dsiluFP a)
    else if f = 3 then fmul (fmul d b) (dgeluFP a)
    else if f = 4 then fmul (fmul (fmul w d) b) (dgeluFP a)
    else if f = 5 then fmul d (dsiluFP a)
    else if f = 6 then fmul d (dgeluFP a)
    else if f = 7 then fmul (fmul d 0x40000000#32) (ewExtremum false a 0#32)
    else if f = 8 then fmul w d
    else d
  let dst2 :=
    if f = 1 then fmul d (siluFP a) else if f = 2 then fmul (fmul w d) (siluFP a)
    else if f = 3 then fmul d (geluFP a) else if f = 4 then fmul (fmul w d) (geluFP a) else 0#32
  let term :=
    if f = 2 then fmul (fmul d (siluFP a)) b else if f = 4 then fmul (fmul d (geluFP a)) b
    else if f = 8 then fmul d a else 0#32
  (dst, dst2, term)

/-! ## Conversion on output (R65, R69 to R73) -/

/-- scale_shift of a rounding state block. -/
def rbShift (b : Bytes) : Int := s8 (bits (field b 24 8) 39 32)
/-- row_stride of a rounding state block. -/
def rbStride (b : Bytes) : Nat := bits (field b 24 8) 63 40
/-- index_base of a rounding state block. -/
def rbBase (b : Bytes) : Nat := bits (field b 24 8) 31 0

/-- An output value: its bytes, its statistics, and whether an F8 conversion saturated. -/
structure OutValue where
  bytes : Bytes
  stat : LayerStat
  sat8 : Bool
  deriving DecidableEq, Repr

/-- One value converted to an output format with its element index. -/
def convertOut (fmt : Nat) (blk : Bytes) (index : Nat) (w : Word) : OutValue :=
  let bad := nonFinite w
  if fmt = 0 then ⟨leBytes 4 w.toNat, ⟨0, 0, false, bad⟩, false⟩
  else if fmt = 3 then ⟨leBytes 2 (toB16 w), ⟨0, 0, false, bad⟩, false⟩
  else if fmt = 1 then let n := toF8 w; ⟨leBytes 1 n.enc, ⟨0, 0, false, bad⟩, n.sat⟩
  else
    let x := fscale w (rbShift blk)
    let n := toG8 x (randomWord ⟨rbKey blk, rbStep blk, rbTail blk⟩ index)
    ⟨leBytes 1 n.enc, ⟨1, if n.sat then 1 else 0, bigFP x, bad || n.bad⟩, false⟩

/-! ## One MATMUL (R35, R41, R42, R99) -/

/-- The value of column j (place c of the output row) of row r after step 5 of R35, adapter masking applied. -/
def drainInput (x : ArrayIn) (l : Loaded) (d : Bytes) (row : List Nat) (r c j : Nat) : Word :=
  let t := columnSum l (aoMovFmt d) row j
  let t := if aoAcc d then fadd t (tileWord x.mem x.tile (offsetOf (aoSrc d) + 4 * (r * (aoCols d).length + c))) else t
  if aoAdapter d && decide (j / aoRank d ≠ tileByte x.mem x.tile (offsetOf (aoTag d) + r)) then 0#32 else t

/-- Element index of row r, column j (R71). -/
def outIndex (x : ArrayIn) (r j : Nat) : Nat := rbBase x.rounding + r * rbStride x.rounding + j

/-- What one output row gives: dst, dst2 in the GLU forms, and in the gated forms its rowsum. -/
structure OutRow where
  dst : List OutValue
  dst2 : List OutValue
  rowsum : List OutValue
  deriving DecidableEq, Repr

/-- One row of a MATMUL. -/
def matmulRow (x : ArrayIn) (l : Loaded) (d : Bytes) (r : Nat) : OutRow :=
  let f := aoDrain d
  let row := movRow x d r
  let cols := aoCols d
  let w := cols.length
  let gate := if drainGated f then tileWord x.mem x.tile (offsetOf (dbGate x.deriv) + 4 * r) else one32
  let vals := cols.zipIdx.map (fun cj =>
    let a := if f = 0 then 0#32 else fwdAt x.mem x.tile x.deriv (dbA x.deriv) w r cj.2
    let b := if drainPair f then fwdAt x.mem x.tile x.deriv (dbB x.deriv) w r cj.2 else 0#32
    (cj.1, drainValue f (drainInput x l d row r cj.2 cj.1) a b gate))
  { dst := vals.map (fun v => convertOut (aoOut d) x.rounding (outIndex x r v.1) v.2.1),
    dst2 := if drainPair f then vals.map (fun v => convertOut (aoOut d) x.rounding (outIndex x r v.1 + 2 ^ 27) v.2.2.1) else [],
    rowsum := if drainGated f then [convertOut 0 x.rounding 0 (pairSum (vals.map (fun v => v.2.2.2)))] else [] }

/-- The slot stride of adapter columns (R42): byte and row slotStride s + j hold column j of slot s. -/
def slotStride (rank : Nat) : Nat := if rank ≤ 16 then 32 else rank

/-- The logical column of an adapter block that place i of a 256-byte row holds, if any (R40, R42). -/
def slotColumn (rank i : Nat) : Option Nat :=
  if i % slotStride rank < rank then some (i / slotStride rank * rank + i % slotStride rank) else none

/-- The 256-byte row of R42 from the logical columns of an adapter block and their bytes; every other byte is zero. -/
def wideRow (rank : Nat) (cols : List (Nat × Bytes)) : Bytes :=
  (List.range 256).map (fun i =>
    match slotColumn rank i with
    | some j => (match cols.find? (fun c => decide (c.1 = j)) with | some c => c.2.getD 0 0 | none => 0)
    | none => 0)

/-- The bytes of an output row. -/
def rowOut (d : Bytes) (o : List OutValue) : Bytes :=
  if aoWide d then wideRow (aoRank d) ((aoCols d).zip (o.map (fun v => v.bytes))) else o.flatMap (fun v => v.bytes)

/-- The rows of a MATMUL. -/
def matmulRows (x : ArrayIn) (l : Loaded) (d : Bytes) : List OutRow := (List.range (aoRows d)).map (matmulRow x l d)

/-- The writes of a MATMUL: tile-local offset and bytes. -/
def matmulWrites (x : ArrayIn) (d : Bytes) (rows : List OutRow) : List (Nat × Bytes) :=
  [(offsetOf (aoDst d), rows.flatMap (fun r => rowOut d r.dst))] ++
  (if drainPair (aoDrain d) then [(offsetOf (dbDst2 x.deriv), rows.flatMap (fun r => r.dst2.flatMap (fun v => v.bytes)))] else []) ++
  (if drainGated (aoDrain d) then [(offsetOf (dbRowsum x.deriv), rows.flatMap (fun r => r.rowsum.flatMap (fun v => v.bytes)))] else [])

/-- All output values of a list of rows: a non-finite one sets its layer's flag (R76, R99). -/
def rowValues (rows : List OutRow) : List OutValue := rows.flatMap (fun r => r.dst ++ r.dst2 ++ r.rowsum)

/-! ## Element-wise operations (R55) -/

/-- The format code an operand of an ELEMENTWISE is read in: a descriptor has no field for it (assumption log 20). -/
def ewFormat (d : Bytes) (second : Bool) : Nat := Config.ewFormat d second % 4

/-- An operand widened to FP32 in a format of R61. -/
def ewRead (mem : List Host.Cell) (tile fmt a i : Nat) : Word :=
  widenedAt mem tile fmt (offsetOf a + i * outSize fmt)

/-- An element-wise function. -/
def ewValue (op : Nat) (a b k : Word) : Word :=
  if op = 1 then fadd a b else if op = 2 then fmul a b else if op = 3 then ffma a k b
  else if op = 4 then ewExtremum false a b else if op = 5 then ewExtremum true a b else toFP32 (ofFP32 a)

/-- One row of an ELEMENTWISE. The constant k of column j is the FP32 word 4 j bytes past aux_addr (PRESUMED: R55 gives the constants
neither a format nor a stride; assumption log 145). The half and the marver bit of mov_addr change nothing (DESIGN CHOICE: R55 gives
them no effect here; assumption log 146). -/
def ewRow (x : ArrayIn) (d : Bytes) (r : Nat) : List OutValue :=
  (List.range 32).map (fun j =>
    let a := ewRead x.mem x.tile (ewFormat d false) (aoMov d) (32 * r + j)
    let b := ewRead x.mem x.tile (ewFormat d true) (aoSrc d) (32 * r + j)
    let k := tileWord x.mem x.tile (offsetOf (aoAux d) + 4 * j)
    convertOut (aoOut d) x.rounding (outIndex x r j) (ewValue (aoEw d) a b k))

/-! ## Undefined operations (R32, R37, R47, R50, R51, R55, R71, R92 to R95, R99, R100) -/

/-- The regions an operation's own address fields locate, and their lengths: what R50 aligns. -/
def aoNamed (x : ArrayIn) (d : Bytes) : List (Nat × Nat) :=
  let n := aoRows d
  if aoOp d = 1 then
    let w := (aoCols d).length
    let f := aoDrain d
    [(offsetOf (aoStat d), if viaMarver (aoStat d) then 32 else if aoStatFmt d = 1 then 8704 else 8192),
     (offsetOf (aoMov d), if viaMarver (aoMov d) then 32 else 256 * n)] ++
      (if aoAcc d then [(offsetOf (aoSrc d), 4 * w * n)] else []) ++
      (if aoAdapter d then [(offsetOf (aoTag d), n)] else []) ++
      (if f = 0 then [] else [(offsetOf (dbA x.deriv), w * n * fwdSize x.deriv)]) ++
      (if drainPair f then [(offsetOf (dbB x.deriv), w * n * fwdSize x.deriv)] else []) ++
      (if drainGated f then [(offsetOf (dbGate x.deriv), 4 * n)] else [])
  else
    [(offsetOf (aoMov d), 32 * n * outSize (ewFormat d false))] ++
      (if aoEw d = 0 then [] else [(offsetOf (aoSrc d), 32 * n * outSize (ewFormat d true))]) ++
      (if aoEw d = 3 then [(offsetOf (aoAux d), 128)] else [])

/-- The regions an operation reads: those it names, and the sources of its marver descriptors (R97). -/
def aoInputs (x : ArrayIn) (d : Bytes) : List (Nat × Nat) :=
  let sources (a : Nat) : List (Nat × Nat) :=
    if decide (aoOp d = 1) && viaMarver a then mdSources (marverAt x.mem x.tile a) (aoRows d) else []
  aoNamed x d ++ sources (aoStat d) ++ sources (aoMov d)

/-- The regions an operation writes. -/
def aoOutputs (x : ArrayIn) (d : Bytes) : List (Nat × Nat) :=
  let n := aoRows d
  if aoOp d = 1 then
    [(offsetOf (aoDst d), n * aoRowBytes d)] ++
      (if drainPair (aoDrain d) then [(offsetOf (dbDst2 x.deriv), n * aoRowBytes d)] else []) ++
      (if drainGated (aoDrain d) then [(offsetOf (dbRowsum x.deriv), 4 * n)] else [])
  else [(offsetOf (aoDst d), n * 32 * outSize (aoOut d))]

/-- Whether every region lies in the tile, at a multiple of 64 (R50). -/
def regionsOk (l : List (Nat × Nat)) : Bool := l.all (fun r => decide (r.1 % 64 = 0) && decide (r.1 + r.2 ≤ 0x800000))

/-- Whether a write region meets an input (R47). -/
def regionsMeet (ins outs : List (Nat × Nat)) : Bool := outs.any (fun o => ins.any (fun i => overlaps o.1 o.2 i.1 i.2))

/-- Whether the element indices of a G8 output, the last of its columns `top`, stay below 2^32 (R71). -/
def indexOk (x : ArrayIn) (d : Bytes) (top : Nat) : Bool :=
  decide (aoOut d ≠ 2) ||
  decide (outIndex x (aoRows d - 1) top + (if drainPair (aoDrain d) then 2 ^ 27 else 0) < 2 ^ 32)

/-- Whether the marver's rules hold for an operation (R93, R95). -/
def marverOk (x : ArrayIn) (d : Bytes) : Bool :=
  let sm := marverAt x.mem x.tile (aoStat d)
  let mm := marverAt x.mem x.tile (aoMov d)
  (!viaMarver (aoStat d) || mdStatOk sm (aoStatFmt d)) &&
  (!viaMarver (aoMov d) || mdMovOk mm (if aoMovFmt d = 1 then 2 else 0) (aoRows d)) &&
  !(viaMarver (aoStat d) && decide (mdMode sm = 1) && viaMarver (aoMov d) && decide (mdMode mm = 2))

/-- The loaded block an operation with reuse names (R37). -/
def loadedFor (loaded : List Loaded) (d : Bytes) : Option Loaded :=
  loaded.find? (fun l => decide (addrKey l.address = addrKey (aoStat d)) && decide (l.fmt = aoStatFmt d) && decide (l.half = aoHalf d))

/-- Whether a descriptor of any op holds a reserved code in stat_fmt, mov_fmt, half or out_fmt (R51). -/
def reservedCodes (d : Bytes) : Bool := aoStatFmt d = 3 || 2 ≤ aoMovFmt d || aoHalf d = 3 || 4 ≤ aoOut d

/-- What makes a MATMUL undefined, with the block loaded now: the first rule it breaks. -/
def matmulFault (x : ArrayIn) (loaded : List Loaded) (d : Bytes) : Option Fault :=
  if reservedCodes d then some .reservedCode
  else if aoAdapter d && aoRank d = 64 && aoStatFmt d ≠ 1 then some .reservedCode
  else if aoStatFmt d = 2 && aoMovFmt d = 1 then some .operandPair
  else if 9 ≤ aoDrain d then some .reservedDrainFn
  else if aoDrain d ≠ 0 && (aoHalf d ≠ 0 || aoAdapter d || (aoOut d ≠ 0 && aoOut d ≠ 2)) then some .drainFnForm
  else if !marverOk x d then some .marverDescriptor
  else if aoReuse d && (loadedFor loaded d).isNone then some .reuseUnloaded
  else if !regionsOk (aoNamed x d ++ aoOutputs x d) then some .tileOffset
  else if regionsMeet (aoInputs x d) (aoOutputs x d) then some .overlap
  else if !indexOk x d ((aoCols d).foldl max 0) then some .elementIndex
  else none

/-- What makes an ELEMENTWISE undefined. -/
def ewFault (x : ArrayIn) (d : Bytes) : Option Fault :=
  if reservedCodes d then some .reservedCode
  else if 6 ≤ aoEw d then some .reservedEwOp
  else if !regionsOk (aoNamed x d ++ aoOutputs x d) then some .tileOffset
  else if regionsMeet (aoInputs x d) (aoOutputs x d) then some .overlap
  else if !indexOk x d 31 then some .elementIndex
  else none

/-! ## Pairing (R44) -/

/-- Whether the fields of two adjacent operations let them run side by side (R44). -/
def pairable (a b : QueueOp) : Bool :=
  let d := a.desc
  let e := b.desc
  decide (aoOp d = 1) && decide (aoOp e = 1) && decide (aoHalf d + aoHalf e = 3) && decide (aoHalf d ≠ 0) && decide (aoHalf e ≠ 0) &&
  decide (a.ctx = b.ctx) && decide (addrKey (aoMov d) = addrKey (aoMov e)) && decide (aoRows d = aoRows e) && decide (aoStatFmt d = aoStatFmt e) &&
  decide (aoMovFmt d = aoMovFmt e) && !a.retried && !b.retried

/-- Whether two adjacent operations run side by side now: a second that reads or writes what the first writes waits for it, so that
the pair changes no result of either (R44, R53, R58). -/
def pairsNow (x : ArrayIn) (a b : QueueOp) : Bool :=
  pairable a b && !regionsMeet (aoInputs x b.desc ++ aoOutputs x b.desc) (aoOutputs x a.desc) &&
  !regionsMeet (aoInputs x a.desc) (aoOutputs x b.desc)

end Sys2Proof.Machine
end

