-- ==== Sys2Proof/Machine/Resets.lean ====
section
/-! DEFINITION. The resets of the whole module: the closing of the bypass, the failed state, a warm reset and the loss of power
(R259, R369, R425, R450 to R454, R461). -/

namespace Sys2Proof.Machine

/-- The bypass begins to close for a reason other than RING_LEAVE, and a fault record says so; a closed one stays closed (R259, R272,
R408). -/
def State.closeBypass (s : State) (outcome : Nat) : State :=
  if s.board.bypassOpen && s.board.bypassMoving = some false then s
  else if s.board.bypassOpen || s.board.bypassMoving = some true then
    (s.modBoard (fun b => { b with bypassMoving := some false })).record (blankRecord fkBypassFaultClose outcome)
  else s

/-- Every domain but AON stops: what they held is gone, derived keys with it (R425, R451, R454, R461). What is fused, in flash, on
the board or in the AON domain stays, and the counters with it (assumption log 29). -/
def State.stopAll (s : State) : State :=
  { State.reset with
    pending := s.pending, out := s.out, freeCount := s.freeCount, fuses := s.fuses, flash := s.flash, board := s.board,
    power := { s.power with
      ready := false, waking := false, pacing := 0, thermalDue := [], quads := [], stepOneDone := false,
      resetAfter := none },
    profile := s.profile, profileNo := s.profileNo, selected := s.selected, drbgRequests := s.drbgRequests,
    drbgSeedAt := s.drbgSeedAt, counters := s.counters, stalls := s.stalls, nextId := s.nextId, spares := s.spares,
    hbmRetired := s.hbmRetired }

/-- The module enters the failed state (R454). -/
def State.enterFailed (s : State) : State :=
  let s := (s.closeBypass 4).stopAll
  (s.modBoard (fun b => { b with nfaultLow := true, pgood := false })).modPower (fun p => { p with mode := .failed })

/-- A warm reset begins (R451). -/
def State.warmReset (s : State) (byPin : Bool) : State :=
  let s := (s.closeBypass 3).stopAll
  (s.modBoard (fun b => { b with nfaultLow := false, pgood := false })).modPower (fun p => { p with mode := .warmReset byPin })

/-- Input power is lost (R461): the bypass closes, and only what is fused, in flash or on the board is left. What was lost in
operation is recorded at the next start-up (R408), and the selected profile is forgotten (R452). -/
def State.loseInput (s : State) : State :=
  let ran := match s.power.mode with | .active => true | .quiet => true | .dormant => true | _ => false
  let s := (s.closeBypass 3).stopAll
  let s : State :=
    { s with power := { Power.reset with mode := .unpowered }, selected := none, counters := [], stalls := [], spares := [],
             hbmRetired := [] }
  (s.modFlash (fun f => { f with powerLost := f.powerLost || ran })).modBoard (fun b => { b with nfaultLow := false, pgood := false, frIndex := 0 })

/-- Whether the reply of a SELECT_PROFILE still waits on a session. -/
def State.profileReplyWaits (s : State) (n : Nat) : Bool :=
  match s.sessions.find n with
  | some ss => ss.egress.any (fun g => match g with | .reply p => decide (p.opcode = 0x8000 + opSelectProfile) | .event _ => false)
  | none => false

/-- The warm reset that follows the reply of a SELECT_PROFILE with RESET, once that has left (R369, R451). -/
def State.resetIfDue (s : State) : State :=
  match s.power.resetAfter with
  | some n => if s.profileReplyWaits n then s else s.warmReset false
  | none => s

/-- Go on, and reset where it is due. -/
def thenReset (r : Res) : Res := r.bind (fun s => .next s.resetIfDue)

end Sys2Proof.Machine
end

