-- ==== Sys2Proof/Machine/RingOps.lean ====
section
/-! DEFINITION. The cane ring below its messages: directions, credits, the escape buffer, the order of sending,
replay, rekeying and the acceptance of frames (R222, R242 to R249, R264, R268 to R271, R285). -/

namespace Sys2Proof.Machine

/-- The west ring port. -/
def west : Nat := 2
/-- The east ring port. -/
def east : Nat := 3
/-- The other ring port. -/
def otherPort (p : Nat) : Nat := if p = west then east else west

/-- The ring size of the published roll call; a module alone has 1 (R255). -/
def State.ringSize (s : State) : Nat := match s.ring.table with | some r => max r.ringSize 1 | none => 1

/-- The roll-call entry of a position. -/
def State.entryAt (s : State) (p : Nat) : Option RollEntry := match s.ring.table with | some r => r.entries[p]? | none => none

/-- Whether a position is VACANT or unknown (R242, R255). -/
def State.vacantPos (s : State) (p : Nat) : Bool :=
  match s.entryAt p with | some e => decide (e.state = 0) | none => decide (p ≠ s.pos)

/-- Whether this module originates frames now: it is a member, or leaves and still serves bundles (R265). -/
def State.onRing (s : State) : Bool :=
  match s.ring.st with
  | .member => true
  | .leaving => true
  | .opening _ => s.board.bypassOpen
  | _ => false

/-- The lane rate code of an entry whose link is not up: the spec gives no code for one (DESIGN CHOICE, assumption log 27). -/
def noRate : Nat := 0xFF

/-- The lane rate code of a ring port in this member's entry (R256). -/
def State.rateCode (s : State) (p : Nat) : Nat :=
  match (s.link p).st with | .up => (s.link p).rate | .held => (s.link p).rate | _ => noRate

/-- Whether the link of a position on a side is known to be down: its own from its state, another's from the roll call. -/
def State.linkGone (s : State) (x p : Nat) : Bool :=
  if x = s.pos then decide ((s.link p).st = .down)
  else match s.entryAt x with
    | some e => decide (e.state ≠ 0) && decide ((if p = west then e.westRate else e.eastRate) = noRate)
    | none => false

/-- The positions a frame passes from here, `n` steps out of a port: this member first. -/
def State.walk (s : State) (p n : Nat) : List Nat :=
  let z := s.ringSize
  (List.range n).map (fun i => if p = east then (s.pos + i) % z else (s.pos + i * (z - 1)) % z)

/-- Whether the way to a position out of a port crosses a break (R264). -/
def State.crosses (s : State) (p dst : Nat) : Bool :=
  let z := s.ringSize
  let n := if p = east then (dst + z - s.pos % z) % z else (s.pos + z - dst % z) % z
  (s.walk p n).any (fun x => s.linkGone x p) ||
    ((s.walk p (n + 1)).drop 1).any (fun x => s.linkGone x (otherPort p))

/-- The port a frame for a position first takes (R222): the shorter way, ties by the parity of the source; on a chain the way
that does not cross the break (R264). -/
def State.portTo (s : State) (dst : Nat) : Nat :=
  let n := s.ringSize
  let d := (dst + n - s.pos % n) % n
  let p := if 2 * d < n then east else if n < 2 * d then west else if s.pos % 2 = 0 then east else west
  if s.crosses p dst && !s.crosses (otherPort p) dst then otherPort p else p

/-- Whether the ring is known to be broken somewhere (R264). -/
def State.chain (s : State) : Bool := (List.range s.ringSize).any (fun x => s.linkGone x west || s.linkGone x east)

/-- The positions from one to another in the direction of travel out of a port (R247). -/
def State.distance (s : State) (out src dst : Nat) : Nat :=
  let n := s.ringSize
  if out = east then (dst + n - src % n) % n else (src + n - dst % n) % n

/-- Credits a frame draws (R246). -/
def frameCredits (length : Nat) : Nat := (length + 64 + 255) / 256

/-- Whether a message type draws no credit (R246). -/
def freeType (m : Nat) : Bool := decide (m = 6) || decide (m = 7) || decide (m = 8)

/-- Payload bytes of a REDUCE or ANNOUNCE frame. -/
def msgLength (t : Nat) : Nat := Config.messageBytes t % 4033

/-- Whether a message type is reserved (R241). -/
def reservedType (m : Nat) : Bool := decide (m = 0) || decide (9 ≤ m)

/-- The position of the member across a link. -/
def partnerPos (l : Link) : Nat := match l.partner with | some q => q.position | none => 31

/-- The bytes a link's replay buffer holds (R248). -/
def replayBytes (l : Link) : Nat := (l.replay.map (fun f => f.length + 64)).sum

/-- The control block this member sends on a link (R241). -/
def State.controlBlock (s : State) (l : Link) : Control :=
  { localFreed := l.localFreed, transitFreed := l.transitFreed, escapeGen := l.escapeGen, ackSeq := l.ackSeq,
    rekeyReq := l.rekeyReq, replayReq := l.replayReq, senderPos := s.ring.position.getD 31, eqReq := l.eqReq }

/-- Whether this member has the lower serial of a link. -/
def State.lowerSerial (s : State) (l : Link) : Bool :=
  match l.partner with | some q => decide (s.fuses.serial < q.serial) | none => false

/-- What the next frame on a link is encrypted under (R268, R269, R423); none on a link with no partner, which is not up. -/
def State.linkSeal (s : State) (p : Nat) (l : Link) : Option LinkSeal :=
  l.partner.map (fun q =>
    let low := s.lowerSerial l
    { lower := if low then s.fuses.serial else q.serial, higher := if low then q.serial else s.fuses.serial,
      port := if low then p else q.port, epoch := l.epoch, fromLower := low, frameNo := l.txFrame })

/-- A frame leaves on a link: numbered, its control block filled, encrypted, and kept for replay as it left (R22, R248, R268). -/
def State.transmit (s : State) (p : Nat) (f : Frame) : State :=
  let l := s.link p
  let g := { f with
    sealed := s.linkSeal p l, linkSeq := l.txFrame % 2 ^ 24, keyPhase := l.phase, control := s.controlBlock l }
  let s := s.modLink p (fun l =>
    { l with txFrame := l.txFrame + 1, replay := l.replay ++ [g], replayReq := false, rekeyReq := false, eqReq := 0 })
  s.emit (.frame p g)

/-- Send a frame now if the link is up, the replay buffer has room and the credits, or its escape slice at the receiver,
are there (R246 to R248). -/
def State.trySend (s : State) (p : Nat) (f : Frame) : Option State :=
  let l := s.link p
  let c := frameCredits f.length
  if l.st ≠ .up || decide (262144 < replayBytes l + f.length + 64) then none
  else if freeType f.msgType then some (s.transmit p f)
  else if f.bcast || decide (partnerPos l = f.dst) then
    if c ≤ l.localHeld then some ((s.modLink p (fun l => { l with localHeld := l.localHeld - c })).transmit p f) else none
  else if c ≤ l.transitHeld then
    some ((s.modLink p (fun l => { l with transitHeld := l.transitHeld - c })).transmit p f)
  else
    let k := s.distance p (partnerPos l) f.dst
    if l.escapeSeen.testBit k = l.escapeSent.testBit k then
      some ((s.modLink p (fun l => { l with escapeSent := l.escapeSent ^^^ 2 ^ k })).transmit p f)
    else none

/-! ## What waits to be sent (R247, R285) -/

/-- A passing frame has left the buffers of the port it came in by: its credits are freed, or its slice (R246, R247). -/
def State.freePassing (s : State) (q : Nat) (x : Passing) : State :=
  s.modLink q (fun l =>
    { l with
      passing := l.passing.erase x,
      escapeGen := match x.slice with | some k => l.escapeGen ^^^ 2 ^ k | none => l.escapeGen,
      transitFreed := match x.slice with
        | some _ => l.transitFreed
        | none => (l.transitFreed + frameCredits x.frame.length) % 2 ^ 32 })

/-- Passing frames that came in by port `q` go out by port `p`, those of one class in arrival order. -/
def State.pumpPassing (p q : Nat) : List Passing → List Nat → State → State
  | [], _, s => s
  | x :: xs, blocked, s =>
    let k := s.distance (otherPort q) s.pos x.frame.dst
    if blocked.contains k then State.pumpPassing p q xs blocked s
    else match s.trySend p { x.frame with hops := x.frame.hops + 1 } with
      | some s' => State.pumpPassing p q xs blocked (s'.freePassing q x)
      | none => State.pumpPassing p q xs (k :: blocked) s

/-- The ring weight of a context (R285). -/
def State.ringWeight (s : State) (ctx : Nat) : Nat := match s.ctx ctx with | some c => c.settings.ringWeight | none => 16

/-- The first of a list of numbers above a bound, else the first of all. -/
def nextAbove (l : List Nat) (a : Nat) : Nat := (l.find? (fun c => decide (a < c))).getD (l.headD 0)

/-- The next frame of the deficit round robin over contexts, with the deficits and the place it leaves (R285). -/
def State.drrPick (s : State) (l : Link) (own : List Frame) : Option (Frame × Tab Nat × Nat) :=
  let ctxs := sortBy (fun a b => decide (a ≤ b)) (own.map (fun f => f.ctx)).dedup
  let headOf (c : Nat) : Option Frame := own.find? (fun f => decide (f.ctx = c))
  match headOf l.drrAt with
  | some f =>
    if f.length + 64 ≤ l.deficits.getOr l.drrAt 0 then
      some (f, l.deficits.put l.drrAt (l.deficits.getOr l.drrAt 0 - (f.length + 64)), l.drrAt)
    else
      let c := nextAbove ctxs l.drrAt
      match headOf c with
      | some g => some (g, l.deficits.put c (l.deficits.getOr c 0 + s.ringWeight c * 4096 - (g.length + 64)), c)
      | none => none
  | none =>
    let c := nextAbove ctxs l.drrAt
    match headOf c with
    | some g => some (g, (l.deficits.del l.drrAt).put c (l.deficits.getOr c 0 + s.ringWeight c * 4096 - (g.length + 64)), c)
    | none => none

/-- The first frame of a list that can be sent, and what follows. -/
def State.sendFirst (s : State) (p : Nat) : List Frame → Option State
  | [] => none
  | f :: fs =>
    match s.trySend p f with
    | some s' => some (s'.modLink p (fun l => { l with sendQueue := l.sendQueue.erase f }))
    | none => s.sendFirst p fs

/-- One frame of the queue of a link: what passes through, then what carries no context, then the contexts (R285). -/
def State.pumpOne (s : State) (p : Nat) : Option State :=
  let l := s.link p
  let through := l.sendQueue.filter (fun f => decide (f.src ≠ s.pos))
  let plain := l.sendQueue.filter (fun f => decide (f.src = s.pos) && (freeType f.msgType || decide (f.msgType = 4)))
  let own := l.sendQueue.filter (fun f => decide (f.src = s.pos) && !(freeType f.msgType || decide (f.msgType = 4)))
  match s.sendFirst p (through ++ plain) with
  | some s' => some s'
  | none =>
    match s.drrPick l own with
    | some (f, d, c) =>
      match s.sendFirst p [f] with
      | some s' => some (s'.modLink p (fun l => { l with deficits := d, drrAt := c }))
      | none => none
    | none => none

/-- The queue of a link is sent as far as it goes. -/
def State.pumpQueue (p : Nat) : Nat → State → State
  | 0, s => s
  | n + 1, s => match s.pumpOne p with | some s' => State.pumpQueue p n s' | none => s

/-- Everything that waits to leave by a port. -/
def State.pump (s : State) (p : Nat) : State :=
  let q := otherPort p
  let s := State.pumpPassing p q (s.link q).passing [] s
  let s := if (s.link q).st = .down then State.pumpPassing p p (s.link p).passing [] s else s
  State.pumpQueue p (s.link p).sendQueue.length s

/-- A frame joins a link's queue. -/
def State.enqueue (s : State) (p : Nat) (f : Frame) : State :=
  (s.modLink p (fun l => { l with sendQueue := l.sendQueue ++ [f] })).pump p

/-! ## Originating (R241, R244, R245) -/

/-- A control block not yet filled. -/
def Control.blank : Control := ⟨0, 0, 0, 0, false, false, 31, 0⟩

/-- A frame as its source makes it. -/
def State.newFrame (s : State) (msgType : Nat) (bcast : Bool) (dst ctx tag length e2e : Nat) (payload : Payload) : Frame :=
  { msgType := msgType, bcast := bcast, keyPhase := false, dst := dst, src := s.pos, hops := 0, length := length, ctx := ctx,
    tag := tag, linkSeq := 0, e2eSeq := e2e, control := Control.blank, payload := payload, fecOk := true, authentic := true }

/-- The key under which the sequence of broadcasts is kept: they run as a pair of their own (assumption log 22). -/
def bcastPair : Nat := 32

/-- The next e2e_seq to a destination (R244). -/
def State.nextE2e (s : State) (pair : Nat) : Nat × State :=
  let n := s.ring.e2eTx.getOr pair 0
  (n, s.modRing (fun r => { r with e2eTx := r.e2eTx.put pair ((n + 1) % 2 ^ 24) }))

/-- Send a frame with a tag to a member (R222, R241); a frame to the module itself does not travel. -/
def State.ringSendTag (s : State) (dst msgType ctx tag length : Nat) (payload : Payload) : State :=
  if !s.onRing || dst = s.pos then s
  else
    let (n, s) := s.nextE2e dst
    s.enqueue (s.portTo dst) (s.newFrame msgType false dst ctx tag length n payload)

/-- Send a frame to a member. -/
def State.ringSend (s : State) (dst msgType ctx length : Nat) (payload : Payload) : State :=
  s.ringSendTag dst msgType ctx 0 length payload

/-- A frame joins the queue of a link that is not down. -/
def State.enqueueLive (s : State) (p : Nat) (f : Frame) : State := if (s.link p).st = .down then s else s.enqueue p f

/-- Broadcast a frame: it leaves eastbound (R245); on a chain it leaves both ways (R264). -/
def State.ringBroadcast (s : State) (msgType ctx length : Nat) (payload : Payload) : State :=
  if !s.onRing || s.ringSize ≤ 1 then s
  else
    let (n, s) := s.nextE2e bcastPair
    let f := s.newFrame msgType true 0 ctx 0 length n payload
    if s.chain then (s.enqueueLive east f).enqueueLive west f else s.enqueue east f

/-- The code of a context state (R275). -/
def CtxState.code : CtxState → Nat
  | .free => 0
  | .creating => 1
  | .active => 2
  | .suspended => 3
  | .resetting => 4
  | .destroying => 5

/-- The states a context is announced in to the other members, by their codes (R275). -/
def ctxStateOf (code : Nat) : Option CtxState :=
  if code = 2 then some .active else if code = 3 then some .suspended else if code = 4 then some .resetting
  else if code = 5 then some .destroying else none

/-- A context takes a state at its home, and every member hears of it (R273, R291, R292, R294). -/
def State.enterState (s : State) (n : Nat) (st : CtxState) : State :=
  match s.ctx n with
  | some c =>
    let s := s.setCtx n { c with st := st }
    if c.home then s.ringBroadcast 5 n (msgLength 5) (.announce (.state st.code)) else s
  | none => s

/-- The other members of the ring. -/
def State.otherMembers (s : State) : List Nat :=
  (List.range 32).filter (fun p => decide (p ≠ s.pos) && (match s.entryAt p with | some e => decide (e.state = 1) | none => false))

/-- Send a frame to the neighbour on a link (R241). -/
def State.linkSend (s : State) (p msgType length : Nat) (payload : Payload) : State :=
  s.enqueue p (s.newFrame msgType false (partnerPos (s.link p)) 0 0 length 0 payload)

/-! ## Rekeying (R268 to R270) -/

/-- The next link epoch this member makes on a port (R269). -/
def State.nextEpoch (s : State) (l : Link) : Nat := s.flash.bootCount % 65536 * 65536 + (l.keys + 1) % 65536

/-- Send a REKEY frame under the current key, then send under the other phase with the new epoch. -/
def State.switchKey (s : State) (p epoch : Nat) : State :=
  let s := s.linkSend p 7 4 (.rekey epoch)
  s.modLink p (fun l => { l with oldEpoch := some l.epoch, epoch := epoch, phase := !l.phase, rekey := .sent })

/-- The lower-serial member starts a rekey. -/
def State.startRekey (s : State) (p : Nat) : State :=
  let l := s.link p
  if l.rekey = .idle && l.st = .up then
    let e := s.nextEpoch l
    (s.modLink p (fun l => { l with keys := l.keys + 1 })).switchKey p e
  else s

/-! ## Receiving (R242, R244, R246, R248, R271) -/

/-- The hold of a link begins: queued frames, credits and replay buffer stay (R249). -/
def State.holdLink (s : State) (p : Nat) : State :=
  s.modLink p (fun l => if l.st = .up then { l with st := .held, badWindows := 0, tagFails := 0 } else l)

/-- One step of a transmitter tap, as eq_req asks (R250). -/
def stepTaps (taps : List Int) (req : Nat) : List Int :=
  match taps with
  | [a, b, c] =>
    if req = 1 then [a + 1, b, c] else if req = 2 then [a - 1, b, c] else if req = 3 then [a, b, c + 1]
    else if req = 4 then [a, b, c - 1] else [a, b, c]
  | l => l

/-- Every frame not acknowledged is sent again, byte for byte (R248). -/
def State.resend (s : State) (p : Nat) : State := eachDo (s.link p).replay (fun g s => s.emit (.frame p g)) s

/-- The control block of an accepted frame: credits, slices, acknowledgements and requests (R246 to R248, R250, R270). -/
def State.takeControl (s : State) (p : Nat) (c : Control) : State :=
  let s := s.modLink p (fun l =>
    { l with
      localHeld := l.localHeld + (c.localFreed + 2 ^ 32 - l.localSeen) % 2 ^ 32, localSeen := c.localFreed,
      transitHeld := l.transitHeld + (c.transitFreed + 2 ^ 32 - l.transitSeen) % 2 ^ 32, transitSeen := c.transitFreed,
      escapeSeen := c.escapeGen, replay := l.replay.filter (fun g => newer 24 g.linkSeq c.ackSeq),
      taps := stepTaps l.taps c.eqReq,
      partner := if c.senderPos < 31 then l.partner.map (fun q => { q with position := c.senderPos }) else l.partner })
  let s := if c.replayReq then s.resend p else s
  let s := if c.rekeyReq && s.lowerSerial (s.link p) then s.startRekey p else s
  s.pump p

/-- A frame arrives on a link: accepted when it passes FEC and its tag and is the next in order; else dropped, with a
replay asked for (R248). Sixteen tag failures in a row hold the link (R271). -/
def State.accept (s : State) (p : Nat) (f : Frame) : Bool × State :=
  let l := s.link p
  if l.st ≠ .up then (false, s)
  else if !f.fecOk then (false, s.modLink p (fun l => { l with replayReq := true }))
  else if !f.authentic || (l.oldEpoch.isNone && f.keyPhase != l.phase) then
    let s := s.countError cCaneTagFailures 1
    let s := s.modLink p (fun l => { l with tagFails := l.tagFails + 1, replayReq := true })
    (false, if l.tagFails + 1 = 16 then s.holdLink p else s)
  else if f.linkSeq % 2 ^ 24 ≠ l.rxFrame % 2 ^ 24 then
    (false, s.modLink p (fun l => { l with tagFails := 0, replayReq := true }))
  else
    let newKey := decide (l.rekey = .sent) && f.keyPhase == l.phase
    let s := s.modLink p (fun l =>
      { l with
        rxFrame := l.rxFrame + 1, ackSeq := f.linkSeq % 2 ^ 24, tagFails := 0,
        oldEpoch := if newKey then none else l.oldEpoch, rekey := if newKey then .idle else l.rekey })
    (true, s.takeControl p f.control)

/-- The credits of a frame consumed here are freed (R246). -/
def State.freeLocal (s : State) (p : Nat) (f : Frame) : State :=
  if freeType f.msgType then s
  else s.modLink p (fun l => { l with localFreed := (l.localFreed + frameCredits f.length) % 2 ^ 32 })

/-- The pair a received frame belongs to. -/
def rxPair (f : Frame) : Nat := if f.bcast then bcastPair + f.src else f.src

/-- Whether a frame that arrived is delivered here: its source is listed and its e2e_seq is newer (R244). -/
def State.fresh? (s : State) (f : Frame) : Bool :=
  freeType f.msgType ||
  (!s.vacantPos f.src && (match s.ring.e2eRx.find (rxPair f) with | some n => newer 24 f.e2eSeq n | none => true))

/-- A delivered frame's number is noted. -/
def State.noteE2e (s : State) (f : Frame) : State :=
  if freeType f.msgType then s else s.modRing (fun r => { r with e2eRx := r.e2eRx.put (rxPair f) f.e2eSeq })

/-- A frame dropped and counted (R241, R242). -/
def State.dropFrame (s : State) (p : Nat) (f : Frame) : State := (s.freeLocal p f).countError cCaneDropped 1

/-- A broadcast copied here goes on, unless the next member sent it (R245). -/
def State.forwardBcast (s : State) (p : Nat) (f : Frame) : State :=
  let out := otherPort p
  if partnerPos (s.link out) = f.src || f.hops + 1 ≥ s.ringSize then s
  else s.enqueueLive out { f with hops := f.hops + 1 }

/-- Whether the module's consumers sleep (R243, R444). -/
def State.asleep (s : State) : Bool :=
  match s.power.mode with | .quiet => true | .dormant => true | _ => false

/-- Whether a frame is for this member: a broadcast, or one to its position. -/
def State.forMe (s : State) (f : Frame) : Bool := f.bcast || freeType f.msgType || decide (f.dst = s.pos)

/-- Take a frame for this member: accepted on its link, dropped when it comes back to its source or is a second copy, kept
in the local pool while the module sleeps (R242 to R245). Answers whether it is delivered now. -/
def State.take (s : State) (p : Nat) (f : Frame) : Bool × State :=
  let (ok, s) := s.accept p f
  if !ok then (false, s)
  else if !freeType f.msgType && decide (f.src = s.pos) then (false, s.dropFrame p f)
  else if !s.fresh? f then (false, s.freeLocal p f)
  else
    let s := s.noteE2e f
    let s := if f.bcast then s.forwardBcast p f else s
    if s.asleep && !freeType f.msgType && decide (f.msgType ≠ 4) then
      (false, (s.modLink p (fun l => { l with localPool := l.localPool ++ [f] })).wakeTrigger)
    else (true, if f.msgType = 1 then s else s.freeLocal p f)

/-- A module that joins hears a frame on a tap of its closed bypass: its sender is a neighbour, P on the west side and Q on the
east (R258, R262). -/
def State.tap (s : State) (p : Nat) (f : Frame) : State :=
  if s.board.bypassOpen || decide (31 ≤ f.control.senderPos) then s
  else match s.ring.st with
    | .listening | .admitted _ =>
      s.modRing (fun r => if p = west then { r with hearWest := some f.control.senderPos }
                          else { r with hearEast := some f.control.senderPos })
    | _ => s

/-- Whether a port number is a ring port's, with ring roles (R231). -/
def State.ringPort (s : State) (p : Nat) : Bool := s.ringRoles && (decide (p = west) || decide (p = east))

/-- A frame for this member of a message type, handed to `use` when it is delivered. A frame of another kind is not this
step's: nothing changes. -/
def State.arrive (s : State) (msgType p : Nat) (f : Frame) (use : State → Res) : Res :=
  if f.msgType ≠ msgType || !s.ringPort p || !s.forMe f then .next (s.tap p f)
  else
    let s := s.tap p f
    let (ok, s) := s.take p f
    if ok then use s else .next s

/-- Take frames one after another: whether every one is delivered now. -/
def State.takeAll (p : Nat) : List Frame → State → Bool × State
  | [], s => (true, s)
  | f :: fs, s =>
    let (ok, s) := s.take p f
    let (oks, s) := State.takeAll p fs s
    (ok && oks, s)

/-- A base expert's entry with its home as a table gives it; an entry that has changed carries the epoch (R215, R217). The page of its
weights here is the module's own choice, and free. -/
def State.rehome (s : State) (e : Nat) (x : ExpertEntry) (home epoch : Nat) : ExpertEntry :=
  if home = x.home then x
  else
    { x with
      home := home, isLocal := decide (home = s.pos), epoch := epoch,
      weightsPage := if home = s.pos then (Config.freeWord s.freeCount e).toNat else 0 }

/-- Bytes of one routed expert's weights in every layer that has it (R66, R178): a W4 block of 32 is 17 bytes. -/
def expertBytes (b : BaseShape) : Nat :=
  let n := b.moeLayers.length * (3 * b.dModel * b.hidden)
  if b.format = 4 then n / 32 * 17 else n

/-- HBM pages of one routed expert here. -/
def State.expertPages (s : State) : Nat := match s.base.shape with | some b => (expertBytes b + 65535) / 65536 | none => 0

/-- The routed experts a table homes on this member. -/
def State.homedIn (s : State) (t : Tab ExpertEntry) : List Nat := (t.keep (fun _ x => decide (x.kind = 2) && decide (x.home = s.pos))).keys

/-- A new expert table is taken (R217): the experts placed here take HBM beside the base model's. -/
def State.takeExpertTable (s : State) (epoch : Nat) (table : Tab ExpertEntry) : State :=
  let here := ((s.homedIn table).filter (fun e => !(s.homedIn s.ring.experts).contains e)).length * s.expertPages
  { s with
    freeCount := s.freeCount + 1, hbmFree := s.hbmFree - here, base := { s.base with pages := s.base.pages + here },
    ring := { s.ring with experts := table, expertEpoch := epoch, moving := [] } }

end Sys2Proof.Machine
end

