-- ==== Sys2Proof/Machine/Flags.lean ====
section
/-! DEFINITION. The flags of the machine: per-layer statistics and non-finite flags (R73, R76), and the adjustment of
the layer exponents (R74, R75). -/

namespace Sys2Proof.Machine

/-- No conversion, no flag. -/
def zeroStat : LayerStat := ⟨0, 0, false, false⟩

/-- Statistics of one layer combined: counts summed, flags ORed (R73). -/
def addStat (a b : LayerStat) : LayerStat :=
  ⟨a.drained + b.drained, a.sat + b.sat, a.big || b.big, a.nonfinite || b.nonfinite⟩

/-- Statistics of all layers combined; the longer list decides the number of layers. -/
def addStats : List LayerStat → List LayerStat → List LayerStat
  | a :: as, b :: bs => addStat a b :: addStats as bs
  | [], bs => bs
  | as, [] => as

/-- The exponent and quiet count of one layer after a step, and whether the exponent changed (R74). -/
structure Adjust where
  s : Int
  quiet : Nat
  old : Option Int
  deriving DecidableEq, Repr

/-- lower(l) of R74. -/
def lowerExp (s : Int) : Adjust := if -128 < s then ⟨s - 1, 0, some s⟩ else ⟨s, 0, none⟩

/-- raise(l) of R74. -/
def raiseExp (s : Int) : Adjust := if s < 127 then ⟨s + 1, 0, some s⟩ else ⟨s, 0, none⟩

/-- One layer on a commit (R74). With drained = 0 the quiet count stays, as the sentence below the procedure has it, and not 0 as the
procedure's else branch (DESIGN CHOICE, assumption log 161). -/
def adjustCommit (s : Int) (quiet : Nat) (t : LayerStat) : Adjust :=
  if t.drained < t.sat * 1024 then lowerExp s
  else if !t.big && decide (0 < t.drained) then
    if quiet + 1 = 8 then raiseExp s else ⟨s, quiet + 1, none⟩
  else if t.drained = 0 && !t.big then ⟨s, quiet, none⟩
  else ⟨s, 0, none⟩

/-- One layer on a step skipped at its check (R74). -/
def adjustSkip (s : Int) (quiet : Nat) (t : LayerStat) : Adjust := if t.nonfinite then lowerExp s else ⟨s, quiet, none⟩

/-- All layers adjusted alike: `f` on each. -/
def adjustAll (f : Int → Nat → LayerStat → Adjust) : List Int → List Nat → List LayerStat → List Adjust
  | s :: ss, q :: qs, t :: ts => f s q t :: adjustAll f ss qs ts
  | s :: ss, q :: qs, [] => f s q zeroStat :: adjustAll f ss qs []
  | s :: ss, [], _ => ⟨s, 0, none⟩ :: adjustAll f ss [] []
  | [], _, _ => []

/-- The statistics of conversions to G8 (R73): `vals` before conversion, `codes` after. -/
def g8Stat (vals : List Word) (codes : List Narrow) : LayerStat :=
  { drained := codes.length, sat := (codes.filter (fun c => c.sat)).length,
    big := vals.any bigFP,
    nonfinite := codes.any (fun c => c.bad) }

/-- Whether any layer's flag is set. -/
def anyNonfinite (l : List LayerStat) : Bool := l.any (fun t => t.nonfinite)

/-- Mark one layer of a tile's set (R76). -/
def markLayer (t : Tab LayerStat) (layer : Nat) (f : LayerStat → LayerStat) : Tab LayerStat :=
  t.put layer (f (t.getOr layer zeroStat))

end Sys2Proof.Machine
end

