-- ==== Sys2Proof/Machine/Gaffer.lean ====
section
/-! DEFINITION. The gaffer's general checks of a command, in the order of R484, and the taking of a command that
passes them. -/

namespace Sys2Proof

/-- Whether a region begins at a multiple of 65,536; a command that names another is answered NOT_PERMITTED (R323, R324). -/
def Region.aligned (r : Region) : Bool := decide (r.address % 65536 = 0)

end Sys2Proof

namespace Sys2Proof.Machine

/-- What the reference says of an opcode: its class (R316), who may send it and in which layer (R20, R321), whether it
acts on the header context (R307), names a variant, and is taken before READY (R314). -/
structure OpSpec where
  op : Nat
  klass : Nat
  tenant : Bool
  service : Bool
  transport : Bool
  onCtx : Bool
  named : Bool
  early : Bool
  deriving DecidableEq, Repr

/-- A command of both layers. -/
def bothLayers (op klass : Nat) (tenant onCtx : Bool) : OpSpec := ⟨op, klass, tenant, true, true, onCtx, false, false⟩
/-- A service-mode command that names a variant. -/
def serviceOp (op klass : Nat) : OpSpec := ⟨op, klass, true, true, false, true, true, false⟩
/-- A transport-mode command. -/
def transportOp (op klass : Nat) : OpSpec := ⟨op, klass, true, false, true, true, false, false⟩

/-- The opcodes the reference defines (R300, R326 to R375). -/
def opTable : List OpSpec :=
  [ { bothLayers opHello 5 true false with early := true }, { bothLayers opOpenSession 5 true false with early := true },
    { bothLayers opCloseSession 5 true false with early := true }, bothLayers opKeyAdd 3 false false,
    bothLayers opKeyRemove 3 false false,
    bothLayers opContextCreate 3 false true, bothLayers opContextDestroy 1 false true,
    bothLayers opContextReset 1 true true, bothLayers opContextSuspend 2 false true,
    bothLayers opContextResume 3 false true, bothLayers opContextShares 3 false true,
    serviceOp opVariantCreate 3, serviceOp opVariantDestroy 1, serviceOp opVariantImport 3, serviceOp opVariantExport 4,
    serviceOp opEvict 1, serviceOp opExpertAttach 3, serviceOp opExpertDetach 3 ] ++
  [ serviceOp opStep 4, serviceOp opEval 4, serviceOp opSetRule 3, serviceOp opFreeze 3, serviceOp opCheckpoint 4,
    serviceOp opRestore 4, serviceOp opReplay 4, serviceOp opSubmit 4, { serviceOp opCancel 4 with named := false },
    transportOp opMapWindow 3, transportOp opLoadProgram 3, transportOp opRunProgram 4, transportOp opStreamOpen 4,
    transportOp opStreamClose 2, bothLayers opRingJoin 3 false false, bothLayers opRingLeave 2 false false,
    { bothLayers opQuery 4 true false with early := true }, bothLayers opCounters 4 true false,
    bothLayers opPowerStatus 4 false false, bothLayers opSelectProfile 3 false false, bothLayers opFwStage 3 false false,
    bothLayers opFwActivate 3 false false, bothLayers opAttest 4 true false, bothLayers opRetireTile 3 false false,
    { bothLayers opFaultRecordRead 4 false false with early := true }, bothLayers opBaseLoad 3 false false ]

/-- The entry of an opcode; none when it is undefined (R300). -/
def opSpec (op : Nat) : Option OpSpec := opTable.find? (fun k => decide (k.op = op))

/-- An opcode's entry, an undefined one read as open to nobody. -/
def specOf (op : Nat) : OpSpec := (opSpec op).getD ⟨op, 4, false, false, false, false, false, false⟩

/-- Whether a variant ID lies in a context's grant (R176). -/
def State.granted (s : State) (ctx v : Nat) : Bool :=
  match s.ctx ctx with
  | some c => decide (c.settings.variantFirst ≤ v) && decide (v < c.settings.variantFirst + c.settings.variantCount)
  | none => false

/-- What the state of the named context answers (R275, R322, R273, R293). -/
def ctxAnswer (op : Nat) (st : CtxState) : Option Nat :=
  if op = opContextCreate then
    match st with
    | .free => none
    | .destroying => some stBusy
    | _ => some stTableFull
  else
    match st with
    | .free => some stContextGone
    | .creating => some stBusy
    | .active => none
    | .suspended => none
    | .resetting => if op = opContextReset || op = opContextDestroy then none else some stBusy
    | .destroying => some stContextGone

/-- Step 9 of R484: the header context. -/
def ctxCheck (k : OpSpec) (c : Cmd) (s : State) : Option Nat :=
  if !k.onCtx then none
  else if c.ctx = 0xFFFF then some stNotPermitted
  else if 1024 ≤ c.ctx then some stContextGone
  else ctxAnswer k.op (s.ctxState c.ctx)

/-- Step 8 of R484: a tenant's own context and grant (R307). CLOSE_SESSION reads neither. -/
def tenantCheck (k : OpSpec) (c : Cmd) (ss : Session) (s : State) : Option Nat :=
  match ss.role with
  | .operator => none
  | .tenant n =>
    if k.op = opCloseSession then none
    else if c.ctx ≠ n then some stNotPermitted
    else if k.named && !s.granted n c.variant then some stNotPermitted
    else none

/-- A tenant session's role. -/
def Role.isTenant : Role → Bool
  | .operator => false
  | .tenant _ => true

/-- The general checks in the order of R484, steps 5 to 10: the first that fails. An operator's command that names a
variant is held to the grant of its header context after the context's state is known (R185). -/
def generalCheck (k : OpSpec) (c : Cmd) (ss : Session) (s : State) : Option Nat :=
  if !s.power.ready && !k.early then some stBusy
  else if ss.role.isTenant && !k.tenant then some stNotPermitted
  else if (s.transport && !k.transport) || (!s.transport && !k.service) then some stNotPermitted
  else match tenantCheck k c ss s with
    | some st => some st
    | none => match ctxCheck k c s with
      | some st => some st
      | none => if 4096 ≤ ss.awaiting.length then some stBusy else none

/-- The ticket of a command on a session. -/
def ticketOf (c : Cmd) (op n serial : Nat) : Ticket := ⟨n, serial, c.qp, c.seq, op, c.ctx, c.variant⟩

/-- A reply to a queue pair without a session (R303): it leaves at once. -/
def State.replyBare (s : State) (c : Cmd) (op status : Nat) (params : List (Nat × Bytes)) : State :=
  s.emit (.packet (s.replyOf (ticketOf c op 0 0) true status params))

/-- What a refusal of an opcode carries beside its status: every final status of a SUBMIT carries its count (R351;
assumption log 138). -/
def refusalParams (op : Nat) : List (Nat × Bytes) := if op = opSubmit then [p32 0x85 0] else []

/-- A refusal on a session, with no effect (R484). -/
def State.refuse (s : State) (t : Ticket) (status : Nat) : State :=
  s.sendOn t.session (s.replyOf t true status (refusalParams t.opcode))

/-- Whether a session awaits the final reply of a command of this sequence (R309). -/
def Session.awaits (ss : Session) (seq : Nat) : Bool := ss.awaiting.any (fun a => decide (a.1 = seq))

/-- Whether the gaffer can take anything from a queue pair: it is up, and the pair lives. -/
def State.reaches (s : State) (qp : Nat) : Option Qp :=
  if s.gafferUp then (match s.qps.find qp with | some q => if q.st = .error then none else some q | none => none) else none

/-- The gaffer takes a command: the queue pair's state (R303), the sequence (R309), the general checks (R484), and then
the command's own work. A command that cannot reach the gaffer changes nothing (assumption log 14). -/
def gafferWith (k : OpSpec) (c : Cmd) (body : Ticket → Session → State → Res) (s : State) : Res :=
  match s.reaches c.qp with
  | none => .next s
  | some q =>
    match q.st with
    | .session n =>
      match s.sessions.find n with
      | none => .next (s.replyBare c k.op stNoSession [])
      | some ss =>
        let t := ticketOf c k.op n ss.serial
        if ss.awaits c.seq then .fault .duplicateSequence
        else match generalCheck k c ss s with
          | some st => .next (s.refuse t st)
          | none => body t ss (s.modSession n (fun ss => { ss with awaiting := ss.awaiting ++ [(c.seq, k.op)] }))
    | _ => .next (s.replyBare c k.op stNoSession [])

/-- The gaffer takes a command of an opcode. -/
def gaffer (op : Nat) (c : Cmd) (body : Ticket → State → Res) (s : State) : Res :=
  gafferWith (specOf op) c (fun t _ s => body t s) s

/-- The gaffer takes a command that names a variant: an operator's is held to the grant too (R176, R185). -/
def gafferVar (op : Nat) (c : Cmd) (body : Ticket → State → Res) (s : State) : Res :=
  gafferWith (specOf op) c
    (fun t _ s => if s.granted c.ctx c.variant then body t s else .next (s.answerWith t stNotPermitted (refusalParams op))) s

end Sys2Proof.Machine
end

