-- ==== Sys2Proof/Machine/Turns.lean ====
section
/-! DEFINITION. Turns on the tiles: what a context would start next, readers and their holds, and how a context that
becomes ready joins (R131, R133, R134, R191, R204, R229, R281, R387). -/

namespace Sys2Proof.Machine

/-- The tiles of a context's full group (R277). -/
def Settings.group (st : Settings) : List Nat := (List.range st.groupSize).map (st.groupFirst + ·)

/-- Whether a context runs on a reduced group (R387). -/
def Ctx.groupVacant (s : State) (c : Ctx) : Bool := c.settings.group.any s.vacant

/-- The aligned blocks of a group, largest first, lowest first among equals: first tile and size (R387). -/
def alignedBlocks (first size : Nat) : List (Nat × Nat) :=
  (((List.range 9).map (fun j => size / 2 ^ j)).filter (fun b => decide (0 < b))).flatMap
    (fun b => (List.range (size / b)).map (fun i => (first + i * b, b)))

/-- The largest aligned block of a group without a vacant tile, the lowest among equals (R387). -/
def State.reducedBlock (s : State) (first size : Nat) : Option (List Nat) :=
  ((alignedBlocks first size).map (fun x => (List.range x.2).map (x.1 + ·))).find? (fun l => !l.any s.vacant)

/-- The tiles a context runs on (R281, R387): its group, a reduced one, or for a single vacant tile the lowest tile not
vacant outside the expert tile group. -/
def State.runTiles (s : State) (c : Ctx) : List Nat :=
  match s.reducedBlock c.settings.groupFirst c.settings.groupSize with
  | some l => l
  | none => ((List.range 256).filter (fun t => !s.vacant t && !s.expertTile t)).take 1

/-- Whether a context is degraded now. -/
def State.degradedCtx (s : State) (ctx : Nat) : Bool := match s.ctx ctx with | some c => c.groupVacant s | none => false

/-- The success status of work that may have been rerun or degraded (R312, R384, R387). -/
def okStatus (degraded rerun : Bool) : Nat := if degraded then stOkDegraded else if rerun then stOkReplayed else stOk

/-- A status as a context's final reply carries it: on a reduced group OK and OK_REPLAYED become OK_DEGRADED, a failure stays (R387). -/
def State.graded (s : State) (ctx status : Nat) : Nat :=
  if s.degradedCtx ctx && decide (status ≤ stOkReplayed) then stOkDegraded else status

/-! ## Readers (R133, R134) -/

/-- The generation a micro-batch of a step reads. -/
def TStep.genOf (t : TStep) (i : Nat) : Nat := t.generations.getD i 0

/-- A step in progress. -/
def State.findStep (s : State) (v n : Nat) : Option TStep :=
  s.steps.find? (fun t => decide (t.variant = v) && decide (t.number = n))

/-- Whether what a context runs holds a layer of a variant in a generation other than `g` (R133). A micro-batch of a step holds its layers
until the backward pass has come down past them, one of an evaluation to its end (assumption log 18). -/
def State.holdsOld (s : State) (c : Ctx) (v g layer : Nat) : Bool :=
  match c.running with
  | some ⟨.micro w n i, _⟩ =>
    decide (w = v) && (match s.findStep w n with
      | some t => decide (t.genOf i ≠ g) && (match t.backAt with | some l => decide (layer < l) | none => true)
      | none => false)
  | some ⟨.evalMicro e _, _⟩ =>
    (match s.evals.find e with | some e => decide (e.variant = v) && decide (e.generation ≠ g) | none => false)
  | some ⟨.parison p, _⟩ =>
    p.rows.any (fun r => decide (r.generation ≠ g) && decide (r.layer ≤ layer + 1) &&
      (match s.requests.find r.request with | some q => decide (q.variant = v) | none => false))
  | _ => false

/-- Whether any reader holds a layer of a variant in the generation its non-current slot contains (R134): a unit here, or a bundle of
rows that another member's unit sent here (R133). -/
def State.layerHeld (s : State) (v : Nat) (w : Var) (layer : Nat) : Bool :=
  s.ctxs.vals.any (fun c => s.holdsOld c v w.generation layer) ||
  s.bundles.any (fun x => decide (x.b.variant = v) && decide (0x8000 ≤ x.b.expert) && decide (x.b.layer = layer) &&
    decide (x.b.generation ≠ w.generation))

/-- Whether new readers of a variant wait: this holder has voted and has neither the flip nor the abandon (R130), or an owner's copy is
being fetched (R401). -/
def State.readersWait (s : State) (v : Nat) : Bool :=
  s.steps.any (fun t => decide (t.variant = v) && decide (t.phase = .voted)) ||
  (match s.var v with | some w => decide (w.fetching ≠ []) | none => false)

/-- Whether a parison reads a variant whose new readers wait. -/
def State.parisonWaits (s : State) (p : Parison) : Bool :=
  p.rows.any (fun r => match s.requests.find r.request with | some q => s.readersWait q.variant | none => false)

/-! ## What a context would start (R131, R191, R204, R229) -/

/-- Whether a step can begin as to active training: its variant is active, or one of 16 can make room (R191). -/
def State.canActivate (s : State) (v : Nat) : Bool :=
  let act := s.vars.filter (fun p => p.2.active)
  act.any (fun p => decide (p.1 = v)) || decide (act.length < 16) ||
  act.any (fun p => s.steps.all (fun t => decide (t.variant ≠ p.1) || decide (t.phase = .waiting)))

/-- Whether a step's next micro-batch may begin (R131, R204). -/
def State.stepReady (s : State) (t : TStep) : Bool :=
  t.leader && !s.readersWait t.variant && (t.phase = .waiting || t.phase = .run) && decide (t.done < t.batches.length) && t.ending.isNone &&
  decide ((s.steps.filter (fun x => decide (x.variant = t.variant) && decide (x.number < t.number))).length ≤ t.schedule) &&
  (decide (t.phase = .run) ||
    (s.canActivate t.variant &&
      s.evals.vals.all (fun e => decide (e.variant ≠ t.variant) || !e.active || decide (t.id ≤ e.afterStep))))

/-- Whether an evaluation's next micro-batch may begin (R204). -/
def State.evalReady (s : State) (e : EvalRun) : Bool :=
  e.active && !s.readersWait e.variant && e.ending.isNone && decide (e.done < e.batches.length) &&
  s.steps.all (fun t => decide (t.variant ≠ e.variant) || decide (e.afterStep ≤ t.id))

/-- The first of a list of marked works. -/
def earliest : List (Nat × Work) → Option Work
  | [] => none
  | x :: xs => some (xs.foldl (fun b y => if y.1 < b.1 then y else b) x).2

/-- The micro-batch a context would start: in the order steps and evaluations were accepted. -/
def State.nextMicro (s : State) (ctx : Nat) : Option Work :=
  earliest
    ((s.steps.filter (fun t => decide (t.ctx = ctx) && s.stepReady t)).map (fun t => (t.id, Work.micro t.variant t.number t.done)) ++
     (s.evals.filter (fun e => decide (e.2.ctx = ctx) && s.evalReady e.2)).map (fun e => (e.1, Work.evalMicro e.1 e.2.done)))

/-- The update unit a context would start: the next layer of an updating step that no reader holds (R134, R282). -/
def State.nextUpdate (s : State) (ctx : Nat) : Option Work :=
  (s.steps.find? (fun t => decide (t.ctx = ctx) && decide (t.phase = .updating) &&
    (match t.layersLeft, s.var t.variant with
     | l :: _, some v => !s.layerHeld t.variant v l
     | _, _ => false))).map (fun t => Work.update t.variant t.number)

/-- Whether training goes before serving at this start (R229). -/
def Ctx.trainTurn (c : Ctx) : Bool :=
  decide ((c.starts.filter (fun b => b)).length * 100 < c.settings.parison.trainShare * 64)

/-- The unit a context has ready (R229, R281, R282). -/
def State.nextWork (s : State) (ctx : Nat) (c : Ctx) : Option Work :=
  if c.st ≠ .active || c.running.isSome then none
  else if s.transport then (if c.prog.isSome || c.runQueue ≠ [] then some .program else none)
  else match s.nextUpdate ctx with
    | some w => some w
    | none =>
      match c.closed.head?.filter (fun p => !s.parisonWaits p), s.nextMicro ctx with
      | none, m => m
      | some p, none => some (.parison p)
      | some p, some m => some (if c.trainTurn then m else .parison p)

/-- Whether a context has a ready or a running unit. -/
def State.hasUnit (s : State) (ctx : Nat) (c : Ctx) : Bool := c.running.isSome || (s.nextWork ctx c).isSome

/-- The contexts ready to start: v, number and the tiles each would run on. -/
def State.readyCtxs (s : State) : List (Nat × Nat × List Nat) :=
  (s.ctxs.filter (fun p => (s.nextWork p.1 p.2).isSome)).map (fun p => (p.2.v, p.1, s.runTiles p.2))

/-- The ready context a free tile is held for (R281): the smallest v, the lower number on ties. -/
def holderOf (ready : List (Nat × Nat × List Nat)) (t : Nat) : Option Nat :=
  match ready.filter (fun r => r.2.2.contains t) with
  | [] => none
  | r :: rs => some (rs.foldl (fun b x => if x.1 < b.1 || (decide (x.1 = b.1) && decide (x.2.1 < b.2.1)) then x else b) r).2.1

/-- The tiles that units hold. -/
def State.runningTiles (s : State) : List Nat :=
  s.ctxs.vals.flatMap (fun c => match c.running with | some r => r.tiles | none => [])

/-- The size of a tile's stash area: the largest stash_region of the contexts whose groups hold it (R279). -/
def State.stashArea (s : State) (n : Nat) : Nat :=
  0x40000 * (s.ctxs.vals.map (fun c => if c.settings.group.contains n then c.settings.region else 0)).foldl max 0

/-- A tile that another context used last is zeroed for the one it is held for: its stash area, registers, buffers and blocks (R280). -/
def State.changeCtx (s : State) (n ctx : Nat) : State :=
  if (s.tile n).lastCtx = some ctx then s
  else
    let a := s.stashArea n
    { s with mem := zeroRange s.mem (tileAddr n (tileBytes - a)) a }.modTile n (fun t =>
      { t with lastCtx := some ctx, loaded := [], marver := [], rounding := List.replicate 32 0, deriv := List.replicate 32 0 })

/-- A held tile that is awake is zeroed where the context differs; one in NAP first completes its wake (R280). -/
def State.changeHeld (n : Nat) (s : State) : State :=
  match (s.tile n).held with
  | some ctx => if (s.tile n).waking then s else s.changeCtx n ctx
  | none => s

/-- Every free tile is held for the context the procedure of R281 names; the wake of one in NAP begins, and one that is awake is zeroed
where the context differs (R280, R441). -/
def State.holdTiles (s : State) : State :=
  let ready := s.readyCtxs
  let busy := s.runningTiles
  let s : State := { s with tiles := s.tiles.each (fun n t =>
      if busy.contains n || t.power = .off then t
      else
        let h := holderOf ready n
        { t with held := h, waking := t.waking || (h.isSome && decide (t.power = .nap)) }) }
  eachDo (s.tiles.keep (fun _ t => t.held.isSome && decide (t.lastCtx ≠ t.held) && !t.waking && decide (t.power ≠ .off))).keys
    State.changeHeld s

/-- The contexts that have become ready join: each takes at least the smallest v of those that had a ready or running
unit before this change (R281). -/
def State.noteReady (s : State) : State :=
  let before := (s.ctxs.vals.filter (fun c => c.present)).map (fun c => c.v)
  let floor := match before with | [] => 0 | x :: xs => xs.foldl min x
  let s : State := { s with ctxs := s.ctxs.each (fun n c =>
      let now := s.hasUnit n c
      { c with v := if now && !c.present then max c.v floor else c.v, present := now }) }
  s.holdTiles

end Sys2Proof.Machine
end

