-- ==== Sys2Proof/Machine/Parisons.lean ====
section
/-! DEFINITION. How serving parisons form and close (R207 to R210, R226). -/

namespace Sys2Proof.Machine

/-- Whether a reply of a command still waits on its session behind events (R288). -/
def State.replyWaits (s : State) (t : Ticket) : Bool :=
  match s.sessions.find t.session with
  | some ss => decide (ss.serial = t.serial) &&
      ss.egress.any (fun g => match g with | .reply p => decide (p.seq = t.seq) | .event _ => false)
  | none => false

/-- Whether a request can place rows now (R226): it has none in a parison, and the reply of its last token has left. -/
def State.canPlace (s : State) (r : Request) : Bool :=
  !r.inParison && r.ending.isNone && !r.cancelled && !s.replyWaits r.ticket

/-- A row before its first layer. -/
def newRow (request position token : Nat) (last : Bool) : Row :=
  { request := request, position := position, token := token, last := last, layer := 0, residual := [], generation := 0,
    copies := [], awaiting := [], gates := [], answers := [] }

/-- The rows a request places next (R226): a chunk of its prompt, or its newest token. -/
def Request.rows (r : Request) (id chunk room : Nat) : List Row :=
  let n := r.p.prompt.length
  if r.placed < n then
    (List.range (min (min chunk room) (n - r.placed))).map (fun i =>
      newRow id (r.placed + i) (r.p.prompt.getD (r.placed + i) 0) (decide (r.placed + i + 1 = n)))
  else [newRow id r.placed (r.produced.getLastD 0) true]

/-- The variants of a parison's rows. -/
def State.parisonVariants (s : State) (p : Parison) : List Nat :=
  (p.rows.filterMap (fun w => (s.requests.find w.request).map (fun r => r.variant))).dedup

/-- Whether a request may join a parison: its variant is there, or there are fewer than 32 (R207, R210). -/
def State.variantFits (s : State) (p : Parison) (v : Nat) : Bool :=
  (s.parisonVariants p).contains v || decide ((s.parisonVariants p).length < 32)

/-- Rows in the order of R210: by request in intake order, then by position. -/
def orderRows (l : List Row) : List Row :=
  sortBy (fun a b => decide (a.request < b.request) || (decide (a.request = b.request) && decide (a.position ≤ b.position))) l

/-- The open parison of a context closes (R209). -/
def Ctx.closeParison (c : Ctx) : Ctx :=
  match c.openParison with
  | some p => { c with openParison := none, closed := c.closed ++ [p] }
  | none => c

/-- A request places its rows: the context's open parison takes them, opened if there is none; it closes when its rows
reach fill_rows (R209, R210). -/
def State.placeRequest (s : State) (ctx id : Nat) : State :=
  match s.ctx ctx, s.requests.find id with
  | some c, some r =>
    let p := c.openParison.getD ⟨c.nextParison, [], []⟩
    if s.canPlace r && s.variantFits p r.variant then
      let rows := r.rows id c.settings.parison.prefillChunk (c.settings.parison.fillRows - p.rows.length)
      let p : Parison := { p with rows := orderRows (p.rows ++ rows) }
      let c' : Ctx :=
        { c with
          openParison := some p,
          nextParison := if c.openParison.isNone then (c.nextParison + 1) % 2 ^ 32 else c.nextParison }
      let c' := if c.settings.parison.fillRows ≤ p.rows.length then c'.closeParison else c'
      let s : State := { s with requests := s.requests.put id { r with inParison := true, placed := r.placed + rows.length } }
      s.setCtx ctx c'
    else s
  | _, _ => s

/-- The requests of a context in intake order. -/
def State.requestsOf (s : State) (ctx : Nat) : List Nat := (s.requests.keep (fun _ r => decide (r.ctx = ctx))).keys

/-- Whether a SUBMIT of a context waits at intake, in the round being applied or before it, or in the park table (R209). -/
def State.submitWaits (s : State) (ctx : Nat) : Bool :=
  s.qps.vals.any (fun q => q.inbox.any (fun b => decide (field b 4 2 = opSubmit) && decide (field b 12 2 = ctx))) ||
  s.roundSubmits.contains ctx || s.park.any (fun p => decide (p.ctx = ctx) && decide (p.ticket.opcode = opSubmit))

/-- The third condition of R209: every request that can place a row here has, and no SUBMIT of the context waits. -/
def State.nothingToPlace (s : State) (ctx : Nat) (p : Parison) : Bool :=
  !s.submitWaits ctx &&
  (s.requestsOf ctx).all (fun id => match s.requests.find id with
    | some r => !s.canPlace r || !s.variantFits p r.variant
    | none => true)

/-- The parisons of a context form: every request that can places rows, again for each parison that closes. -/
def State.formCtx (ctx : Nat) : Nat → State → State
  | 0, s => s
  | n + 1, s =>
    let s := eachDo (s.requestsOf ctx) (fun id s => s.placeRequest ctx id) s
    match s.ctx ctx with
    | some c =>
      match c.openParison with
      | some p => if s.nothingToPlace ctx p then State.formCtx ctx n (s.setCtx ctx c.closeParison) else s
      | none => s
    | none => s

/-- The parisons of every context that takes work form (R209). -/
def State.formAll (s : State) : State :=
  eachDo s.ctxs.keys (fun n s =>
    if s.ctxState n = .active || s.ctxState n = .suspended then State.formCtx n ((s.requestsOf n).length + 1) s else s) s

end Sys2Proof.Machine
end

