-- ==== Sys2Proof/Machine/StreamOps.lean ====
section
/-! DEFINITION. Streams: engines, credits, buffers and the checks of an open (R157 to R172, R279, R284). -/

namespace Sys2Proof.Machine

/-- Whether a stream holds a slot of its engine: open, halted or draining (R157, R172). -/
def Strm.holdsSlot (x : Strm) : Bool :=
  match x.st with
  | .waiting => false
  | .ended _ => decide (x.outstanding ≠ [])
  | _ => true

/-- The streams that hold slots on an engine. -/
def State.onEngine (s : State) (e : Nat) : List Strm := s.streams.vals.filter (fun x => decide (x.engine = e) && x.holdsSlot)

/-- Engines of the quadrant of a logical tile (R157). -/
def quadEngines (t : Nat) : List Nat := [3 * (t / 16), 3 * (t / 16) + 1, 3 * (t / 16) + 2]

/-- Engines of a context's group. -/
def groupEngines (st : Settings) : List Nat :=
  ((List.range st.groupSize).map (fun i => (st.groupFirst + i) / 16)).dedup.flatMap (fun q => [3 * q, 3 * q + 1, 3 * q + 2])

/-- The engine with the most free slots, the lowest number on ties. -/
def State.freest (s : State) : List Nat → Nat
  | [] => 0
  | e :: es => es.foldl (fun b e => if (s.onEngine e).length < (s.onEngine b).length then e else b) e

/-- The engine a stream runs on (R157). -/
def State.engineFor (s : State) (st : Settings) (d : Bytes) : Nat :=
  if sdDstKind d = epTile then s.freest (quadEngines (modAddr (sdDst d) / tileBytes))
  else if sdSrcKind d = epTile then s.freest (quadEngines (modAddr (sdSrc d) / tileBytes))
  else s.freest (groupEngines st)

/-- Credits that open streams on an engine reserve in a class, all contexts or one (R160, R284). -/
def State.creditsHeld (s : State) (e k : Nat) (ctx : Option Nat) : Nat :=
  (((s.onEngine e).filter (fun x => x.classes.contains k &&
    (match ctx with | some c => decide (x.ctx = c) | none => true))).map (fun x => x.credits)).sum

/-- Whether the credits of every class of a stream fit on its engine (R160, R167). -/
def State.creditsFit (s : State) (x : Strm) : Bool :=
  x.classes.all (fun k => decide (s.creditsHeld x.engine k none + x.credits ≤ classCredits s.profile.split k))

/-- Whether the context's cap leaves room for a stream (R284). -/
def State.capFits (s : State) (caps : Caps) (x : Strm) : Bool :=
  x.classes.all (fun k => decide (s.creditsHeld x.engine k (some x.ctx) + x.credits ≤ capCredits s.profile.split caps k))

/-- Credits of 256 bytes in the local part of a ring port's receive pool (R169, R246). -/
def receivePool : Nat := 1024

/-- Whether a stream's descriptor is a REDUCE_HOP that receives from a ring port. -/
def Strm.receivesAt (x : Strm) (port : Nat) : Bool :=
  decide (x.desc ≠ []) && decide (x.kind = 3) && decide (sdSrcKind x.desc = port) && isRing port

/-- Whether the receive space of a REDUCE_HOP can be reserved beside that of every open one at its ring source (R167): a credit of the
port's pool for each transfer it may have outstanding (DEDUCED, assumption log 148). -/
def State.receiveFits (s : State) (x : Strm) : Bool :=
  let port := sdSrcKind x.desc
  !x.receivesAt port ||
  decide (((s.streams.vals.filter (fun y => y.holdsSlot && y.receivesAt port)).map (fun y => y.credits)).sum + x.credits ≤ receivePool)

/-- Whether a stream's buffer is clear of every open stream's buffer (R167). -/
def State.bufferFree (s : State) (d : Bytes) : Bool :=
  !isLocal (sdDstKind d) ||
  s.streams.vals.all (fun x => !x.holdsSlot || !isLocal (sdDstKind x.desc) || decide (x.desc = []) ||
    !overlaps (sdBuffer d).1 (sdBuffer d).2 (sdBuffer x.desc).1 (sdBuffer x.desc).2)

/-- Whether a context holds a turn: a unit of it runs. -/
def Ctx.turn (c : Ctx) : Bool := c.running.isSome

/-- Whether a tile-local range is the context's: its allocation, or its stash region while it holds a turn (R279). -/
def ownTileRange (c : Ctx) (offset n : Nat) : Bool :=
  let lo := c.tileBase * 0x40000
  let hi := lo + c.settings.tileAlloc * 0x40000
  let stash := tileBytes - c.settings.region * 0x40000
  (decide (lo ≤ offset) && decide (offset + n ≤ hi)) || (c.turn && decide (stash ≤ offset) && decide (offset + n ≤ tileBytes))

/-- Whether a range lies within a list of ranges, which may adjoin one another; `fuel` bounds their number. -/
def covered (l : List (Nat × Nat)) : Nat → Nat → Nat → Bool
  | 0, _, n => decide (n = 0)
  | fuel + 1, a, n =>
    match l.find? (fun x => decide (x.1 ≤ a) && decide (a < x.1 + x.2)) with
    | some x => if a + n ≤ x.1 + x.2 then true else covered l fuel (x.1 + x.2) (a + n - (x.1 + x.2))
    | none => decide (n = 0)

/-- The part of a range that lies on a tile: tile-local offset and length. -/
def tilePart (a n t : Nat) : Nat × Nat :=
  let lo := max a (t * tileBytes)
  (lo - t * tileBytes, min (a + n) ((t + 1) * tileBytes) - lo)

/-- Whether a range of tile addresses is a context's own, tile by tile (R154, R279, R386). -/
def State.ownTiles (s : State) (c : Ctx) (a n : Nat) : Bool :=
  decide (a + n ≤ 256 * tileBytes) &&
  ((List.range ((a + n + tileBytes - 1) / tileBytes - a / tileBytes)).map (a / tileBytes + ·)).all (fun t =>
    let p := tilePart a n t
    c.settings.group.contains t && !s.vacant t && ownTileRange c p.1 p.2)

/-- Whether a range of module addresses is a context's to read, or to write (R153, R154, R279, R386). -/
def State.ownRange (s : State) (c : Ctx) (a n : Nat) (write : Bool) : Bool :=
  if a < 256 * tileBytes then s.ownTiles c a n
  else
    let l := c.settings.extents ++ (if write then [] else s.base.extent.toList)
    covered l (l.length + 1) a n

/-- The rows an end of a stream touches: first address and length of each. -/
def sdRows (d : Bytes) (base stride : Nat) : List (Nat × Nat) :=
  if strideKind d then
    let row := sdRowBytes d
    (List.range ((sdBytes d + row - 1) / row)).map (fun i => (modAddr base + i * stride, min row (sdBytes d - i * row)))
  else [(modAddr base, sdBytes d)]

/-- Whether the window of a host end is mapped OUTBOUND and holds every byte. -/
def windowHolds (c : Ctx) (d : Bytes) (w stride : Nat) : Bool :=
  match c.windows.find (winNo w) with
  | some (.outbound r _) =>
    let o := winOffset w - modAddr w
    (sdRows d w stride).all (fun x => decide (o + x.1 + x.2 ≤ 65536 * r.pages))
  | _ => false

/-- The checks of R154 and R279 on both ends of a stream, its buffer at a local destination among them. -/
def State.ownsEnds (s : State) (c : Ctx) (d : Bytes) : Bool :=
  (if isLocal (sdSrcKind d) then (sdRows d (sdSrc d) (sdSrcStride d)).all (fun r => s.ownRange c r.1 r.2 false)
   else if sdSrcKind d = epHost then windowHolds c d (sdSrc d) (sdSrcStride d) else true) &&
  (if isLocal (sdDstKind d) then
     (sdRows d (sdDst d) (sdDstStride d)).all (fun r => s.ownRange c r.1 r.2 true) && s.ownRange c (sdBuffer d).1 (sdBuffer d).2 true
   else if sdDstKind d = epHost then windowHolds c d (sdDst d) (sdDstStride d) else true)

/-- Transfers that one landing of a stream completes: 256 for the page kinds, whose unit is a 64 KiB page. -/
def Strm.unit (x : Strm) : Nat := if x.kind = 5 || x.kind = 6 then 256 else 1

/-- The first number that is not in a list. -/
def firstGap (l : List Nat) : Nat := ((List.range (l.length + 1)).find? (fun i => !l.contains i)).getD 0

/-- The position of a stream: the index of its first transfer not yet complete (R171). -/
def Strm.position (x : Strm) : Nat :=
  if x.desc = [] then firstGap x.landed else min (x.unit * firstGap x.landed) (sdTransfers x.desc)

/-- A stream of the model's own tables, waiting to open. -/
def newStrm (ctx id : Nat) (use : StreamUse) (kind engine : Nat) (desc : Bytes) (total : Nat) : Strm :=
  { ctx := ctx, id := id, use := use, kind := kind, engine := engine, desc := desc, st := .waiting, issued := 0,
    outstanding := [], landed := [], pages := [], head := none, region := none, baseSeq := 0, total := total,
    credits := if desc = [] then 0 else sdCredits desc, classes := if desc = [] then [] else sdClasses desc, halves := 0, consumed := 0,
    discard := false, later := none }

/-- Enter a stream under a fresh key. -/
def State.addStrm (s : State) (x : Strm) : Nat × State :=
  let (k, s) := s.fresh
  (k, { s with streams := s.streams.put k x })

/-- Remove a stream. -/
def State.delStrm (s : State) (k : Nat) : State := { s with streams := s.streams.del k }

/-- A waiting stream opens once its engine has a slot and its buffers and credits can be reserved whole (R167); with
unchecked set it opens without the reservation check (R168). -/
def State.canOpen (s : State) (x : Strm) : Bool :=
  decide ((s.onEngine x.engine).length < 16) &&
  ((decide (x.desc ≠ []) && sdUnchecked x.desc) ||
   (s.creditsFit x && (decide (x.desc = []) || (s.bufferFree x.desc && s.receiveFits x))))

/-- Open a stream that can open; a waiting one stays. -/
def State.tryOpen (s : State) (k : Nat) : State :=
  match s.strm k with
  | some x => if x.st = .waiting && s.canOpen x then s.modStrm k (fun x => { x with st := .running }) else s
  | none => s

/-- The credits a service-mode stream asks for, and what its context's cap leaves each of `k` of them on an engine: the lesser, and
one at least (R164, R284). -/
def State.lesserCredits (s : State) (ctx cls k need : Nat) : Nat :=
  match s.ctx ctx with
  | some c => max 1 (min need (capCredits s.profile.split c.settings.caps cls / k))
  | none => 1

/-- A service-mode stream of pages opens, or waits for a slot and its credits (R157, R164). Its host end makes it of the remote class
(R158); the rate its consumer needs, and so its credits, the spec does not give (free, assumption log 149). -/
def State.openService (s : State) (ctx : Nat) (use : StreamUse) (kind total : Nat) (region : Option Region)
    (pages : List PageBody) (baseSeq : Nat) : State :=
  let e := match s.ctx ctx with | some c => s.freest (groupEngines c.settings) | none => 0
  let (k, s) := s.addStrm
    { newStrm ctx 0 use kind e [] total with
      region := region, pages := pages, baseSeq := baseSeq, classes := [2], credits := s.lesserCredits ctx 2 1 (Config.serviceCredits kind) }
  s.tryOpen k

/-- The ring stream by which the answers to a unit's bundles come back opens, or waits for a slot and its credits, once a bundle has left
for another member (R157, R158, R224; assumption log 180). -/
def State.openAnswers (s : State) (ctx : Nat) : State :=
  if s.streams.vals.any (fun x => decide (x.ctx = ctx) && decide (x.use = .answers) && !x.discard) then s
  else s.openService ctx .answers 1 0 none [] 0

/-- The buffer of a stream at a local destination is zeroed (R170, R174). -/
def State.zeroBuffer (s : State) (d : Bytes) : State :=
  if isLocal (sdDstKind d) && decide (d ≠ []) then
    { s with mem := zeroRange s.mem (sdBuffer d).1 (sdBuffer d).2 }
  else s

/-- A stream is abandoned without any report: it goes at once, or drains and goes when its last transfer lands. -/
def State.abandonStrm (s : State) (k : Nat) : State :=
  match s.strm k with
  | some x =>
    if x.outstanding ≠ [] then s.modStrm k (fun x => { x with discard := true, st := .ended stOk })
    else match x.st with
      | .ended _ => s.delStrm k
      | _ => (s.zeroBuffer x.desc).delStrm k
  | none => s

/-- The keys of the streams of some use. -/
def State.streamsFor (s : State) (p : Strm → Bool) : List Nat := (s.streams.keep (fun _ x => p x)).keys

/-- Abandon every stream of some use. -/
def State.abandonAll (s : State) (p : Strm → Bool) : State := eachDo (s.streamsFor p) (fun k s => s.abandonStrm k) s

/-- The streams of a context that have not been abandoned. -/
def State.ctxStreams (s : State) (ctx : Nat) : List Nat := s.streamsFor (fun x => decide (x.ctx = ctx) && !x.discard)

/-! ## Streams that feed the arrays of a unit (R164) -/

/-- Bytes of one stationary block of base weights (R33). -/
def feedBlock (fmt : Nat) : Nat := if fmt = 1 then 8192 else 8704

/-- Transfers of one half of the buffer of a stream that feeds an array: one stationary block. -/
def feedHalf (fmt : Nat) : Nat := feedBlock fmt / 256

/-- The credits that keep a stream's guaranteed rate, c x 256 bytes in 480 ns, at or above what an array needs that streams `rows` moving
rows against each block: a block in rows + 256 cc at 1.45 GHz (R38, R160, R164). -/
def feedCredits (fmt rows : Nat) : Nat := (feedBlock fmt * 480 * 145 + (rows + 256) * 25600 - 1) / ((rows + 256) * 25600)

/-- Transfers that the blocks of a tile's columns take in a pass through a base model's matrices (R31, R38). -/
def feedTransfers (b : BaseShape) (tiles : Nat) : Nat :=
  (b.layerMap.map (fun m =>
    let groups := (m.2.2.2 + (if b.format = 1 then 31 else 63)) / (if b.format = 1 then 32 else 64)
    (m.2.2.1 + 255) / 256 * ((groups + tiles - 1) / max tiles 1) * feedHalf b.format)).sum

/-- The engine of each tile's feed, opened tile by tile: the one of its quadrant with the most free slots, the lowest on ties (R157). -/
def feedEngines (load : Nat → Nat) : List Nat → Tab Nat → List (Nat × Nat)
  | [], _ => []
  | t :: ts, given =>
    let open' (e : Nat) : Nat := load e + given.getOr e 0
    let e := match quadEngines t with
      | [] => 0
      | x :: xs => xs.foldl (fun b e => if open' e < open' b then e else b) x
    (t, e) :: feedEngines load ts (given.put e (given.getOr e 0 + 1))

/-- As a unit starts, each of its tiles has a stream open, or waiting, that feeds its array with blocks of the base model from HBM, with
the lesser of the credits its rate needs and what the cap leaves each (R158, R164, R284). -/
def State.openFeeds (s : State) (ctx rows : Nat) (tiles : List Nat) : State :=
  match s.base.shape with
  | some b =>
    let plan := feedEngines (fun e => (s.onEngine e).length) tiles []
    eachDo plan (fun p s =>
      let k := (plan.filter (fun q => decide (q.2 = p.2))).length
      let (id, s) := s.addStrm
        { newStrm ctx 0 (.feed p.1) 1 p.2 [] (feedTransfers b tiles.length) with
          classes := [0], credits := s.lesserCredits ctx 0 k (feedCredits b.format rows) }
      s.tryOpen id) s
  | none => s

/-- The streams that feed a context's unit, and that of its answers, are over with it. -/
def State.endFeeds (s : State) (ctx : Nat) : State :=
  s.abandonAll (fun x => decide (x.ctx = ctx) && (match x.use with | .feed _ => true | .answers => true | _ => false))

/-- An operation of the sequencer has run on a tile: the half it computed on may be filled again (R164). -/
def State.consumeFeed (s : State) (n : Nat) : State :=
  { s with streams := s.streams.each (fun _ x => if x.use = .feed n then { x with consumed := x.consumed + 1 } else x) }

end Sys2Proof.Machine
end

