-- ==== Sys2Proof/Machine/Directory.lean ====
section
/-! DEFINITION. The variant directory: entries, pins, parking, loads, evictions and what a variant's image holds
(R175 to R199, R485). -/

namespace Sys2Proof.Machine

/-! ## Replies of a use -/

/-- The final reply of a SUBMIT carries the count returned, and the request counts as ended (R295, R351). -/
def State.submitFinal (s : State) (t : Ticket) (status tokens : Nat) (reason : Option Nat) : State :=
  (if s.live t then s.countTenant t.ctx tRequestsEnded 1 else s).answerWith t (s.graded t.ctx status)
    ((match reason with | some r => [p8 0x84 r] | none => []) ++ [p32 0x85 tokens])

/-- A use ends with no work done: a SUBMIT's reply still carries its count (R351). -/
def State.endUse (s : State) (t : Ticket) (status : Nat) : State :=
  if t.opcode = opSubmit then s.submitFinal t status 0 none else s.answer t status

/-! ## The entry (R181) -/

/-- The code of a directory state. -/
def VarState.code : VarState → Nat
  | .free => 0 | .absent => 1 | .loading => 2 | .resident => 3 | .evicting => 4 | .writing => 5 | .lost => 6

/-- Tokens of a variant in its context's sample queue. -/
def State.queuedTokens (s : State) (ctx v : Nat) : Nat :=
  match s.ctx ctx with
  | some c => ((c.queue.filter (fun q => decide (q.variant = v))).map (fun q => q.tokens.length)).sum
  | none => 0

/-- A flag as a bit at a place. -/
def flagAt (b : Bool) (i : Nat) : Nat := if b then 2 ^ i else 0

/-- Extra-expert slots a variant holds. -/
def Var.slots (v : Var) : List Nat := v.extras.filterMap (fun e => e.slot)

/-- The park table entry of the first of some parked uses; 0xFFFF none (R181, R186). -/
def firstEntry : List Parked → Nat
  | p :: _ => p.entry
  | [] => 0xFFFF

/-- The first park table entry of a variant. -/
def State.parkHead (s : State) (v : Nat) : Nat := firstEntry (s.park.filter (fun p => decide (p.variant = v)))

/-- The park table entry after a use's own, of the same variant: park order is the order they were parked in (R185, R186). -/
def State.parkNext (s : State) (x : Parked) : Nat :=
  firstEntry (s.park.filter (fun p => decide (p.variant = x.variant) && decide (x.order < p.order)))

/-- The 16 bytes of a park table entry (R186). -/
def State.parkBytes (s : State) (x : Parked) : Bytes :=
  leBytes 8 (s.parkNext x % 65536 * 2 ^ 48 + x.ticket.session % 65536 * 2 ^ 32 + x.ticket.seq % 2 ^ 32) ++
  leBytes 8 (x.ticket.opcode % 65536 * 2 ^ 48 + x.ctx % 1024 * 2 ^ 36 + x.variant % 2 ^ 17)

/-- The lowest free entry of the park table (assumption log 156). -/
def State.freeEntry (s : State) : Nat :=
  ((List.range (s.park.length + 1)).find? (fun i => s.park.all (fun p => decide (p.entry ≠ i)))).getD s.park.length

/-- The position that owns the tensor of a global index (R115). -/
def Var.ownerOf (v : Var) (i : Nat) : Nat := v.owners.getD (i % v.owners.length) 0

/-- Whether this member owns the tensor of a global index. -/
def State.ownsTensor (s : State) (v : Var) (i : Nat) : Bool := decide (v.ownerOf i = s.pos)

/-- The positions that own tensors of a variant, without this one. -/
def State.otherOwners (s : State) (v : Var) : List Nat := v.owners.dedup.filter (fun p => decide (p ≠ s.pos))

/-- The positions that hold working copies of a variant, without this one: its owners, and the members whose slots its extra experts
hold (R116, R194, R196). -/
def State.otherHolders (s : State) (v : Var) : List Nat :=
  (v.owners ++ v.slots.map (fun n => n / 64) ++ v.releasing.map (fun r : Nat × Nat × List Nat => r.1 / 64)).dedup.filter (fun p => decide (p ≠ s.pos))

/-- Send a message to every other holder of a variant. -/
def State.tellHolders (s : State) (v : Var) (msgType : Nat) (m : Payload) : State :=
  eachDo (s.otherHolders v) (fun p s => s.ringSend p msgType v.ctx (msgLength msgType) m) s

/-- Whether this member owns a tensor of a variant's manifest (R115). -/
def State.ownsPart (s : State) (v : Var) : Bool := (List.range v.manifestLen).any (fun i => s.ownsTensor v i)

/-- Whether this member has an extra-expert slot of a variant, so that it keeps replicas of the expert's tensors (R116, R192). -/
def State.holdsSlot (s : State) (v : Var) : Bool :=
  (v.slots ++ v.releasing.map (fun r : Nat × Nat × List Nat => r.1)).any (fun n => decide (n / 64 = s.pos))

/-- Change the tensors of a variant, each with its global index. -/
def Var.mapTensors (v : Var) (f : Nat → Tensor → Tensor) : Var :=
  { v with tensors := (v.tensors.zipIdx).map (fun p => f p.2 p.1) }

/-- The 48 bytes of an entry; a tenant reads last_use and manifest_page as zero (R181). -/
def State.entryBytes (s : State) (id : Nat) (tenant : Bool) : Bytes :=
  match s.var id with
  | none => leBytes 8 0xFFFF ++ List.replicate 40 0
  | some v =>
    let word0 := v.st.code * 2 ^ 60 + flagAt v.home 59 + flagAt (s.ownsPart v) 58 + flagAt (s.holdsSlot v) 57 +
      flagAt v.settings.learn 56 + flagAt v.curSlot 55 + flagAt v.dirty 54 + flagAt v.active 53 + flagAt v.force 52 +
      v.ctx % 1024 * 2 ^ 40 + v.pins % 65536 * 2 ^ 24 + v.slots.length % 128 * 2 ^ 16 + s.parkHead id % 65536
    leBytes 8 word0 ++ leBytes 8 v.stepCounter ++ leBytes 8 v.generation ++ [0] ++ leBytes 3 v.storePages ++
      leBytes 4 v.storePage ++ leBytes 4 (if tenant then 0 else v.manifestPage) ++
      leBytes 4 (if tenant then 0 else v.lastUse % 2 ^ 32) ++ leBytes 2 v.pendingPins ++ leBytes 2 v.settings.learnBatch ++
      leBytes 4 (s.queuedTokens v.ctx id)

/-! ## Page store (R177, R182) -/

/-- Pages of a context's page store in use: images written out and log pages. -/
def State.storeUsed (s : State) (ctx : Nat) : Nat :=
  (s.vars.vals.map (fun v => if v.ctx = ctx then v.storePages + v.logPagesHeld else 0)).sum

/-- Pages of a context's page store. -/
def Settings.storeSize (st : Settings) : Nat := match st.pageStore with | some r => r.pages | none => 0

/-! ## Images (R183) -/

/-- The working copy of the current generation of a tensor. -/
def Var.curCopy (v : Var) (t : Tensor) : WorkCopy := if v.curSlot then t.slot1 else t.slot0

/-- The working copies of a generation of a variant: the current ones, or those the other slot still holds (R132). -/
def Var.copiesOf (v : Var) (g : Nat) : List WorkCopy :=
  v.tensors.map (fun t => if g = v.generation then v.curCopy t else if v.curSlot then t.slot0 else t.slot1)

/-- The image of a variant's committed state (R183), with its context's seed (R70). -/
def Var.image (v : Var) (seed : Nat) : VariantImage :=
  { manifest := v.tensors.map (fun t => t.info), experts := v.extras.map (fun e => e.decl), stepCounter := v.stepCounter,
    generation := v.generation, curSlot := v.curSlot, sExp := v.sExp, quiet := v.quiet, settings := v.settings,
    tensors := v.tensors.map (fun t => t.committed), copies := v.tensors.map v.curCopy, seed := seed }

/-- Tensors as an image gives them: both slots hold the image's working copy (R183). -/
def tensorsOf : List TensorInfo → List TensorState → List WorkCopy → List Tensor
  | i :: is, t :: ts, c :: cs =>
    { info := i, committed := t, staged := none, grads := [], slot0 := c, slot1 := c, half := false } ::
      tensorsOf is ts cs
  | _, _, _ => []

/-- A variant with the contents of an image (R183, R199, R349). -/
def Var.place (v : Var) (i : VariantImage) : Var :=
  { v with tensors := tensorsOf i.manifest i.tensors i.copies, manifestLen := i.manifest.length, stepCounter := i.stepCounter, generation := i.generation,
           sExp := i.sExp, quiet := i.quiet, settings := i.settings }

/-- The page bodies of an image: page 0 carries it, the rest fill (the packing is not in the spec). -/
def imageBodies (i : VariantImage) (n : Nat) : List PageBody := .image i :: List.replicate (n - 1) .filler

/-- Pages an image takes, one at least. -/
def imageCount (v : Var) : Nat := Config.imagePages (v.tensors.map (fun t => t.info)) + 1

/-- The other holders of a variant are told of it, with what is to be placed there (R116, R183, R194). -/
def State.announceVar (s : State) (id : Nat) : State :=
  match s.var id with
  | some v =>
    let seed := match s.ctx v.ctx with | some c => c.seed | none => 0
    if v.home then s.tellHolders v 5 (.announce (.variant id v.owners (v.extras.map (fun e => e.slot)) (v.image seed))) else s
  | none => s

/-- The other holders of a variant let it go (R182). -/
def State.ungetVar (s : State) (id : Nat) : State :=
  match s.var id with
  | some v => if v.home then s.tellHolders v 5 (.announce (.variantGone id)) else s
  | none => s

/-! ## Pins and parking (R185, R186, R188, R196) -/

/-- The mark of a use that holds a pin: the model's own number of the request, step, evaluation or export. -/
def holderId (id : Nat) : Nat := id

/-- Whether any use holds a slot detached from a variant. -/
def Var.stillReleasing (v : Var) (slot : Nat) : Bool := v.releasing.any (fun r => decide (r.1 = slot))

/-- Clear a local slot's entry of the expert table (R151, R196). -/
def State.clearSlot (s : State) (slot : Nat) : State :=
  s.modRing (fun r => { r with experts := r.experts.del (512 + slot % 64) })

/-- Slots whose last earlier use has released its pin go back to the grant (R196). -/
def State.dropReleased (s : State) (id : Nat) : State :=
  match s.var id with
  | some v =>
    let gone := v.releasing.filter (fun r => decide (r.2.2 = []))
    let s := s.modVar id (fun v => { v with releasing := v.releasing.filter (fun r => decide (r.2.2 ≠ [])) })
    eachDo gone (fun r s =>
      if r.1 / 64 = s.pos then s.clearSlot r.1 else s.ringSend (r.1 / 64) 5 v.ctx (msgLength 5) (.announce (.slotGone id r.1))) s
  | none => s

/-- Open the write-out of a variant: a block of page_seq values is reserved (R427), and the stream begins. -/
def State.startWriteOut (s : State) (id : Nat) : State :=
  match s.var id with
  | some v =>
    match s.ctx v.ctx with
    | some c =>
      let n := imageCount v
      let s := s.setVar id { v with st := .writing }
      let s := s.modCtx v.ctx (fun c => { c with pageSeq := c.pageSeq + n })
      s.openService v.ctx (.writeOut id) 5 n c.settings.pageStore (imageBodies (v.image c.seed) n) c.pageSeq
    | none => s
  | none => s

/-- End the uses parked on a variant, every pin and pending pin with them (R187, R188). -/
def State.endParked (s : State) (id status : Nat) : State :=
  let gone := s.park.filter (fun p => decide (p.variant = id))
  let s : State := { s with park := s.park.filter (fun p => decide (p.variant ≠ id)) }
  let s := s.modVar id (fun v => { v with pins := v.pins - (gone.filter (fun p => p.pinned)).length, pendingPins := 0 })
  eachDo gone (fun p s => s.endUse p.ticket status) s

/-- The HBM pages a variant holds go back. -/
def State.freeHbm (s : State) (n : Nat) : State := { s with hbmFree := s.hbmFree + n }

/-- Whether a variant holds HBM pages now. -/
def Var.holdsHbm (v : Var) : Bool :=
  match v.st with
  | .free => false
  | .absent => false
  | .lost => false
  | .loading => !v.waitSpace
  | _ => true

/-- The variant's HBM pages are released (and zeroed, R151). -/
def State.releaseHbm (s : State) (id : Nat) : State :=
  match s.var id with
  | some v => if v.holdsHbm then s.freeHbm v.hbmPages else s
  | none => s

/-- A variant becomes FREE: nothing of it is left; waiting commands are answered (R182, R188, R338). -/
def State.becomeFree (s : State) (id : Nat) : State :=
  match s.var id with
  | some v =>
    let s := (s.ungetVar id).releaseHbm id
    let s := s.abandonAll (fun x => x.use = .load id || x.use = .restoring id || x.use = .writeOut id || x.use = .logPage id)
    let s := s.endParked id stAdapterLost
    let s := match v.restore with | some r => s.answer r.ticket stAdapterLost | none => s
    let s := eachDo v.slots (fun n s => if n / 64 = s.pos then s.clearSlot n else s) s
    let s := eachDo v.releasing (fun r s => if r.1 / 64 = s.pos then s.clearSlot r.1 else s) s
    let s := s.modCtx v.ctx (fun c =>
      { c with queue := c.queue.filter (fun q => decide (q.variant ≠ id)), halted := c.halted.erase id })
    let s : State := { s with vars := s.vars.del id, pinWaits := s.pinWaits.filter (fun w => decide (w.variant ≠ id)) }
    (s.answerAll v.evictTickets stOk).answerAll v.destroyTickets stOk
  | none => s

/-- A load is wanted: it starts when its space is there (R184, R185). -/
def State.wantLoad (s : State) (id : Nat) : State :=
  s.modVar id (fun v => { v with st := .loading, waitSpace := !v.holdsHbm })

/-- The uses parked on a variant hold pins from now on (R188). -/
def State.pinParked (s : State) (id : Nat) : State :=
  let s : State := { s with park := s.park.map (fun p => if p.variant = id then { p with pinned := true } else p) }
  s.modVar id (fun v => { v with pins := v.pins + v.pendingPins, pendingPins := 0 })

/-- A restore begins to load, from the restore image; pending uses wait for it with pins (R188, R349). -/
def State.wantRestore (s : State) (id : Nat) (fromAbsent : Bool) : State :=
  let s := s.modVar id (fun v =>
    { v with restore := v.restore.map (fun r => { r with loading := true, fromAbsent := fromAbsent }) })
  (s.pinParked id).wantLoad id

/-- What an ABSENT variant does next: a waiting restore loads, else pending uses start a load (R182, R188, R349). -/
def State.fromAbsent (s : State) (id : Nat) : State :=
  match s.var id with
  | some v =>
    if v.restore.isSome then s.wantRestore id true
    else if 0 < v.pendingPins then (s.pinParked id).wantLoad id
    else s
  | none => s

/-- A variant becomes ABSENT: it leaves HBM, waiting EVICTs are answered (R182, R189). -/
def State.becomeAbsent (s : State) (id : Nat) : State :=
  match s.var id with
  | some v =>
    let s := (s.ungetVar id).releaseHbm id
    let s := s.setVar id
      { v with st := .absent, tensors := [], active := false, force := false, evictTickets := [], manifestPage := 0 }
    (s.answerAll v.evictTickets stOk).fromAbsent id
  | none => s

/-- An eviction whose pins have reached 0 (R182). -/
def State.advanceEvict (s : State) (id : Nat) : State :=
  match s.var id with
  | some v =>
    if v.st = .evicting && v.pins = 0 then
      if v.forDestroy then s.becomeFree id
      else if (match v.restore with | some r => r.marked | none => false) then s.wantRestore id false
      else if v.dirty then s.startWriteOut id
      else s.becomeAbsent id
    else s
  | none => s

/-- A use releases its pin (R188, R196). -/
def State.unpin (s : State) (id holder : Nat) : State :=
  let s := s.modVar id (fun v =>
    { v with pins := v.pins - 1, releasing := v.releasing.map (fun r => (r.1, r.2.1, r.2.2.erase holder)) })
  (s.dropReleased id).advanceEvict id

/-- A request that has ended releases its pin once its final reply has been sent (R23, R188, R288). -/
def State.unpinSent (s : State) (t : Ticket) (id holder : Nat) : State :=
  if s.replyWaits t then { s with pinWaits := s.pinWaits ++ [⟨t, id, holder⟩] } else s.unpin id holder

/-- The pins of ended requests whose final replies have left are released (R23). -/
def State.releaseSent (s : State) : State :=
  let sent := s.pinWaits.filter (fun w => !s.replyWaits w.ticket)
  eachDo sent (fun w s => s.unpin w.variant w.holder) { s with pinWaits := s.pinWaits.filter (fun w => s.replyWaits w.ticket) }

/-- A use takes a pin, and is the variant's last use (R181, R188). -/
def State.pin (s : State) (id : Nat) : State :=
  s.modVar id (fun v => { v with pins := v.pins + 1, lastUse := s.intakeRounds })

/-! ## Evaluations (R204, R205) -/

/-- Whether a micro-batch of an evaluation runs now. -/
def State.evalBusy (s : State) (e : EvalRun) (id : Nat) : Bool :=
  match s.ctx e.ctx with
  | some c => match c.running with
    | some ⟨.evalMicro i _, _⟩ => decide (i = id)
    | _ => false
  | none => false

/-- An evaluation ends: its final reply, and the pin of a run in progress. -/
def State.endEval (s : State) (id status : Nat) (params : List (Nat × Bytes)) : State :=
  match s.evals.find id with
  | some e =>
    let s : State := { s with evals := s.evals.del id }
    let s := s.answerWith e.ticket (s.graded e.ctx status) params
    if e.active then s.unpin e.variant (holderId id) else s
  | none => s

/-- An evaluation ends at its next micro-batch boundary (R190, R205). -/
def State.endEvalSoon (s : State) (id status : Nat) : State :=
  match s.evals.find id with
  | some e =>
    if s.evalBusy e id then { s with evals := s.evals.put id { e with ending := some (e.ending.getD ⟨status⟩) } }
    else s.endEval id status []
  | none => s

/-- The evaluations that pass a test. -/
def State.evalsFor (s : State) (p : EvalRun → Bool) : List Nat := (s.evals.keep (fun _ e => p e)).keys

/-- Repeating evaluations of a variant end with its eviction or destroy (R205). -/
def State.endRepeats (s : State) (v status : Nat) : State :=
  eachDo (s.evalsFor (fun e => decide (e.variant = v) && decide (0 < e.every))) (fun id s => s.endEvalSoon id status) s

/-! ## Parking (R185, R186) -/

/-- Uses of a context in the park table. -/
def State.parkedOf (s : State) (ctx : Nat) : Nat := (s.park.filter (fun p => decide (p.ctx = ctx))).length

/-- The park limit of a context (R186). -/
def State.parkLimit (s : State) (ctx : Nat) : Nat := match s.ctx ctx with | some c => c.settings.parkLimit | none => 0

/-- A use is parked, or answered BUSY when a limit is met (R186, R188). -/
def State.parkUse (s : State) (t : Ticket) (id : Nat) (pinned : Bool) (use : Instr) : State :=
  match s.var id with
  | some v =>
    if 8192 ≤ s.park.length || s.parkLimit t.ctx ≤ s.parkedOf t.ctx || (pinned && 65535 ≤ v.pins) ||
        (!pinned && 65535 ≤ v.pendingPins) then s.endUse t stBusy
    else
      let (k, s) := s.fresh
      let s : State := { s with park := s.park ++ [⟨s.freeEntry, k, t, id, t.ctx, pinned, use⟩] }
      s.modVar id (fun v =>
        { v with lastUse := s.intakeRounds, pins := if pinned then v.pins + 1 else v.pins, pendingPins := if pinned then v.pendingPins else v.pendingPins + 1 })
  | none => s

/-- Parked uses that pass a test leave the park, each with its pin or pending pin: `f` says how one ends (R188). -/
def State.unpark (s : State) (p : Parked → Bool) (f : Parked → State → State) : State :=
  let gone := s.park.filter p
  let s : State := { s with park := s.park.filter (fun x => !p x) }
  eachDo gone (fun x s =>
    let s := (f x s).modVar x.variant (fun v =>
      { v with
        pins := if x.pinned then v.pins - 1 else v.pins, pendingPins := if x.pinned then v.pendingPins else v.pendingPins - 1 })
    s.advanceEvict x.variant) s

/-- Whether a use was parked just now: its ticket stands in the park table. -/
def State.isParked (s : State) (t : Ticket) : Bool := s.park.any (fun p => decide (p.ticket = t))

/-- A use of a variant by its residency (R185, R188): accepted when RESIDENT, else parked or refused. -/
def State.useVariant (s : State) (t : Ticket) (use : Instr) (accept : State → Res) : Res :=
  let id := t.variant
  match s.varState id with
  | .free => .next (s.endUse t stNotPermitted)
  | .lost => .next (s.endUse t stAdapterLoadFailed)
  | .resident => accept (s.modVar id (fun v => { v with lastUse := s.intakeRounds }))
  | .absent =>
    let s := s.parkUse t id true use
    .next (if s.isParked t then s.wantLoad id else s)
  | .loading => .next (s.parkUse t id true use)
  | .evicting => .next (s.parkUse t id false use)
  | .writing => .next (s.parkUse t id false use)

/-! ## Loads (R183, R184, R187) -/

/-- RESIDENT variants without pins, in the order R184 evicts them: last use, then ID; one whose write-out for a reclaim under way found
its page store full is passed over (step 4). -/
def State.reclaimOrder (s : State) : List (Nat × Var) :=
  sortBy (fun a b => decide (a.2.lastUse < b.2.lastUse) || (decide (a.2.lastUse = b.2.lastUse) && decide (a.1 ≤ b.1)))
    (s.vars.filter (fun p => p.2.home && decide (p.2.st = .resident) && decide (p.2.pins = 0) && !s.reclaimFull.contains p.1))

/-- HBM pages that write-outs under way will free. -/
def State.comingFree (s : State) : Nat := (s.vars.vals.map (fun v => if v.st = .writing then v.hbmPages else 0)).sum

/-- The variants to evict so that `need` pages come free. -/
def chooseEvict : Nat → List (Nat × Var) → List Nat
  | _, [] => []
  | need, (i, v) :: t => if need = 0 then [] else i :: chooseEvict (need - v.hbmPages) t

/-- Reclaim by ordinary evictions with no session waiting (R184). -/
def State.reclaim (s : State) (need : Nat) : State :=
  eachDo (chooseEvict need s.reclaimOrder)
    (fun i s => ((s.modVar i (fun v => { v with st := .evicting })).endRepeats i stAdapterLost).advanceEvict i) s

/-- Pages that could be reclaimed. -/
def State.reclaimable (s : State) : Nat := (s.reclaimOrder.map (fun p => p.2.hbmPages)).sum

/-- Open the stream of a load or restore (R183, R349). -/
def State.openLoad (s : State) (id : Nat) : State :=
  match s.var id with
  | some v =>
    match v.restore with
    | some r =>
      if r.loading then s.openService v.ctx (.restoring id) 6 1 (some r.image) [] 0
      else s.openService v.ctx (.load id) 6 v.storePages (match s.ctx v.ctx with | some c => c.settings.pageStore | none => none) [] v.storeSeq
    | none =>
      s.openService v.ctx (.load id) 6 v.storePages (match s.ctx v.ctx with | some c => c.settings.pageStore | none => none) [] v.storeSeq
  | none => s

/-- A load ends in failure (R182, R187, R349): the state it leaves, the parked uses ended, a waiting EVICT answered OK,
and a RESTORE that was loading answered. -/
def State.failLoad (s : State) (id status : Nat) (lost : Bool) : State :=
  match s.var id with
  | some v =>
    let s := (s.ungetVar id).releaseHbm id
    let s := s.abandonAll (fun x => x.use = .load id || x.use = .restoring id)
    let was := match v.restore with | some r => r.loading | none => false
    let s := s.modVar id (fun v =>
      { v with
        st := if lost then .lost else .absent, waitSpace := false, evictTickets := [], partsWaiting := [],
        restore := if was then none else v.restore, tensors := [] })
    let s := match v.restore with | some r => if r.loading then s.answer r.ticket status else s | none => s
    let s := s.endParked id status
    let s := s.answerAll v.evictTickets stOk
    if was then s
    else if lost then (if v.restore.isSome then s.wantRestore id false else s)
    else s.fromAbsent id
  | none => s

/-- Whether a failed restore load leaves the variant LOST (R349). -/
def Var.restoreLoses (v : Var) : Bool := match v.restore with | some r => !r.fromAbsent | none => false

/-- A load takes its HBM pages. -/
def State.takeHbm (s : State) (id n : Nat) : State :=
  let s : State := { s with hbmFree := s.hbmFree - n }
  s.modVar id (fun v => { v with waitSpace := false })

/-- Space for something new, reclaimed where it can be (R184, R273): taken now, to come when the write-outs that were begun
end, or none. -/
def State.needHbm (s : State) (n : Nat) : Option Bool × State :=
  if n ≤ s.hbmFree then (some true, { s with hbmFree := s.hbmFree - n })
  else if s.hbmFree + s.comingFree + s.reclaimable < n then (none, s)
  else
    let s := s.reclaim (n - (s.hbmFree + s.comingFree))
    if n ≤ s.hbmFree then (some true, { s with hbmFree := s.hbmFree - n }) else (some false, s)

/-- Wait for the space of something new (assumption log 15). -/
def State.waitHbm (s : State) (need : Nat) (use : SpaceUse) : State :=
  { s with spaceWaits := s.spaceWaits ++ [⟨need, use⟩] }

/-- One waiting load takes its space, or reclaims it, or fails with BUSY (R184). -/
def State.tryLoad (s : State) (id : Nat) : State :=
  match s.var id with
  | some v =>
    if v.st = .loading && v.waitSpace then
      if v.hbmPages ≤ s.hbmFree then
        (s.takeHbm id v.hbmPages).openLoad id
      else if v.hbmPages ≤ s.hbmFree + s.comingFree then s
      else
        let short := v.hbmPages - (s.hbmFree + s.comingFree)
        if s.reclaimable < short then s.failLoad id stBusy (match v.restore with | some r => r.loading && !r.fromAbsent | none => false)
        else
          let s := s.reclaim short
          if v.hbmPages ≤ s.hbmFree then
            (s.takeHbm id v.hbmPages).openLoad id
          else s
    else s
  | none => s

/-- A marked restore already holds its space: its load opens at once. -/
def State.openMarked (s : State) (id : Nat) : State :=
  match s.var id with
  | some v =>
    let open' := s.streams.vals.any (fun x => decide (x.use = .restoring id) || decide (x.use = .load id))
    if v.st = .loading && !v.waitSpace && v.partsWaiting = [] && !open' then s.openLoad id else s
  | none => s

/-- Whether a ticket's session is a tenant's. -/
def State.ticketTenant (s : State) (t : Ticket) : Bool :=
  match s.sessions.find t.session with | some ss => ss.role.isTenant | none => false

/-- A new variant is placed: it is RESIDENT, and its command answered (R182, R337, R339). -/
def State.placeVar (s : State) (id : Nat) (v : Var) (t : Ticket) (params : List (Nat × Bytes)) : State :=
  let s := (s.setVar id { v with lastUse := s.intakeRounds }).announceVar id
  s.answerWith t stOk (params ++ [(0x82, s.entryBytes id (s.ticketTenant t))])

/-- The expert table entry of a slot on this member (R215). -/
def State.enterExtra (s : State) (ctx variant extraNo slot : Nat) : State :=
  if slot / 64 = s.pos then
    let (page, s) := s.freeNat
    let e : ExpertEntry :=
      { kind := 3, isLocal := true, home := s.pos, ctx := ctx, variant := variant, extraNo := extraNo, expert := slot,
        weightsPage := page, epoch := s.ring.expertEpoch }
    s.modRing (fun r => { r with experts := r.experts.put (512 + slot % 64) e })
  else s

/-- The slots of this member that a variant holds enter its expert table (R194, R215). -/
def State.enterSlots (s : State) (id : Nat) (v : Var) : State :=
  eachDo v.extras (fun e s => match e.slot with | some n => s.enterExtra v.ctx id e.decl.extraNo n | none => s) s

/-- What waited for space has it (R273, R337, R339); the ID of a variant may have been taken meanwhile. -/
def State.grantSpace (s : State) (w : SpaceWait) : State :=
  match w.use with
  | .context n m => s.ringBroadcast 5 n (msgLength 5) (.announce m)
  | .presence n home => (s.modCtx n (fun x => { x with st := .active })).ringSend home 5 n (msgLength 5) (.announce (.placed none))
  | .variant id v t params =>
    if s.varState id ≠ .free then (s.freeHbm w.need).answer t stNotPermitted else s.placeVar id v t params
  | .part id home v =>
    if s.varState id ≠ .free then s.freeHbm w.need
    else ((s.setVar id v).enterSlots id v).ringSend home 5 v.ctx (msgLength 5) (.announce (.partPlaced id none))

/-- The space of what waited cannot be had after all (R184 step 2, R273). -/
def State.refuseSpace (s : State) (w : SpaceWait) : State :=
  match w.use with
  | .context n _ =>
    let t := match s.ctx n with | some x => x.createTicket | none => none
    let s : State := { s with ctxs := s.ctxs.del n }
    (match t with | some t => s.answer t stBusy | none => s)
  | .presence n home => State.ringSend { s with ctxs := s.ctxs.del n } home 5 n (msgLength 5) (.announce (.placed (some stBusy)))
  | .variant _ _ t _ => s.answer t stBusy
  | .part id home v => s.ringSend home 5 v.ctx (msgLength 5) (.announce (.partPlaced id (some stBusy)))

/-- One that waits for space takes it, waits on, reclaims more, or fails (R184). -/
def State.trySpace (s : State) (w : SpaceWait) : State :=
  let take (s : State) : State := State.grantSpace { s with hbmFree := s.hbmFree - w.need } w
  if w.need ≤ s.hbmFree then take s
  else if w.need ≤ s.hbmFree + s.comingFree then s.waitHbm w.need w.use
  else
    let short := w.need - (s.hbmFree + s.comingFree)
    if s.reclaimable < short then s.refuseSpace w
    else
      let s := s.reclaim short
      if w.need ≤ s.hbmFree then take s else s.waitHbm w.need w.use

/-- Every one that waits for space is tried, in the order they came. -/
def State.trySpaces (s : State) : State :=
  eachDo s.spaceWaits (fun w s => s.trySpace w) { s with spaceWaits := [] }

/-- Whether a context waits for its own space. -/
def State.ctxWaits (s : State) (n : Nat) : Bool :=
  s.spaceWaits.any (fun w => match w.use with | .context k _ => decide (k = n) | .presence k _ => decide (k = n) | _ => false)

/-- A context that goes waits for nothing. -/
def State.dropCtxWait (s : State) (n : Nat) : State :=
  { s with spaceWaits := s.spaceWaits.filter (fun w =>
      match w.use with | .context k _ => decide (k ≠ n) | .presence k _ => decide (k ≠ n) | _ => true) }

/-- The creations and imports of variants that wait for space end with the life of their context (R292). -/
def State.endVarWaits (s : State) (ctx status : Nat) : State :=
  let of (w : SpaceWait) : Option Ticket :=
    match w.use with | .variant _ v t _ => if v.ctx = ctx then some t else none | _ => none
  let gone := s.spaceWaits.filterMap of
  State.answerAll { s with spaceWaits := s.spaceWaits.filter (fun w => (of w).isNone) } gone status

/-- Once nothing waits for space, no reclaim is under way: the variants it passed over count again (R184). -/
def State.endReclaims (s : State) : State :=
  if s.spaceWaits = [] && s.vars.vals.all (fun v => !v.waitSpace) then { s with reclaimFull := [] } else s

/-- Where no unit of a suspended context runs any more: a member reports it to the home, and the home, once every member has, answers its
CONTEXT_SUSPENDs (R291). -/
def State.reportQuiet (s : State) : State :=
  eachDo (s.ctxs.filter (fun p => p.2.running.isNone && (decide (p.2.suspendTickets ≠ []) || (!p.2.home && decide (p.2.awaitQuiet ≠ []))))) (fun p s =>
    let (n, c) := p
    if !c.home then
      eachDo c.awaitQuiet (fun q s => s.ringSend q 5 n (msgLength 5) (.announce .quiet)) (s.setCtx n { c with awaitQuiet := [] })
    else if c.awaitQuiet.all s.vacantPos then
      (s.setCtx n { c with suspendTickets := [], awaitQuiet := [] }).answerAll c.suspendTickets stOk
    else s) s

/-- CONTEXT_SUSPENDs that wait for nothing are answered (R291); pins whose replies have left are released (R23); every load that waits for space is tried, in variant order, then everything new that waits for it; streams that wait for a slot open (R167, R184); serving
parisons form and close (R209); and the contexts that have become ready join the turns (R281). -/
def State.settle (s : State) : State :=
  let s := s.releaseSent
  let s := eachDo s.vars.keys (fun id s => (s.tryLoad id).openMarked id) s
  let s := s.trySpaces
  let s := eachDo s.streams.keys (fun k s => match s.strm k with | some x => if x.desc = [] then s.tryOpen k else s | none => s) s
  s.reportQuiet.endReclaims.formAll.noteReady

/-- Settle after a step that goes on. -/
def settled (r : Res) : Res := r.bind (fun s => .next s.settle)

end Sys2Proof.Machine
end

