-- ==== Sys2Proof/Machine/Work.lean ====
section
/-! DEFINITION. How work ends: requests, steps, evaluations, programs and sessions (R28, R108, R126, R190, R200, R228,
R308, R394). -/

namespace Sys2Proof.Machine

/-! ## Requests (R200, R225 to R228) -/

/-- Bytes a context's queued samples take (R200). -/
def Ctx.queueBytes (c : Ctx) : Nat := 4 * (c.queue.map (fun q => q.tokens.length)).sum

/-- A sample enters the queue of its context, or is dropped and counted (R200). -/
def State.addSample (s : State) (ctx v : Nat) (tokens : List Nat) : State :=
  match s.ctx ctx with
  | some c =>
    if c.queueBytes + 4 * tokens.length ≤ 65536 * c.settings.sampleQueue then
      (s.setCtx ctx { c with queue := c.queue ++ [⟨v, tokens⟩] }).countTenant ctx tSamplesQueued tokens.length
    else s.countTenant ctx tSamplesDropped tokens.length
  | none => s

/-- Drop a request's rows from the parisons that have not started. -/
def State.dropRows (s : State) (ctx id : Nat) : State :=
  let keep (p : Parison) : Parison := { p with rows := p.rows.filter (fun r => decide (r.request ≠ id)) }
  s.modCtx ctx (fun c =>
    { c with openParison := (c.openParison.map keep).filter (fun p => decide (p.rows ≠ [])),
             closed := (c.closed.map keep).filter (fun p => decide (p.rows ≠ [])) })

/-- A request ends: its final reply, its sample, its key-value state and its pin (R23, R200, R228). -/
def State.endRequest (s : State) (id status : Nat) (reason : Option Nat) : State :=
  match s.requests.find id with
  | some r =>
    let s : State := { s with requests := s.requests.del id, hbmFree := s.hbmFree + r.kvPages }
    let s := s.dropRows r.ctx id
    let status := s.graded r.ctx status
    let s := s.submitFinal r.ticket status r.produced.length reason
    let s := if r.p.learn && decide (status = stOk) then s.addSample r.ctx r.variant (r.p.prompt ++ r.produced) else s
    s.unpinSent r.ticket r.variant (holderId id)
  | none => s

/-- Whether a request's row is in the parison that runs. -/
def State.computing (s : State) (r : Request) (id : Nat) : Bool :=
  match s.ctx r.ctx with
  | some c => match c.running with
    | some ⟨.parison p, _⟩ => p.rows.any (fun w => decide (w.request = id))
    | _ => false
  | none => false

/-- A request ends with a failure after the token it computes, or at once (R149, R170, R190, R228). -/
def State.endRequestSoon (s : State) (id status : Nat) : State :=
  match s.requests.find id with
  | some r =>
    if s.computing r id then
      { s with requests := s.requests.put id { r with ending := some ⟨status⟩ } }
    else s.endRequest id status none
  | none => s

/-- A CANCEL takes effect after the token the request is computing (R228). -/
def State.cancelRequest (s : State) (id : Nat) : State :=
  match s.requests.find id with
  | some r =>
    if s.computing r id then { s with requests := s.requests.put id { r with cancelled := true } }
    else s.endRequest id stOk (some 2)
  | none => s

/-- The requests that pass a test. -/
def State.requestsFor (s : State) (p : Request → Bool) : List Nat := (s.requests.keep (fun _ r => p r)).keys

/-! ## Steps (R28, R108, R126, R136, R394) -/

/-- Send a REDUCE message to every other holder of a variant. -/
def State.reduceAll (s : State) (v : Var) (variant : Nat) (m : ReduceMsg) : State := s.tellHolders v 3 (.reduce variant m)

/-- Change a step in progress. -/
def State.modStep (s : State) (v n : Nat) (f : TStep → TStep) : State :=
  { s with steps := s.steps.map (fun t => if t.variant = v && t.number = n then f t else t) }

/-- A home has no room for a layer's expert values: the token's module exhausts the layer as its forward pass ends (R107). -/
def State.takeHomeFull (s : State) (variant n microBatch layer : Nat) : State :=
  s.modStep variant n (fun t => if t.leader then { t with homeFull := t.homeFull ++ [(microBatch, layer)] } else t)

/-- Take a step out. -/
def State.dropStep (s : State) (v n : Nat) : State :=
  { s with steps := s.steps.filter (fun t => !(decide (t.variant = v) && decide (t.number = n))) }

/-- The reply parameters of STEP (R344). -/
def TStep.params (t : TStep) (cause generation : Nat) : List (Nat × Bytes) :=
  [p64 0x81 t.number, p8 0x82 cause, p32 0x83 (pairSum t.losses).toNat, p64 0x84 t.tokens, p64 0x85 generation]

/-- The stash events of a step, raised once at its end (R108). -/
def State.stashEvents (s : State) (t : TStep) : State :=
  let seq := match t.ticket with | some k => k.seq | none => 0
  let s := if 0 < t.spillPeak then
    s.raiseCtx evStashSpill t.ctx seq t.number t.variant [p32 0x90 ((t.spillPeak + 65535) / 65536)] else s
  if t.recomputed = [] then s
  else s.raiseCtx evStashRecompute t.ctx seq t.number t.variant
    [p16 0x90 t.recomputed.length, p8 0x91 ((t.recomputed.map (fun r => r.2)).foldl min 255), p32 0x92 t.recomputeForwards]

/-- A snapshot of a context's tenant counters (R295). -/
def State.snapCtx (s : State) (ctx : Nat) : State := s.modCtx ctx Ctx.snap

/-- The record of a step in its variant's log completed or removed (R394). -/
def State.closeRecord (s : State) (v n : Nat) (f : LogRecord → Option LogRecord) : State :=
  s.modVar v (fun w => { w with log := w.log.filterMap (fun r => if r.kind = .opened && r.step = n then f r else some r) })

/-- Whether values kept for a backward pass are a step's. -/
def HomeStash.ofStep (h : HomeStash) (ctx variant step : Nat) : Bool :=
  decide (h.ctx = ctx) && decide (h.variant = variant) && decide (h.step = step)

/-- Whether a schedule is SERIAL (R118). -/
def serial (schedule : Nat) : Bool := decide (schedule = 0)

/-- The number of a step that ended without commit is given again to the next step under SERIAL: where every later step still waits,
these and their open records move down by one (R126, DEDUCED, assumption log 16); where one has begun, its number stands. A replayed
step's number goes back only where the replay `ends` with it: the next record takes it otherwise (R398). -/
def State.returnNumber (s : State) (t : TStep) (ends : Bool) : State :=
  let later (x : TStep) : Bool := decide (x.variant = t.variant) && decide (t.number < x.number) && x.replay.isNone
  if serial t.schedule && (t.replay.isNone || ends) && s.steps.all (fun x => !later x || decide (x.phase = .waiting)) then
    let s := s.modVar t.variant (fun v =>
      { v with largestGiven := v.largestGiven - 1,
               log := v.log.map (fun r => if r.kind = .opened && t.number < r.step then { r with step := r.step - 1 } else r) })
    { s with steps := s.steps.map (fun x => if later x then { x with number := x.number - 1 } else x) }
  else s

/-- The staged state of a step that ends without commit is discarded, with its gradients and the sets it left with the homes (R105, R110,
R129, R130); those of other steps in flight stay (R131). -/
def State.discardStaged (s : State) (t : TStep) : State :=
  State.modVar { s with homeStash := s.homeStash.filter (fun h => !h.ofStep t.ctx t.variant t.number) } t.variant
    (fun v => v.mapTensors (fun i x => if t.updateSet.contains i then { x with staged := none, grads := x.grads.del t.id } else x))

/-- The generation a variant's replies name. -/
def State.generation (s : State) (v : Nat) : Nat := match s.var v with | some w => w.generation | none => 0

/-- A step's reply, when a session waits for one, and the release of its pin (R188). -/
def State.replyStep (s : State) (t : TStep) (status cause : Nat) : State :=
  let s := match t.ticket with
    | some k => if t.replay.isSome then s else s.answerWith k status (t.params cause (s.generation t.variant))
    | none => s
  if t.pinned then s.unpin t.variant (holderId t.id) else s

/-- A replay ends with the failure of one of its steps (R350, R398). -/
def State.failReplay (s : State) (t : TStep) (status cause : Nat) : State :=
  match s.replays.find? (fun r => decide (r.variant = t.variant) && t.replay.isSome) with
  | some r =>
    let s : State := { s with replays := s.replays.filter (fun x => decide (x.variant ≠ t.variant)) }
    s.answerWith r.ticket status (t.params cause (s.generation t.variant))
  | none => s

/-- A step ends before its flip with a failure: staged state discarded, its record removed or PASSED, its number given
again under SERIAL, stash events, snapshot, reply and pin (R26, R28, R126, R394). -/
def State.abandonStep (s : State) (v n status : Nat) : State :=
  match s.findStep v n with
  | some t =>
    let s := match s.var v with
      | some w => if t.leader && decide (t.phase ≠ Phase.waiting) then s.reduceAll w v (.abandon n status) else s
      | none => s
    let s := (s.dropStep v n).discardStaged t
    let s := if t.replay.isSome then s
      else
        let exps := match s.var v with | some w => w.sExp | none => []
        s.closeRecord v n (fun r =>
          if serial t.schedule then none else some { r with kind := .passed, samples := [], generations := [], sAfter := exps })
    let s := ((s.returnNumber t true).stashEvents t).snapCtx t.ctx
    (s.failReplay t status 0).replyStep t status 0
  | none => s

/-- Whether a unit of a step runs now. -/
def State.stepBusy (s : State) (t : TStep) : Bool :=
  match s.ctx t.ctx with
  | some c => match c.running with
    | some ⟨.micro v n _, _⟩ => decide (v = t.variant) && decide (n = t.number)
    | some ⟨.update v n, _⟩ => decide (v = t.variant) && decide (n = t.number)
    | _ => false
  | none => false

/-- A step must end at its next micro-batch boundary; past its flip it stands (R28, R190). -/
def State.endStepSoon (s : State) (v n status : Nat) : State :=
  match s.findStep v n with
  | some t =>
    if t.phase = .flipped then s
    else if s.stepBusy t then s.modStep v n (fun t => { t with ending := some (t.ending.getD ⟨status⟩) })
    else s.abandonStep v n status
  | none => s

/-- Something happens to every step that passes a test, in their order, each under the number it has by then: the end of one
may give its number to the next (R126). -/
def State.eachStep (s : State) (p : TStep → Bool) (f : Nat → Nat → State → State) : State :=
  eachDo ((s.steps.filter p).map (fun t => t.id)) (fun id s =>
    match s.steps.find? (fun t => decide (t.id = id)) with | some t => f t.variant t.number s | none => s) s

/-! ## Forced evictions and lost state (R149, R190) -/

/-- End every use that holds a pin on a variant (R190); exports complete. -/
def State.endUses (s : State) (v status : Nat) : State :=
  let s := eachDo (s.requestsFor (fun r => decide (r.variant = v))) (fun id s => s.endRequestSoon id status) s
  let s := s.eachStep (fun t => decide (t.variant = v)) (fun v n s => s.endStepSoon v n status)
  eachDo (s.evalsFor (fun e => decide (e.variant = v))) (fun id s => s.endEvalSoon id status) s

/-- The parked uses of a variant that hold pins end (R190: SUBMIT parked, ADAPTER_LOST). -/
def State.endPinnedParked (s : State) (v status : Nat) : State :=
  s.unpark (fun p => decide (p.variant = v) && p.pinned) (fun x s => s.endUse x.ticket status)

/-- An eviction begins, or a waiting one is made forced (R182, R189, R190). -/
def State.beginEvict (s : State) (v : Nat) (forced : Bool) : State :=
  let s := s.modVar v (fun w => { w with st := .evicting, force := w.force || forced })
  let s := s.endRepeats v stAdapterLost
  let s := if forced then (s.endPinnedParked v stAdapterLost).endUses v stAdapterLost else s
  s.advanceEvict v

/-- The exports that read a variant's committed state end with ADAPTER_LOAD_FAILED (R149, R197). -/
def State.loseExports (s : State) (v : Nat) : State :=
  eachDo (s.streamsFor (fun x => !x.discard && (match x.use with | .exporting _ w _ _ _ => decide (w = v) | _ => false))) (fun k s =>
    match s.strm k with
    | some x =>
      (match x.use with
       | .exporting t w _ _ _ => ((s.answer t stAdapterLoadFailed).abandonStrm k).unpin w (holderId k)
       | _ => s)
    | none => s) s

/-- Committed state of a variant is lost (R149, R182, R185, R404): steps past their flip end at once, other uses as
R149 states, parked uses at once, EVICTs answered OK. -/
def State.loseVariant (s : State) (v : Nat) : State :=
  match s.var v with
  | some w =>
    let s := (s.ungetVar v).releaseHbm v
    let s := s.abandonAll (fun x => x.use = .load v || x.use = .writeOut v || x.use = .logPage v)
    let s := s.loseExports v
    let s := s.modVar v (fun w => { w with st := .lost, tensors := [], active := false, force := false, evictTickets := [], manifestPage := 0 })
    let s := s.endParked v stAdapterLoadFailed
    let s := s.eachStep (fun t => decide (t.variant = v) && decide (t.phase = .flipped)) (fun v n s =>
      match s.findStep v n with
      | some t => (((s.dropStep v n).stashEvents t).snapCtx t.ctx).replyStep t stAdapterLoadFailed 0
      | none => s)
    let s := s.endUses v stAdapterLoadFailed
    let s := s.answerAll w.evictTickets stOk
    if w.destroyTickets ≠ [] then s.becomeFree v
    else if w.restore.isSome then s.wantRestore v false else s
  | none => s

/-! ## Programs (R356) -/

/-- A program ends: its final reply, its streams, and the turn it held. Other RUN_PROGRAMs of the context follow. -/
def State.endProgram (s : State) (ctx status : Nat) : State :=
  match s.ctx ctx with
  | some c =>
    match c.prog with
    | some p =>
      let s := s.abandonAll (fun x => decide (x.ctx = ctx) && (match x.use with | .program _ => true | _ => false))
      let s := s.setCtx ctx { c with prog := none }
      s.answerWith p.ticket status
        ([p32 0x81 p.index] ++ (if status ≤ stOkDegraded then [] else [p32 0x82 p.index]))
    | none => s
  | none => s

/-- The RUN_PROGRAMs that wait in a context end. -/
def State.endWaitingRuns (s : State) (ctx status : Nat) : State :=
  match s.ctx ctx with
  | some c => eachDo c.runQueue (fun r s => s.answerWith r.1 status [p32 0x81 0, p32 0x82 0]) (s.setCtx ctx { c with runQueue := [] })
  | none => s

/-! ## Sessions (R308) -/

/-- The replies queued on a session, without its events. -/
def Session.replies (ss : Session) : List Packet := ss.egress.filterMap (fun g => match g with | .reply p => some p | _ => none)

/-- Parked SUBMITs end as cancelled, with OK: a learn one adds its prompt as a sample (R200, R228, R308). -/
def State.cancelParked (s : State) (p : Parked → Bool) : State :=
  s.unpark (fun x => decide (x.ticket.opcode = opSubmit) && p x) (fun x s =>
    let s := s.submitFinal x.ticket stOk 0 (some 2)
    match x.use with
    | .submit _ q => if q.learn then s.addSample x.ctx x.variant q.prompt else s
    | _ => s)

/-- Whether a parked use is a repeating EVAL. -/
def repeatingEval : Instr → Bool
  | .eval _ _ _ every => decide (0 < every)
  | _ => false

/-- Parked repeating EVALs end with OK (R205, R308, R352). -/
def State.cancelParkedEval (s : State) (p : Parked → Bool) : State :=
  s.unpark (fun x => repeatingEval x.use && p x) (fun x s => s.answer x.ticket (s.graded x.ctx stOk))

/-- A session closes (R308): its SUBMITs are cancelled, its repeating EVALs end with no reply, its events are discarded.
`flush` sends the replies already produced, as a pair that goes on living still carries them. -/
def State.closeSession (s : State) (n : Nat) (flush : Bool) (next : QpState) : State :=
  match s.sessions.find n with
  | some ss =>
    let s := if flush then eachDo ss.replies (fun p s => s.emit (.packet p)) s else s
    let s : State := { s with sessions := s.sessions.del n }
    let s := s.modQp ss.qp (fun q => { q with st := next })
    let s := eachDo (s.requestsFor (fun r => decide (r.ticket.serial = ss.serial))) (fun id s => s.cancelRequest id) s
    let s := s.cancelParked (fun p => decide (p.ticket.serial = ss.serial))
    let s := s.cancelParkedEval (fun p => decide (p.ticket.serial = ss.serial))
    eachDo (s.evalsFor (fun e => decide (e.ticket.serial = ss.serial) && decide (0 < e.every))) (fun id s => s.endEvalSoon id stOk) s
  | none => s

/-! ## The work of a context at reset or destroy (R292, R294) -/

/-- A program's stream ends: its slot keeps the status for WAIT_STREAM (R355, R358). -/
def State.endSlot (s : State) (k : Nat) (x : Strm) (status : Nat) : State :=
  let s := match x.later with | some t => s.answerWith t status [p32 0x82 x.position] | none => s
  let s := if x.outstanding = [] && decide (status ≠ stOk) then s.zeroBuffer x.desc else s
  s.modStrm k (fun x => { x with st := .ended status, later := none, discard := decide (status ≠ stOk) })

/-- Streams of a context stop: those of commands and of a program that runs end with CONTEXT_GONE, the rest go (R174). -/
def State.stopStreams (s : State) (ctx status : Nat) : State :=
  eachDo (s.ctxStreams ctx) (fun k s =>
    match s.strm k with
    | some x =>
      let s := match x.use with
        | .command t => (match x.st with | .halted _ _ => s | _ => s.answerWith t status [p32 0x82 x.position])
        | .importing t _ _ => s.answer t status
        | .exporting t v _ _ _ => (s.answer t status).unpin v (holderId k)
        | _ => s
      match x.use, (match s.ctx ctx with | some c => c.prog.isSome | none => false) with
      | .program _, true => s.endSlot k x status
      | _, _ => s.abandonStrm k
    | none => s) s

/-- The parked uses of a context end with CONTEXT_GONE (R187, R292 step 4). -/
def State.endCtxParked (s : State) (ctx status : Nat) : State :=
  s.unpark (fun p => decide (p.ctx = ctx)) (fun x s => s.endUse x.ticket status)

/-- The replies at the front of a session's queue leave. -/
def State.flushReplies (s : State) (n : Nat) (l : List Egress) : State :=
  match l with
  | .reply p :: rest => (s.emit (.packet p)).flushReplies n rest
  | _ => s.modSession n (fun ss => { ss with egress := l })

/-- Events of a context's ended incarnation leave every queue (R290); replies that no event precedes any more leave the module (R288). -/
def State.dropEvents (s : State) (ctx : Nat) : State :=
  let s : State :=
    { s with sessions := s.sessions.each (fun _ ss =>
        { ss with egress := ss.egress.filter (fun g => match g with | .event e => decide (e.ctx ≠ some ctx) | .reply _ => true) }) }
  eachDo s.sessions (fun x s => if s.paused x.2.qp s.profile.cmdPriority then s else s.flushReplies x.1 x.2.egress) s

/-- Whether something on a session's queue is an intermediate reply of a SUBMIT of a context. -/
def Egress.tokenOf (ctx : Nat) : Egress → Bool
  | .reply p => !p.final && decide (p.opcode = 0x8000 + opSubmit) && decide (p.ctx = ctx)
  | .event _ => false

/-- Tokens whose replies still wait on a session's queue are not returned (R292 step 2). -/
def State.dropTokens (s : State) (ctx : Nat) : State :=
  let unsent (q : Request) : Nat := match s.sessions.find q.ticket.session with
    | some ss => (ss.egress.filter (fun g => g.tokenOf ctx && (match g with | .reply p => decide (p.seq = q.ticket.seq) | .event _ => false))).length
    | none => 0
  { s with
    requests := s.requests.each (fun _ q => if q.ctx = ctx then { q with produced := q.produced.take (q.produced.length - unsent q) } else q),
    sessions := s.sessions.each (fun _ ss => { ss with egress := ss.egress.filter (fun g => !g.tokenOf ctx) }) }

/-- Steps 2 to 4 of R292: the work of a context ends as it can; what runs ends at its next preemption point. -/
def State.endCtxWork (s : State) (ctx : Nat) : State :=
  let s := s.dropTokens ctx
  let s := s.eachStep (fun t => decide (t.ctx = ctx)) (fun v n s => s.endStepSoon v n stContextGone)
  let s := eachDo (s.requestsFor (fun r => decide (r.ctx = ctx))) (fun id s => s.endRequestSoon id stContextGone) s
  let s := eachDo (s.evalsFor (fun e => decide (e.ctx = ctx))) (fun id s => s.endEvalSoon id stContextGone) s
  let s := s.dropEvents ctx
  let s := (s.stopStreams ctx stContextGone).endCtxParked ctx stContextGone
  let s := (s.endWaitingRuns ctx stContextGone).endVarWaits ctx stContextGone
  let busy := match s.ctx ctx with | some c => (match c.running with | some ⟨.program, _⟩ => true | _ => false) | none => false
  if busy then s else s.endProgram ctx stContextGone

end Sys2Proof.Machine
end

