-- ==== Sys2Proof/Machine/Contexts.lean ====
section
/-! DEFINITION. Contexts: creation and placement, suspension, shares, reset and destroy (R273 to R294, R331 to R336,
R421, R422). -/

namespace Sys2Proof.Machine

/-! ## Settings (R103, R186, R200, R208, R276, R331) -/

/-- Whether what is given passes. -/
def given {α : Type} (o : Option α) (f : α → Bool) : Bool := match o with | some a => f a | none => true

/-- A cap or share in percent: 5 to 100 in steps of 5 (R276). -/
def capOk (v : Nat) : Bool := decide (5 ≤ v) && decide (v ≤ 100) && decide (v % 5 = 0)

/-- The three caps (R276). -/
def capsOk (c : Caps) : Bool := capOk c.read && capOk c.write && capOk c.remote

/-- A tile share or ring share (R276). -/
def weightOk (n v : Nat) : Bool := decide (1 ≤ v) && decide (v ≤ n)

/-- The ranges of CONTEXT_CREATE's parameters (R103, R154, R186, R200, R208, R276, R324, R331). -/
def createInRange (p : CreateParams) : Bool :=
  given p.groupSize (fun v => [1, 2, 4, 8, 16, 32, 64, 128, 256].contains v) &&
  given p.groupFirst (fun v => decide (v < 256) && decide (v % p.groupSize.getD 64 = 0)) &&
  given p.tileAlloc (fun v => decide (1 ≤ v) && decide (v ≤ 32)) && given p.weight (weightOk 65535) && given p.caps capsOk &&
  given p.ringWeight (weightOk 255) &&
  given p.stash (fun t => decide (t.region ≤ 16) && decide (t.policy ≤ 1) && decide (t.spill ≤ 1024)) &&
  given p.parison (fun q => decide (256 ≤ q.fillRows) && decide (q.fillRows ≤ 65536) && decide (1 ≤ q.holdLimit) &&
    decide (q.holdLimit ≤ 10000) && decide (16 ≤ q.prefillChunk) && decide (q.prefillChunk ≤ 65536) &&
    decide (q.trainShare ≤ 100)) &&
  given p.parkLimit (fun v => decide (1 ≤ v) && decide (v ≤ 8192)) &&
  given p.variantGrant (fun g => decide (g.1 + g.2 ≤ 131072)) && given p.sampleQueue (fun v => decide (v ≤ 65536)) &&
  given p.replica (fun r => decide (r.1 ≤ 1) && decide (16 ≤ r.2) && decide (r.2 ≤ 4096)) &&
  given p.extents (fun l => decide (1 ≤ l.length) && decide (l.length ≤ 16)) && given p.pageStore Region.aligned

/-- The stash region a context will use, in units of 256 KiB: none in transport mode (R103, R111). -/
def regionOf (f : Profile) (p : CreateParams) : Nat := if f.layer = 1 then 0 else (p.stash.getD ⟨16, 0, 32⟩).region

/-- The settings as given or defaulted; an omitted share takes the profile's (R276). -/
def settingsOf (f : Profile) (p : CreateParams) (groupFirst : Nat) (extents : List (Nat × Nat)) : Settings :=
  { groupSize := p.groupSize.getD 64, groupFirst := groupFirst, tileAlloc := p.tileAlloc.getD 8,
    weight := p.weight.getD f.weight, caps := p.caps.getD f.caps, ringWeight := p.ringWeight.getD f.ringWeight,
    watch := p.watch.getD false, stash := p.stash.getD ⟨16, 0, 32⟩, region := regionOf f p,
    spillArea := if f.layer = 1 then 0 else (p.stash.getD ⟨16, 0, 32⟩).spill, parison := p.parison.getD ⟨1024, 512, 200, 25⟩,
    parkLimit := p.parkLimit.getD 256, variantFirst := (p.variantGrant.getD (0, 0)).1,
    variantCount := (p.variantGrant.getD (0, 0)).2, slotGrant := p.slotGrant.getD [], pageStore := p.pageStore,
    seedGiven := p.seed, sampleQueue := p.sampleQueue.getD 64, replicaPolicy := (p.replica.getD (0, 64)).1,
    digestInterval := (p.replica.getD (0, 64)).2, extents := extents }

/-! ## Grants (R176, R193) -/

/-- Whether a variant grant overlaps another context's (R176). -/
def State.grantTaken (s : State) (g : Nat × Nat) : Bool :=
  s.ctxs.vals.any (fun c => overlaps g.1 g.2 c.settings.variantFirst c.settings.variantCount)

/-- Whether a slot is granted to another context (R193). -/
def State.slotTaken (s : State) (l : List Nat) : Bool :=
  s.ctxs.vals.any (fun c => l.any (fun n => c.settings.slotGrant.contains n))

/-! ## Placement on the tiles (R277, R279) -/

/-- Whether a context's group meets a block of tiles. -/
def groupMeets (st : Settings) (first size : Nat) : Bool := overlaps st.groupFirst st.groupSize first size

/-- The contexts whose groups meet a block. -/
def State.neighbours (s : State) (first size : Nat) : List Ctx := s.ctxs.vals.filter (fun c => groupMeets c.settings first size)

/-- The lowest base, in 256 KiB units, at which an allocation and a stash region can be placed on every tile of a group
(R279): clear of the allocations there, below the stash area the tiles would then have, which may not reach down over an
allocation. -/
def State.placeAt (s : State) (first size alloc stash : Nat) : Option Nat :=
  let l := s.neighbours first size
  let top := 32 - l.foldl (fun m c => max m c.settings.region) stash
  if l.any (fun c => decide (32 - stash < c.tileBase + c.settings.tileAlloc)) then none
  else (List.range 33).find? (fun b => decide (b + alloc ≤ top) &&
    l.all (fun c => !overlaps b alloc c.tileBase c.settings.tileAlloc))

/-- One past the last tile a context's group may take (R277, R278). -/
def State.groupLimit (s : State) : Nat := 256 - 16 * s.profile.expertTiles

/-- The aligned groups of a size that are clear of the expert tile group. -/
def State.clearGroups (s : State) (size : Nat) : List Nat :=
  ((List.range (256 / size)).map (· * size)).filter (fun g => decide (g + size ≤ s.groupLimit))

/-- Where a context goes (R277, R279): its group and tile_base, or the status that refuses it. -/
def State.placeGroup (s : State) (p : CreateParams) : Sum Nat (Nat × Nat) :=
  let size := p.groupSize.getD 64
  let alloc := p.tileAlloc.getD 8
  let stash := regionOf s.profile p
  let groups := match p.groupFirst with
    | some g => if g + size ≤ s.groupLimit then [g] else []
    | none => s.clearGroups size
  if groups = [] then .inl stNotPermitted
  else match groups.findSome? (fun g => (s.placeAt g size alloc stash).map (fun b => (g, b))) with
    | some x => .inr x
    | none => .inl stTableFull

/-! ## HBM (R150, R154, R273) -/

/-- The lowest 64 MiB-aligned address at which an extent fits beside those in use. -/
def gapAt (used : List (Nat × Nat)) (size limit : Nat) : Nat → Nat → Option Nat
  | 0, _ => none
  | fuel + 1, a =>
    if limit < a + size then none
    else match used.find? (fun u => overlaps a size u.1 u.2) with
      | some u => gapAt used size limit fuel ((u.1 + u.2 + mib64 - 1) / mib64 * mib64)
      | none => some a

/-- What an extent may not take: the module area, the base extent, every context's extents and the pages retired (R149, R150, R154). -/
def State.usedExtents (s : State) : List (Nat × Nat) :=
  (hbmBase, 65536 * moduleAreaPages) :: (match s.base.extent with | some x => [x] | none => []) ++
    s.ctxs.vals.flatMap (fun c => c.settings.extents) ++ s.hbmRetired.map (fun p => (hbmBase + 65536 * p, 65536))

/-- Extents of the sizes given, in units of 64 MiB, placed in the order requested (R154). -/
def State.placeExtents (s : State) : List Nat → List (Nat × Nat) → Option (List (Nat × Nat))
  | [], done => some done
  | n :: ns, done =>
    let used := s.usedExtents ++ done
    match gapAt used (n * mib64) (hbmEnd s.fuses.grade) (used.length + 1) hbmBase with
    | some a => s.placeExtents ns (done ++ [(a, n * mib64)])
    | none => none

/-- HBM pages a context holds itself: its spill area, its sample queue and its extents. -/
def Settings.hbmPages (st : Settings) : Nat :=
  st.spillArea * 1024 + st.sampleQueue + (st.extents.map (fun x => x.2 / 65536)).sum

/-! ## Creation (R273, R274, R421, R422) -/

/-- The number of creations and resets of a context number since boot. -/
def State.createCount (s : State) (n : Nat) : Nat := s.createCounts.getOr n 0

/-- The next incarnation: boot count above, count below (R274). -/
def State.nextIncarnation (s : State) (n : Nat) : Nat := s.flash.bootCount % 65536 * 65536 + (s.createCount n + 1) % 65536

/-- The UID of a creation (R421). -/
def State.newUid (s : State) (n : Nat) : Bytes :=
  leBytes 8 s.fuses.serial ++ leBytes 4 s.flash.bootCount ++ leBytes 2 n ++ leBytes 2 (s.createCount n + 1)

/-- A context as it is created. -/
def newCtx (home : Bool) (inc : Nat) (uid : Bytes) (salt : Option Bytes) (seed tileBase : Nat) (st : Settings)
    (t : Option Ticket) : Ctx :=
  { st := .creating, home := home, incarnation := inc, uid := uid, salt := salt, seed := seed, pageSeq := 0, settings := st,
    tileBase := tileBase, keys := [], halted := [], v := 0, starts := [], schedule := 0, queue := [],
    counters := List.replicate 11 Counter.zero, snapshot := List.replicate 11 0, unitsSince := 0, createTicket := t,
    destroyTickets := [], resetTickets := [], suspendTickets := [], awaitQuiet := [], openParison := none, closed := [], running := none,
    stash := [], windows := [], programs := [],
    runQueue := [], prog := none, nextStream := 1, nextParison := 0, present := false }

/-- The salt and seed of a new incarnation: drawn, the seed only when none was given (R274, R413, R422). -/
def State.drawLife (s : State) (given : Option Nat) : Bytes × Nat × State :=
  let (salt, s) := s.draw 32
  match given with
  | some k => (salt, k, s)
  | none => let (b, s) := s.draw 8; (salt, leNat b, s)

/-- The context enters CREATING here and is announced, at once or when its space has come (R273). -/
def State.placeCtx (s : State) (n : Nat) (p : CreateParams) (t : Ticket) (st : Settings) (base : Nat) (now : Bool) : State :=
  let inc := s.nextIncarnation n
  let uid := s.newUid n
  let (salt, seed, s) := s.drawLife p.seed
  let s : State := { s with createCounts := s.createCounts.put n (s.createCount n + 1) }
  let s := s.setCtx n (newCtx true inc uid (some salt) seed base st (some t))
  let msg : AnnounceMsg := .created inc uid st.groupFirst base { p with seed := some seed }
  if now then s.ringBroadcast 5 n (msgLength 5) (.announce msg) else s.waitHbm st.hbmPages (.context n msg)

/-- The home's part of a creation: grants, placement, then HBM (R176, R193, R273 to R279). -/
def State.createCtx (s : State) (n : Nat) (p : CreateParams) (t : Ticket) : State :=
  if !createInRange p then s.answer t stNotPermitted
  else if s.grantTaken (p.variantGrant.getD (0, 0)) || s.slotTaken (p.slotGrant.getD []) then s.answer t stNotPermitted
  else if 0xFFFF ≤ s.createCount n then s.answer t stTableFull
  else match s.placeGroup p with
    | .inl status => s.answer t status
    | .inr (g, base) =>
      match s.placeExtents (if s.transport then p.extents.getD [] else []) [] with
      | none => s.answer t stBusy
      | some ext =>
        let st := settingsOf s.profile p g ext
        let (space, s) := s.needHbm st.hbmPages
        match space with
        | some now => s.placeCtx n p t st base now
        | none => s.answer t stBusy

/-- CONTEXT_CREATE (R331): a page store is required in service mode, extents in transport mode (R302). -/
def execContextCreate (c : Cmd) (p : CreateParams) (s : State) : Res :=
  gaffer opContextCreate c (fun t s =>
    if (!s.transport && p.pageStore.isNone) || (s.transport && p.extents.isNone) then .fault .malformedBody
    else settled (.next (s.createCtx c.ctx p t))) s

/-- The reply of a creation (R331). -/
def State.createParams (s : State) (x : Ctx) : List (Nat × Bytes) :=
  [(0x81, x.uid), p32 0x82 x.incarnation, p16 0x83 x.settings.groupFirst] ++
  (if s.transport then [(0x84, x.settings.extents.flatMap (fun e => leBytes 8 e.1))] else []) ++
  [p32 0x85 (x.tileBase * 0x40000)]

/-- What a context holds goes back, zeroed (R151, R294). -/
def State.zeroCtx (s : State) (x : Ctx) : State :=
  let m := x.settings.extents.foldl (fun m e => zeroRange m e.1 e.2) s.mem
  let m := x.settings.group.foldl (fun m t =>
    zeroRange m (tileAddr t (x.tileBase * 0x40000)) (x.settings.tileAlloc * 0x40000)) m
  { s with mem := m }

/-- A context number becomes FREE (R273, R294). -/
def State.freeCtx (s : State) (n : Nat) : State :=
  match s.ctx n with
  | some x =>
    let held := if s.ctxWaits n then 0 else x.settings.hbmPages
    let s := (s.zeroCtx x).dropCtxWait n
    { s with ctxs := s.ctxs.del n, hbmFree := s.hbmFree + held }
  | none => s

/-- CONTEXT_CREATE_COMPLETE (R273): every member has placed its presence, or one refuses; while the home itself waits for
space there is nothing to complete. -/
def execContextCreateComplete (ctx : Nat) (refusal : Option Nat) (s : State) : Res :=
  match s.ctx ctx with
  | some x =>
    if x.st = .creating && x.home && !s.ctxWaits ctx then
      match x.createTicket with
      | none => .next s
      | some t =>
        match refusal with
        | some status => settled (.next (((s.freeCtx ctx).ringBroadcast 5 ctx (msgLength 5) (.announce .gone)).answer t status))
        | none =>
          let s := s.setCtx ctx { x with st := .active, createTicket := none }
          .next (s.answerWith t stOk (s.createParams x))
    else .next s
  | none => .next s

/-! ## Suspension and shares (R276, R291, R334 to R336) -/

/-- CONTEXT_SUSPEND (R291): answered once no unit of the context runs on any member. -/
def execContextSuspend (c : Cmd) (s : State) : Res :=
  gaffer opContextSuspend c (fun t s =>
    if s.ctxState c.ctx = .suspended then .next (s.answer t stOk)
    else
      settled (.next ((s.modCtx c.ctx (fun x =>
        { x with suspendTickets := x.suspendTickets ++ [t], awaitQuiet := s.otherMembers })).enterState c.ctx .suspended))) s

/-- CONTEXT_RESUME (R291, R403): a halt ends with it. -/
def execContextResume (c : Cmd) (s : State) : Res :=
  gaffer opContextResume c (fun t s =>
    if s.ctxState c.ctx = .suspended then
      settled (.next (((s.modCtx c.ctx (fun x => { x with halted := [] })).enterState c.ctx .active).answer t stOk))
    else .next (s.answer t stOk)) s

/-- CONTEXT_SHARES (R276, R336). -/
def execContextShares (c : Cmd) (weight : Option Nat) (caps : Option Caps) (ringWeight : Option Nat) (s : State) : Res :=
  gaffer opContextShares c (fun t s =>
    if !(given weight (weightOk 65535) && given caps capsOk && given ringWeight (weightOk 255)) then
      .next (s.answer t stNotPermitted)
    else
      let s := s.modCtx c.ctx (fun x =>
        { x with settings := { x.settings with
            weight := weight.getD x.settings.weight, caps := caps.getD x.settings.caps,
            ringWeight := ringWeight.getD x.settings.ringWeight } })
      .next (s.answer t stOk)) s

/-! ## Reset (R290, R292, R293) -/

/-- What no longer starts when a context's life ends: parisons that form or wait. -/
def State.dropForming (s : State) (ctx : Nat) : State :=
  s.modCtx ctx (fun x => { x with openParison := none, closed := [] })

/-- CONTEXT_SUSPENDs that wait end with the life of the context. -/
def State.endSuspends (s : State) (ctx : Nat) : State :=
  match s.ctx ctx with
  | some x => (s.setCtx ctx { x with suspendTickets := [], awaitQuiet := [] }).answerAll x.suspendTickets stContextGone
  | none => s

/-- CONTEXT_RESET (R292 steps 1 to 5, R293). -/
def execContextReset (c : Cmd) (s : State) : Res :=
  gaffer opContextReset c (fun t s =>
    match s.ctx c.ctx with
    | none => .next (s.answer t stContextGone)
    | some x =>
      if x.st = .resetting then .next (s.setCtx c.ctx { x with resetTickets := x.resetTickets ++ [t] })
      else if 0xFFFF ≤ s.createCount c.ctx then .next (s.answer t stTableFull)
      else
        let s := (s.setCtx c.ctx { x with resetTickets := [t] }).enterState c.ctx .resetting
        settled (.next (((s.dropForming c.ctx).endSuspends c.ctx).endCtxWork c.ctx))) s

/-- Whether any work of a context is left: a running unit, a step, request or evaluation, a program, a stream, a parked
use. -/
def State.workLeft (s : State) (n : Nat) : Bool :=
  (match s.ctx n with | some x => x.running.isSome || x.prog.isSome || decide (x.runQueue ≠ []) | none => false) ||
  s.steps.any (fun t => decide (t.ctx = n)) || s.requests.vals.any (fun r => decide (r.ctx = n)) ||
  s.evals.vals.any (fun e => decide (e.ctx = n)) || s.streams.vals.any (fun x => decide (x.ctx = n)) ||
  s.park.any (fun p => decide (p.ctx = n))

/-- Replays of a context end with its life. -/
def State.endReplays (s : State) (n : Nat) : State :=
  let gone := s.replays.filter (fun r => decide (r.ticket.ctx = n))
  let s : State := { s with replays := s.replays.filter (fun r => decide (r.ticket.ctx ≠ n)) }
  s.answerAll (gone.map (fun r => r.ticket)) stContextGone

/-- The variants of a context. -/
def State.varsOf (s : State) (n : Nat) : List Nat := (s.vars.keep (fun _ v => decide (v.ctx = n))).keys

/-- Bundles and expert stash values of a context are dropped (R223, R292 step 5). -/
def State.dropBundles (s : State) (n : Nat) : State :=
  { s with bundles := s.bundles.filter (fun b => b.running.isSome || decide (b.b.ctx ≠ n)),
           homeStash := s.homeStash.filter (fun h => decide (h.ctx ≠ n)) }

/-- Every variant of a context is destroyed, its bundles and stash go (R292 steps 5 and 6). -/
def State.clearCtx (s : State) (n : Nat) : State :=
  eachDo (s.varsOf n) (fun v s => s.becomeFree v) ((s.endReplays n).dropBundles n)

/-- CONTEXT_RESET as an event (R292 step 8). -/
def resetEvent (ctx old inc cause : Nat) : Event :=
  { code := evContextReset, ctx := some ctx, incarnation := inc, causeSeq := cause, step := 0, variant := 0,
    params := [p32 0x90 old, p32 0x91 inc] }

/-- The new life of a context (R274, R292 step 7). -/
def Ctx.reborn (x : Ctx) (inc : Nat) (salt : Bytes) (seed : Nat) : Ctx :=
  { newCtx x.home inc x.uid (some salt) seed x.tileBase x.settings none with st := .active, keys := x.keys }

/-- RESET_COMPLETE (R292 steps 5 to 8). -/
def execResetComplete (ctx : Nat) (s : State) : Res :=
  match s.ctx ctx with
  | some x =>
    if x.st = .resetting && x.home && !s.workLeft ctx then
      let s := (s.clearCtx ctx).zeroCtx x
      let inc := s.nextIncarnation ctx
      let (salt, seed, s) := s.drawLife x.settings.seedGiven
      let s : State := { s with createCounts := s.createCounts.put ctx (s.createCount ctx + 1) }
      let s := s.setCtx ctx (x.reborn inc salt seed)
      let s := s.ringBroadcast 5 ctx (msgLength 5) (.announce (.incarnation inc seed))
      let s := s.raise (resetEvent ctx x.incarnation inc (match x.resetTickets with | t :: _ => t.seq | [] => 0))
      let s := eachDo x.resetTickets (fun t s => s.answerWith t stOk [p32 0x81 inc]) s
      settled (.next s)
    else .next s
  | none => .next s

/-! ## Destroy (R293, R294) -/

/-- CONTEXT_DESTROY (R294 steps 1 and 2): a reset in progress becomes the destroy (R293). -/
def execContextDestroy (c : Cmd) (s : State) : Res :=
  gaffer opContextDestroy c (fun t s =>
    match s.ctx c.ctx with
    | none => .next (s.answer t stContextGone)
    | some x =>
      let s := (s.setCtx c.ctx { x with salt := none, destroyTickets := [t], resetTickets := [] }).enterState c.ctx .destroying
      let s := s.answerAll x.resetTickets stContextGone
      settled (.next (((s.dropForming c.ctx).endSuspends c.ctx).endCtxWork c.ctx))) s

/-- The tenant sessions of a context. -/
def State.sessionsOf (s : State) (ctx : Nat) : List Nat := (s.sessions.keep (fun _ ss => decide (ss.role = .tenant ctx))).keys

/-- DESTROY_COMPLETE (R294 steps 5 to 7). -/
def execDestroyComplete (ctx : Nat) (s : State) : Res :=
  match s.ctx ctx with
  | some x =>
    if x.st = .destroying && x.home && !s.workLeft ctx then
      let s := s.clearCtx ctx
      let s := eachDo (s.sessionsOf ctx) (fun n s => s.closeSession n true .openState) s
      let s := (s.freeCtx ctx).ringBroadcast 5 ctx (msgLength 5) (.announce .gone)
      thenReset (settled (.next (s.answerAll x.destroyTickets stOk)))
    else .next s
  | none => .next s

/-! ## TRANSPORT_UNIT_STOP (R283) -/

/-- What an operation on a tile reads besides its block. -/
def State.arrayIn (s : State) (n : Nat) : ArrayIn :=
  { mem := s.mem, tile := n, rounding := (s.tile n).rounding, deriv := (s.tile n).deriv, marver := (s.tile n).marver }

/-- The destination of an operation is not valid: its bytes are free values (R46, R48, R52). -/
def State.spoil (s : State) (n : Nat) (d : Bytes) : State :=
  let outs := (aoOutputs (s.arrayIn n) d).filter (fun r => decide (r.1 + r.2 ≤ tileBytes))
  { s with
    mem := outs.foldl (fun m r => writeBytes m (tileAddr n r.1) ((List.range r.2).map (fun i => Config.freeByte s.freeCount (r.1 + i)))) s.mem,
    freeCount := s.freeCount + 1 }

/-- The operations that run now: the front one, with the next beside it when the two pair (R44). -/
def onArray (x : ArrayIn) : List QueueOp → List QueueOp
  | [] => []
  | [q] => [q]
  | q :: r :: _ => if pairsNow x q r then [q, r] else [q]

/-- A gaffer stop: the operations on the array are abandoned, their destinations not valid, and the queue discarded, each reported
STOPPED; the block loaded and the marver's buffers go with it, and the tile, its queue empty, enters IDLE (R37, R48, R97). -/
def State.stopTile (s : State) (n : Nat) : State :=
  let s := eachDo ((onArray (s.arrayIn n) (s.tile n).queue).filter (fun q => aoOp q.desc = 1 || aoOp q.desc = 2))
    (fun q s => s.spoil n q.desc) s
  s.modTile n (fun t =>
    { t with queue := [], marver := [], loaded := [], completions := t.completions ++ t.queue.map (fun _ => 4),
             power := if t.power = .run then .idle else t.power })

/-- TRANSPORT_UNIT_STOP (R283): a unit that reached no BOUNDARY while its context's reset or destroy waited is stopped; its
program ends with CONTEXT_GONE. -/
def execTransportUnitStop (ctx : Nat) (s : State) : Res :=
  match s.ctx ctx with
  | some x =>
    match x.running with
    | some ⟨.program, tiles⟩ =>
      if x.st = .resetting || x.st = .destroying then
        let s := eachDo tiles (fun n s => s.stopTile n) s
        let s := eachDo tiles (fun n s => s.modTile n (fun t => { t with held := none })) s
        let s := s.modCtx ctx (fun x => { x with running := none })
        settled (.next (s.endProgram ctx stContextGone))
      else .next s
    | _ => .next s
  | none => .next s

end Sys2Proof.Machine
end

