-- ==== Sys2Proof/Machine/Blocks.lean ====
section
/-! DEFINITION. The products of service mode as the array runs them: stationary blocks of weights, adapter column blocks and adapter
K-blocks, their transposes, chains, and the gradient of a matrix (R33, R35, R39 to R43, R83, R86 to R89, R93, R94, R482). -/

namespace Sys2Proof.Machine

/-! ## Blocks of a matrix of working weights (R31, R33, R482) -/

/-- A matrix of working weights in the base's working format (code of R61: 1 F8, 4 W4), rows along the reduction dimension (R178). -/
structure Mat where
  fmt : Nat
  rows : Nat
  cols : Nat
  copy : WorkCopy
  deriving DecidableEq, Repr

/-- Its format as a stationary operand, in the codes of R49. -/
def Mat.stat (m : Mat) : Nat := if m.fmt = 4 then 1 else 0

/-- The width of its stationary blocks (R31). -/
def Mat.width (m : Mat) : Nat := fmtWidth m.stat

/-- The number of K-blocks of a reduction dimension (R35). -/
def kBlocks (n : Nat) : Nat := (n + 255) / 256

/-- Element (i, j); past the matrix zero (R34). -/
def Mat.elem (m : Mat) (i j : Nat) : Nat := if i < m.rows && j < m.cols then m.copy.elems.getD (i * m.cols + j) 0 else 0

/-- The block scale of rows 32 b to 32 b + 31 of column j (R482). -/
def Mat.scale (m : Mat) (b j : Nat) : Nat := if 32 * b < m.rows && j < m.cols then m.copy.scales.getD (b * m.cols + j) 127 else 127

/-- A block from its elements and, in W4, the scale of each segment and column. -/
def blockOf (stat : Nat) (elem scale : Nat → Nat → Nat) : Loaded :=
  { address := 0, fmt := stat, half := 0,
    rows := (List.range 256).map (fun k => (List.range (fmtWidth stat)).map (elem k)),
    scales := if stat = 1 then (List.range 8).map (fun g => (List.range 64).map (scale g)) else [],
    rowScaled := false }

/-- The stationary block of K-block `kb` and column group `cg` (R33): each segment of 32 rows is one block row of the working copy. -/
def Mat.block (m : Mat) (kb cg : Nat) : Loaded :=
  blockOf m.stat (fun k j => m.elem (256 * kb + k) (m.width * cg + j)) (fun g j => m.scale (8 * kb + g) (m.width * cg + j))

/-- The BLOCK_T transpose of stationary blocks, at a slice (R93): what the marver delivers for a plain operand of those sources. -/
def blockT (stat slice : Nat) (srcs : List Loaded) : Loaded :=
  let w := fmtWidth stat
  let src (k : Nat) : Option Loaded := srcs[k / w]?
  { address := 0, fmt := stat, half := 0,
    rows := (List.range 256).map (fun k => (List.range w).map (fun c =>
      match src k with | some b => (b.rows.getD (w * slice + c) []).getD (k % w) 0 | none => 0)),
    scales := if stat = 1 then (List.range 256).map (fun k =>
        match src k with
        | some b => [(b.scales.getD (2 * slice) []).getD (k % w) 127, (b.scales.getD (2 * slice + 1) []).getD (k % w) 127]
        | none => [127, 127]) else [],
    rowScaled := decide (stat = 1) }

/-! ## Chains (R35) -/

/-- The part of a moving row that K-block `kb` multiplies; past its end zero (R34). -/
def kRow (x : List Nat) (kb : Nat) : List Nat := (List.range 256).map (fun k => x.getD (256 * kb + k) 0)

/-- A chain: each link's sum in column j, the result of the link before added (R35). A link is a block and its moving row. -/
def chainSum (movFmt j : Nat) : List (Loaded × List Nat) → Option Word → Word
  | [], acc => acc.getD 0#32
  | x :: rest, acc =>
    let t := columnSum x.1 movFmt x.2 j
    chainSum movFmt j rest (some (match acc with | some a => fadd t a | none => t))

/-- The links of a forward product's column group, K-blocks ascending (R35). -/
def Mat.links (m : Mat) (x : List Nat) (cg : Nat) : List (Loaded × List Nat) :=
  (List.range (kBlocks m.rows)).map (fun kb => (m.block kb cg, kRow x kb))

/-- The links of a dX product's column group: each stationary block the BLOCK_T transpose of the blocks of 256 columns of W (R86). -/
def Mat.linksT (m : Mat) (dy : List Nat) (cg : Nat) : List (Loaded × List Nat) :=
  let n := 256 / m.width
  (List.range (kBlocks m.cols)).map (fun q =>
    (blockT m.stat (cg % n) ((List.range n).map (fun t => m.block (cg / n) (n * q + t))), kRow dy q))

/-- A product of two vectors on the array, one column, zero rows filling its last K-block (R34, R35). -/
def dotRows (xs ys : List Fp) : Word :=
  let z := List.replicate ((256 - xs.length % 256) % 256) (Fp.fin false 0 0)
  dotArray (xs ++ z) (ys ++ z)

/-! ## Adapters (R39 to R43, R88) -/

/-- An adapter on a matrix: its rank, the slot it takes, and its A and B factors (R39, R40). -/
structure Adapter where
  rank : Nat
  slot : Nat
  a : Mat
  b : Mat
  deriving DecidableEq, Repr

/-- The number of slots of an adapter block (R41). -/
def slotCount (stat rank : Nat) : Nat := fmtWidth stat / rank

/-- The adapter column block of a K-block: slot s's A in columns s r to s r + r - 1, zero in the columns of the slots that hold none
(R40). -/
def columnBlock (stat rank : Nat) (slots : List (Option Mat)) (kb : Nat) : Loaded :=
  blockOf stat
    (fun k j => match (slots[j / rank]?).join with | some a => a.elem (256 * kb + k) (j % rank) | none => 0)
    (fun g j => match (slots[j / rank]?).join with | some a => a.scale (8 * kb + g) (j % rank) | none => 127)

/-- The adapter K-block of a column group: row slotStride s + j holds row j of slot s's B, every other row zero; each W4 block holds rows
of one slot and its scale is that slot's (R43). -/
def adapterKBlock (stat rank : Nat) (slots : List (Option Mat)) (cg : Nat) : Loaded :=
  let p := slotStride rank
  let w := fmtWidth stat
  blockOf stat
    (fun i c => match (slots[i / p]?).join with | some b => b.elem (i % p) (w * cg + c) | none => 0)
    (fun g c => match (slots[32 * g / p]?).join with | some b => b.scale (32 * g % p / 32) (w * cg + c) | none => 127)

/-- The slots of a block that one row's variant reaches: its own; what others hold is masked by the tag (R41). -/
def Adapter.slots (x : Adapter) (m : Mat) : List (Option Mat) :=
  (List.range (slotCount x.a.stat x.rank)).map (fun s => if s = x.slot then some m else none)

/-- h: the adapter's columns for a moving row, as the drain has them before their conversion to F8 (R40, R42). -/
def Adapter.h (x : Adapter) (row : List Nat) : List Word :=
  (List.range x.rank).map (fun j => chainSum 0 (x.slot * x.rank + j)
    ((List.range (kBlocks x.a.rows)).map (fun kb => (columnBlock x.a.stat x.rank (x.slots x.a) kb, kRow row kb))) none)

/-- The 256-byte row that carries a slot's codes: column j at byte slotStride s + j, zero elsewhere (R42). -/
def Adapter.wide (x : Adapter) (codes : List Nat) : List Nat :=
  (List.range 256).map (fun i => match slotColumn x.rank i with
    | some c => if c / x.rank = x.slot then codes.getD (c % x.rank) 0 else 0
    | none => 0)

/-- dh = dY B^T before its conversion: an adapter column block chain over the BLOCK_T transposes of the adapter K-blocks, in the columns
of the row's own slot (R88). -/
def Adapter.dh (x : Adapter) (dy : List Nat) : List Word :=
  let w := fmtWidth x.b.stat
  let n := 256 / w
  let first := slotStride x.rank * x.slot
  (List.range x.rank).map (fun j => chainSum 1 ((first + j) % w)
    ((List.range (kBlocks x.b.cols)).map (fun q =>
      (blockT x.b.stat ((first + j) / w) ((List.range n).map (fun t => adapterKBlock x.b.stat x.rank (x.slots x.b) (n * q + t))), kRow dy q))) none)

/-- The last link of a dX column group: dh A^T, the stationary block the transpose of the A column block that covers the group (R88). -/
def Adapter.linkT (x : Adapter) (codes : List Nat) (cg : Nat) : Loaded × List Nat :=
  let n := 256 / fmtWidth x.a.stat
  (blockT x.a.stat (cg % n) [columnBlock x.a.stat x.rank (x.slots x.a) (cg / n)], x.wide codes)

/-! ## A linear map with its adapters -/

/-- A matrix of the base or of an expert and the adapters on it in manifest order, each with the global index of its A (R115, R178). -/
structure Linear where
  w : Mat
  ads : List (Nat × Adapter)
  deriving DecidableEq, Repr

/-- The adapters' h for a moving row. -/
def Linear.hs (l : Linear) (x : List Nat) : List (List Word) := l.ads.map (fun a => a.2.h x)

/-- Y: each column's base chain, then one link for each adapter K-block (R35, R43); `hs` the adapters' codes. -/
def Linear.run (l : Linear) (x : List Nat) (hs : List (List Nat)) : List Word :=
  (List.range l.w.cols).map (fun j => chainSum 0 (j % l.w.width)
    (l.w.links x (j / l.w.width) ++
      (l.ads.zip hs).map (fun a => (adapterKBlock l.w.stat a.1.2.rank (a.1.2.slots a.1.2.b) (j / l.w.width), a.1.2.wide a.2))) none)

/-- dX: each column group's chain over d_out, then the adapters' links (R86, R88); `dhs` the codes of the adapters' dh. -/
def Linear.linksT (l : Linear) (dy : List Nat) (dhs : List (List Nat)) (cg : Nat) : List (Loaded × List Nat) :=
  l.w.linksT dy cg ++ (l.ads.zip dhs).map (fun a => a.1.2.linkT a.2 cg)

/-- dX of one row, before its conversion. -/
def Linear.runT (l : Linear) (dy : List Nat) (dhs : List (List Nat)) : List Word :=
  (List.range l.w.rows).map (fun i => chainSum 1 (i % l.w.width) (l.linksT dy dhs (i / l.w.width)) none)

/-! ## dW (R83, R86, R87, R89) -/

/-- A stationary block of 256 tokens by 32 columns, read directly or through STRIDED_BLOCK; missing tokens are zero rows (R86). -/
def tokenBlock (stat : Nat) (m : List (List Nat)) (tb cg : Nat) : Loaded :=
  blockOf stat (fun k c => (m.getD (256 * tb + k) []).getD (32 * cg + c) 0) (fun _ _ => 127)

/-- Column `i` of a token block as a moving row (ROWS_T, R93). -/
def tokenColumn (m : List (List Nat)) (tb i : Nat) : List Nat := (List.range 256).map (fun k => (m.getD (256 * tb + k) []).getD i 0)

/-- One element of a dW product, token blocks of 256 ascending (R86): `still` stationary at column `c`, `moving` at column `i`. -/
def tokenSum (stat movFmt : Nat) (still moving : List (List Nat)) (i c : Nat) : Word :=
  chainSum movFmt (c % 32)
    ((List.range (kBlocks still.length)).map (fun tb => (tokenBlock stat still tb (c / 32), tokenColumn moving tb i))) none

/-- dW as it rests (R86, R87): the gradient stationary gives rows along d_in; the activation stationary, where X has fewer columns, gives
the transpose, rows along d_out. -/
def dwResting (t : TensorInfo) (xs dys : List (List Nat)) : List Word :=
  if t.transposed then build t.cols t.rows (fun j i => tokenSum 0 1 xs dys j i)
  else build t.rows t.cols (fun i j => tokenSum 2 0 dys xs i j)

/-- dW in manifest orientation, read from where its resting orientation places it (R87). -/
def dwOf (t : TensorInfo) (xs dys : List (List Nat)) : List Word :=
  let g := dwResting t xs dys
  if t.transposed then transpose g t.cols t.rows else g

end Sys2Proof.Machine
end

