-- ==== Sys2Proof/Machine/Layers.lean ====
section
/-! DEFINITION. What a layer computes for its rows on the way forward: norms, projections, attention, routing and experts (R67, R101, R102,
R210 to R214, R220). The order of the products in a layer is that of assumption log 154. -/

namespace Sys2Proof.Machine

/-! ## The model a row reads -/

/-- The rows and columns of a base matrix of a layer (R364). -/
def matrixOf (b : BaseShape) (layer matrix : Nat) : Option (Nat × Nat) :=
  (b.layerMap.find? (fun m => decide (m.1 = layer) && decide (m.2.1 = matrix))).map (fun m => (m.2.2.1, m.2.2.2))

/-- The weights a row reads: the base model, and its variant's manifest and working copies, with the adapter slot its variant takes at
each rank (R41, R210). -/
structure Model where
  shape : BaseShape
  infos : List TensorInfo
  copies : List WorkCopy
  slots : List (Nat × Nat)
  deriving DecidableEq, Repr

/-- The base image's word on a layer. -/
def Model.plan (m : Model) (l : Nat) : Config.Plan := Config.plan m.shape.digest l

/-- A tensor of the manifest. -/
def Model.info (m : Model) (i : Nat) : TensorInfo :=
  m.infos.getD i { layer := 0, index := 0, kind := 0, source := 0, rows := 0, cols := 0, rank := 0, transposed := false, alpha := 0#32, frozen := false }

/-- The working copy of a tensor, as a matrix. -/
def Model.tensor (m : Model) (i : Nat) : Mat := ⟨m.shape.format, (m.info i).rows, (m.info i).cols, m.copies.getD i ⟨[], []⟩⟩

/-- The tensors of a kind in a layer, of one source, by their global index: B follows its A, up and down their gate (R178). -/
def Model.find (m : Model) (kind l source : Nat) : List Nat :=
  (m.infos.zipIdx.filter (fun x => decide (x.1.kind = kind) && decide (x.1.layer = l) && decide (x.1.source = source))).map (fun x => x.2)

/-- The adapters on a matrix, in manifest order (R178). -/
def Model.adapters (m : Model) (l matrix : Nat) : List (Nat × Adapter) :=
  (m.find 0 l matrix).map (fun i =>
    let r := (m.info i).rank
    (i, { rank := r, slot := match m.slots.find? (fun x => decide (x.1 = r)) with | some x => x.2 | none => 0,
          a := m.tensor i, b := m.tensor (i + 1) }))

/-- A base matrix with the adapters on it. -/
def Model.linear (m : Model) (l matrix : Nat) : Linear :=
  let d := (matrixOf m.shape l matrix).getD (0, 0)
  ⟨⟨m.shape.format, d.1, d.2, Config.baseWeight m.shape.digest l matrix⟩, m.adapters l matrix⟩

/-- An expert: its three matrices, and the global index of its gate tensor when it is an extra one. -/
structure Expert where
  gate : Linear
  up : Linear
  down : Linear
  first : Option Nat
  deriving DecidableEq, Repr

/-- A base expert by its number: a routed one's weights, or a shared one's matrices of the layer map. -/
def Model.baseExpert (m : Model) (l e : Nat) : Expert :=
  let b := m.shape
  if e < b.routed then
    let w (kind rows cols : Nat) : Linear := ⟨⟨b.format, rows, cols, Config.expertWeight b.digest e l kind⟩, []⟩
    ⟨w 2 b.dModel b.hidden, w 3 b.dModel b.hidden, w 4 b.hidden b.dModel, none⟩
  else
    let n := (m.plan l).shared.getD (e - b.routed) (0, 0, 0)
    ⟨m.linear l n.1, m.linear l n.2.1, m.linear l n.2.2, none⟩

/-- An extra expert by its number within the variant (R179). -/
def Model.extraExpert (m : Model) (l no : Nat) : Expert :=
  let i := (m.find 2 l no).headD m.infos.length
  ⟨⟨m.tensor i, []⟩, ⟨m.tensor (i + 1), []⟩, ⟨m.tensor (i + 2), []⟩, some i⟩

/-! ## What runs show to the flags and counters (R65, R76) -/

/-- Outputs of the drain and of vector engine routines, and values presented for conversion to F8. -/
structure Seen where
  outs : List Word
  f8 : List Word
  deriving DecidableEq, Repr

/-- Both. -/
def Seen.and (a b : Seen) : Seen := ⟨a.outs ++ b.outs, a.f8 ++ b.f8⟩

/-- Whether a non-finite value is among them (R76). -/
def Seen.bad (x : Seen) : Bool := x.outs.any nonFinite || x.f8.any nonFinite

/-- The F8 conversions among them that saturate (R65). -/
def Seen.sats (x : Seen) : Nat := (x.f8.filter (fun w => (toF8 w).sat)).length

/-- Values converted to F8 (R65). -/
def f8s (ws : List Word) : List Nat := ws.map (fun w => (toF8 w).enc)

/-- An F8 code widened. -/
def widen8 (c : Nat) : Word := toFP32 (ofF8 c)

/-- Piece `i` of a list cut into pieces of `n`. -/
def piece {α : Type} (n i : Nat) (l : List α) : List α := (l.drop (n * i)).take n

/-! ## Linear maps -/

/-- What a linear map gives: Y as the drain has it, and the adapters' h before conversion, each under its A's global index. -/
structure Applied where
  out : List Word
  hs : List (Nat × List Word)
  deriving DecidableEq, Repr

/-- A linear map of a moving row (R40 to R43). -/
def Linear.apply (l : Linear) (x : List Nat) : Applied :=
  let hs := l.hs x
  ⟨l.run x (hs.map f8s), (l.ads.map (fun a => a.1)).zip hs⟩

/-- What it shows. -/
def Applied.seen (a : Applied) : Seen := ⟨a.out, a.hs.flatMap (fun h => h.2)⟩

/-- The adapters' h as they are kept (R102). -/
def Applied.codes (a : Applied) : List (Nat × List Nat) := a.hs.map (fun h => (h.1, f8s h.2))

/-! ## Attention (R67, R101) -/

/-- A row's norm and projections: its reciprocal RMS, the moving row, Q, K and V in F8 after the rotation, the adapters' h. -/
structure Proj where
  rms : Word
  x : List Nat
  q : List Nat
  k : List Nat
  v : List Nat
  hs : List (Nat × List Nat)
  seen : Seen
  deriving DecidableEq, Repr

/-- The projections of a row at a position. -/
def Model.project (m : Model) (l pos : Nat) (res : List Word) : Proj :=
  let d := m.shape.digest
  let rms := Config.rmsScale res
  let n := Config.rmsApply d l 0 res rms
  let q := (m.linear l (m.plan l).query).apply (f8s n)
  let k := (m.linear l (m.plan l).key).apply (f8s n)
  let v := (m.linear l (m.plan l).value).apply (f8s n)
  let qr := Config.rotate d l pos q.out
  let kr := Config.rotate d l pos k.out
  { rms := rms, x := f8s n, q := f8s qr, k := f8s kr, v := f8s v.out, hs := q.codes ++ k.codes ++ v.codes,
    seen := ((Seen.and ⟨rms :: n, n⟩ q.seen).and k.seen).and (Seen.and v.seen ⟨qr ++ kr, qr ++ kr ++ v.out⟩) }

/-- The key-value head a query head reads. -/
def kvHead (p : Config.Plan) (h : Nat) : Nat := h / (p.heads / p.kvHeads)

/-- The scores of one head: one product on the array for each position (R101). -/
def headScores (p : Config.Plan) (h : Nat) (q : List Nat) (ks : List (List Nat)) : List Word :=
  ks.map (fun k => dotRows ((piece p.headDim h q).map ofF8) ((piece p.headDim (kvHead p h) k).map ofF8))

/-- The output of one head from its probabilities in F8. -/
def headOut (p : Config.Plan) (h : Nat) (probs : List Nat) (vs : List (List Nat)) : List Word :=
  (List.range p.headDim).map (fun c => dotRows (probs.map ofF8) (vs.map (fun v => ofF8 ((piece p.headDim (kvHead p h) v).getD c 0))))

/-- A row's attention over the keys and values up to its own: each head's output and log-sum-exp, and what they show. -/
def Model.attend (m : Model) (l : Nat) (q : List Nat) (ks vs : List (List Nat)) : List Word × List Word × Seen :=
  let p := m.plan l
  let hs := (List.range p.heads).map (fun h =>
    let s := headScores p h q ks
    let r := Config.attnProbs m.shape.digest l s
    (headOut p h (f8s r.1) vs, r.2, Seen.mk (s ++ r.1) r.1))
  (hs.flatMap (fun h => h.1), hs.map (fun h => h.2.1), (hs.map (fun h => h.2.2)).foldl Seen.and ⟨[], []⟩)

/-! ## Routing (R212) -/

/-- Whether expert `a` ranks before `b`: the larger probability, the lower number on ties, NaN last (R212). -/
def ranksBefore (probs : List Word) (a b : Nat) : Bool :=
  let x := probs.getD a 0#32
  let y := probs.getD b 0#32
  if isNaN x then isNaN y && decide (a ≤ b)
  else if isNaN y then true
  else flt y x || (!flt x y && decide (a ≤ b))

/-- The experts selected, ascending (R212). -/
def selectExperts (k : Nat) (probs : List Word) : List Nat :=
  sortBy (fun a b => decide (a ≤ b)) ((sortBy (ranksBefore probs) (List.range probs.length)).take k)

/-- The gate weight of each selected expert (R212); the selected probabilities are added in ascending expert number. -/
def gateWeights (renormalise : Bool) (probs : List Word) (sel : List Nat) : List (Nat × Word) :=
  let total := pairSum (sel.map (fun e => probs.getD e 0#32))
  sel.map (fun e => (e, if renormalise then fdiv (probs.getD e 0#32) total else probs.getD e 0#32))

/-- A row's place at the expert sum: its residual after attention, the reciprocal RMS, the expert input, the routing probabilities and
the gate weights of the experts selected. -/
structure Mid where
  att : List Nat
  lse : List Word
  res : List Word
  rms : Word
  x : List Nat
  probs : List Word
  gates : List (Nat × Word)
  hs : List (Nat × List Nat)
  seen : Seen
  deriving DecidableEq, Repr

/-- The expert input of a row from its residual after attention: the expert norm's output in F8 (R212, R220). -/
def Model.expertIn (m : Model) (l : Nat) (res : List Word) : List Nat :=
  f8s (Config.rmsApply m.shape.digest l 1 res (Config.rmsScale res))

/-- A row from its projections to the expert sum: attention, the output projection added to the residual, and at an expert layer its
routing (R67, R212). -/
def Model.toMid (m : Model) (l : Nat) (res : List Word) (q : List Nat) (ks vs : List (List Nat)) : Mid :=
  let (a, lse, seen) := m.attend l q ks vs
  let o := (m.linear l (m.plan l).output).apply (f8s a)
  let mid := zip2 fadd res o.out
  let seen := (seen.and ⟨a ++ mid, a⟩).and o.seen
  if m.shape.moeLayers.contains l then
    let rms := Config.rmsScale mid
    let n := Config.rmsApply m.shape.digest l 1 mid rms
    let r := (m.linear l (m.plan l).router).apply (f8s n)
    let probs := Config.softmax (r.out.take m.shape.routed)
    { att := f8s a, lse := lse, res := mid, rms := rms, x := f8s n, probs := probs,
      gates := gateWeights m.shape.renormalise probs (selectExperts m.shape.routerK probs), hs := o.codes ++ r.codes,
      seen := (seen.and ⟨rms :: n ++ probs, n⟩).and r.seen }
  else { att := f8s a, lse := lse, res := mid, rms := 0#32, x := [], probs := [], gates := [], hs := o.codes, seen := seen }

/-! ## Experts (R67, R100, R102, R214, R220) -/

/-- The gate's function of the base model. -/
def actOf (gelu : Bool) (a : Word) : Word := if gelu then geluFP a else siluFP a

/-- The hidden values of an expert from its gate and up values in F8: the array's next moving row. -/
def hiddenOf (gelu : Bool) (gate up : List Nat) : List Word :=
  (gate.zip up).map (fun p => fmul (actOf gelu (widen8 p.1)) (widen8 p.2))

/-- One run of an expert on one row: its gate and up values and hidden values in F8, its output as the drain has it. -/
structure ExpertRun where
  gate : List Nat
  up : List Nat
  hidden : List Nat
  out : List Word
  hs : List (Nat × List Nat)
  seen : Seen
  deriving DecidableEq, Repr

/-- An expert's forward run on a row (R220, R223). -/
def Expert.run (e : Expert) (gelu : Bool) (x : List Nat) : ExpertRun :=
  let g := e.gate.apply x
  let u := e.up.apply x
  let h := hiddenOf gelu (f8s g.out) (f8s u.out)
  let d := e.down.apply (f8s h)
  { gate := f8s g.out, up := f8s u.out, hidden := f8s h, out := d.out, hs := g.codes ++ u.codes ++ d.codes,
    seen := ((g.seen.and u.seen).and d.seen).and ⟨h, g.out ++ u.out ++ h⟩ }

/-- One expert contribution added to the residual: B16 codes widened, times the gate weight (R67). -/
def addContribution (res : List Word) (gate : Word) (codes : List Nat) : List Word :=
  zip2 fadd res (codes.map (fun c => fmul (toFP32 (ofB16 c)) gate))

/-! ## A layer over the rows of a micro-batch (R102, R210, R213) -/

/-- A row's run through a layer: its set, the residual it leaves, and what it showed. -/
structure RowRun where
  set : RowSet
  out : List Word
  seen : Seen
  deriving DecidableEq, Repr

/-- The name a bundle gives an extra expert: 0x8000 plus its ring slot (R219). -/
def extraKey (slot : Nat) : Nat := 0x8000 + slot

/-- What a pass runs under: the extra experts attached (R213), with their ring slots by number, the tensors the step updates, and what the
experts' homes have answered (R224). -/
structure Pass where
  extras : List ExpertRec
  update : List Nat
  slots : List (Nat × Nat)
  answers : List Bundle
  deriving DecidableEq, Repr

/-- The name bundles give an extra expert of the pass. -/
def Pass.keyOf (p : Pass) (no : Nat) : Option Nat := (p.slots.find? (fun x => decide (x.1 = no))).map (fun x => extraKey x.2)

/-- An expert's answer at a layer: FWD_BACK is kind 2, BWD_BACK kind 4 (R220). -/
def Pass.answer (p : Pass) (kind l : Nat) (key : Option Nat) : Option Bundle :=
  p.answers.find? (fun b => decide (b.kind = kind) && decide (b.layer = l) && decide (some b.expert = key))

/-- The codes a bundle holds for each of its rows, by their numbers (R220). -/
def rowCodes (width : Nat) (b : Bundle) : List (Nat × List Nat) := b.rowNos.zipIdx.map (fun x => (x.1, piece width x.2 b.payload))

/-- The extra experts of a layer, by number. -/
def Pass.extrasAt (p : Pass) (l : Nat) : List Nat := (p.extras.filter (fun e => e.layers.contains l)).map (fun e => e.extraNo)

/-- Whether the step updates the A of an adapter on one of some matrices of a layer, or the gate or up of an extra expert there. -/
def Model.updates (m : Model) (p : Pass) (l : Nat) (matrices : List Nat) (experts : Bool) : Bool :=
  p.update.any (fun i =>
    let t := m.info i
    decide (i < m.infos.length) && decide (t.layer = l) &&
      ((decide (t.kind = 0) && matrices.contains t.source) || (experts && (decide (t.kind = 2) || decide (t.kind = 3)))))

/-- An expert's B16 output for a row (R220): what its home has answered, whose flags are the home's, else its run here, the same bits
(R79, R222). -/
def Model.expertOut (m : Model) (p : Pass) (l row : Nat) (x : Mid) (key : Option Nat) (e : Unit → Expert) : List Nat × Seen :=
  match (p.answer 2 l key).bind (fun b => (rowCodes m.shape.dModel b).find? (fun r => decide (r.1 = row))) with
  | some r => (r.2, ⟨[], []⟩)
  | none =>
    let r := (e ()).run (m.plan l).gelu x.x
    (r.out.map toB16, r.seen)

/-- A row from the expert sum to the end of its layer: shared, routed and extra experts added in the order of R67 and R214. -/
def Model.addExperts (m : Model) (p : Pass) (l row : Nat) (x : Mid) : List Word × List ExpertRun × Seen :=
  let b := m.shape
  if b.moeLayers.contains l then
    let shared := (List.range b.shared).map (fun i => (m.baseExpert l (b.routed + i)).run (m.plan l).gelu x.x)
    let routed := x.gates.map (fun e => (e.2, m.expertOut p l row x (some e.1) (fun _ => m.baseExpert l e.1)))
    let extra := (p.extrasAt l).map (fun n => (one32, m.expertOut p l row x (p.keyOf n) (fun _ => m.extraExpert l n)))
    let all := shared.map (fun r => (one32, (r.out.map toB16, r.seen))) ++ routed ++ extra
    let out := all.foldl (fun res r => addContribution res r.1 r.2.1) x.res
    (out, shared, (all.map (fun r => r.2.2)).foldl Seen.and ⟨out, []⟩)
  else (x.res, [], ⟨[], []⟩)

/-- The rows of a micro-batch as (sample, position), in the step's order (R210). -/
def rowsOf (samples : List Sample) : List (Nat × Nat) :=
  samples.zipIdx.flatMap (fun s => (List.range s.1.length).map (fun i => (s.2, i)))

/-- A layer's forward pass over the rows: each attends to the rows of its own sample up to itself. -/
def Model.layer (m : Model) (p : Pass) (rows : List (Nat × Nat)) (l : Nat) (res : List (List Word)) : List RowRun :=
  let ps := (rows.zip res).map (fun r => m.project l r.1.2 r.2)
  let all := (rows.zip res).zip ps
  let pl := m.plan l
  let keep1 := m.updates p l [pl.query, pl.key, pl.value] false
  let keep2 := m.updates p l (pl.router :: pl.shared.flatMap (fun n => [n.1, n.2.1])) true
  all.zipIdx.map (fun r =>
    let own := (all.take (r.2 + 1)).filter (fun y => decide (y.1.1.1 = r.1.1.1.1))
    let pr := r.1.2
    let x := m.toMid l r.1.1.2 pr.q (own.map (fun y => y.2.k)) (own.map (fun y => y.2.v))
    let (out, shared, seen) := m.addExperts p l r.2 x
    { set := { boundary := r.1.1.2, rms1 := pr.rms, x1 := if keep1 then pr.x else [], q := pr.q, k := pr.k, v := pr.v, lse := x.lse,
               att := x.att, hs := pr.hs ++ x.hs ++ shared.flatMap (fun s => s.hs), mid := x.res, rms2 := x.rms,
               x2 := if keep2 then x.x else [], probs := x.probs, gates := x.gates, shared := shared.map (fun s => (s.gate, s.up)) },
      out := out, seen := (pr.seen.and x.seen).and seen })

/-- The forward pass through some layers, from the residuals at the first of them. -/
def Model.runLayers (m : Model) (p : Pass) (rows : List (Nat × Nat)) : List Nat → List (List Word) → List (List RowRun)
  | [], _ => []
  | l :: ls, res =>
    let r := m.layer p rows l res
    r :: m.runLayers p rows ls (r.map (fun x => x.out))

/-- The layers from j to k. -/
def layersFrom (j k : Nat) : List Nat := (List.range (k + 1 - j)).map (· + j)

/-- The sets of layer k, from the residuals at layer j: layers j to k run forward and only S(b, k) is taken (R106). -/
def Model.setFrom (m : Model) (p : Pass) (rows : List (Nat × Nat)) (j k : Nat) (res : List (List Word)) : List RowSet :=
  ((m.runLayers p rows (layersFrom j k) res).getLastD []).map (fun r => r.set)

end Sys2Proof.Machine
end

