-- ==== Sys2Proof/Machine/Backward.lean ====
section
/-! DEFINITION. The backward pass of a micro-batch: the loss, each layer's gradients, their conversions to G8 with the statistics and
flags, and the gradients of the tensors the step updates (R68 to R73, R76, R83 to R90, R98 to R102, R106, R220, R221). -/

namespace Sys2Proof.Machine

/-! ## Conversions to G8 (R69 to R73, R90, R221) -/

/-- What every conversion of a micro-batch shares: the rounding key, the step, the micro-batch, and each layer's exponent (R70, R72). -/
structure Rounding where
  key : Nat
  step : Nat
  microBatch : Nat
  sExp : List Int
  deriving DecidableEq, Repr

/-- The counter of a conversion of a layer at a site (R70). -/
def Rounding.ctr (c : Rounding) (l site : Nat) : RoundCtr := ⟨c.key, c.step, ctrTail c.microBatch l site 0 0⟩

/-- s_l. -/
def Rounding.s (c : Rounding) (l : Nat) : Int := c.sExp.getD l 0

/-- Values as they are converted, and what they become. -/
structure Conv where
  vals : List Word
  codes : List Narrow
  deriving DecidableEq, Repr

/-- The codes. -/
def Conv.enc (c : Conv) : List Nat := c.codes.map (fun n => n.enc)

/-- The statistics of a conversion (R73). -/
def Conv.stat (c : Conv) : LayerStat := g8Stat c.vals c.codes

/-- One row converted: scaled by 2^shift, each value with the random word of its element (R69, R71, R72). -/
def convert (ctr : RoundCtr) (shift : Int) (index : Nat → Nat) (ws : List Word) : Conv :=
  let vals := ws.map (fun w => fscale w shift)
  ⟨vals, vals.zipIdx.map (fun x => toG8 x.1 (randomWord ctr (index x.2)))⟩

/-- Rows converted, each by its number in the micro-batch. -/
def convertRows (ctr : RoundCtr) (index : Nat → Nat → Nat) (rows : List (Nat × List Word)) : List Conv :=
  rows.map (fun r => convert ctr 0 (index r.1) r.2)

/-- What the gradients of a layer's base model own are, as places of its list are asked for (R90). -/
def gradOutput : Nat := 0
/-- The gradient of the attention output. -/
def gradAttention : Nat := 1
/-- The gradient of the attention scores. -/
def gradScores : Nat := 2
/-- The gradients of Q, K and V. -/
def gradQuery : Nat := 3
def gradKey : Nat := 4
def gradValue : Nat := 5
/-- The gradient of the router logits. -/
def gradRouter : Nat := 6
/-- The gate gradients of the hidden layer of a row's routed expert of rank `j` (R221); the up gradients take the next range. -/
def gradRouted (j : Nat) : Nat := 7 + j
/-- Those of shared expert i: a row has at most 8 routed ones. -/
def gradShared (i : Nat) : Nat := 15 + i

/-- The element index of one of the base model's own intermediate gradients (R90): ranges 1 onward. -/
def ownIndex (d : Bytes) (l what width row col : Nat) : Nat := (1 + Config.gradPlace d l what) * 2 ^ 27 + row * width + col

/-- The first range after the base model's own (R90). -/
def firstRange (b : BaseShape) (l : Nat) : Nat := 1 + b.baseGradients.getD l 0

/-- The adapters of a layer, by the global index of their A (R178). -/
def layerAdapters (infos : List TensorInfo) (l : Nat) : List Nat :=
  (infos.zipIdx.filter (fun x => decide (x.1.kind = 0) && decide (x.1.layer = l))).map (fun x => x.2)

/-- The element index of an adapter's dh: the adapters' ranges follow the base model's, in manifest order (R88, R90). -/
def dhIndex (b : BaseShape) (infos : List TensorInfo) (l a rank row col : Nat) : Nat :=
  (firstRange b l + ((layerAdapters infos l).filter (fun i => decide (i < a))).length) * 2 ^ 27 + row * rank + col

/-- The range of an extra expert's gate gradient: two for each expert whose layer set holds the layer, ascending (R90). -/
def extraRange (b : BaseShape) (infos : List TensorInfo) (l no : Nat) : Nat :=
  firstRange b l + (layerAdapters infos l).length +
    2 * (infos.filter (fun t => decide (t.kind = 2) && decide (t.layer = l) && decide (t.source < no))).length

/-- The element index of a value a row's expert returns: `j` ranks the expert among the row's (R221). -/
def fromExpertAt (width row j col : Nat) : Nat := (row * 16 + j) * width + col

/-- The statistics of a layer's conversions, and its non-finite flag (R73, R76). -/
def layerStat (convs : List Conv) (seen : Seen) : LayerStat :=
  let t := (convs.map Conv.stat).foldl addStat zeroStat
  { t with nonfinite := t.nonfinite || seen.bad }

/-! ## Linear maps on the way back (R83, R86, R88, R89) -/

/-- The gradient of the X of several products of it: one chain through them in order, each with its gradient rows and its adapters' dh
(R86, R88; assumption log 154). -/
def chainT : List (Linear × List Nat × List (List Nat)) → List Word
  | [] => []
  | x :: xs => (List.range x.1.w.rows).map (fun i => chainSum 1 (i % x.1.w.width)
      ((x :: xs).flatMap (fun y => y.1.linksT y.2.1 y.2.2 (i / x.1.w.width))) none)

/-- A linear map's part of the way back: each adapter's dh by row, and the gradients of the tensors it holds. -/
structure LinBack where
  dhs : List (List Conv)
  grads : List (Nat × List Word)
  deriving DecidableEq, Repr

/-- The codes of the adapters' dh of the n-th row. -/
def LinBack.row (x : LinBack) (n : Nat) : List (List Nat) := x.dhs.map (fun d => (d[n]?.map Conv.enc).getD [])

/-- The adapters' gradients of a linear map: dA = x^T dh, dB = h^T dY, for the tensors the step updates; dh is made where dX or dA needs it
(R83, R88, R89). `xs`, `hs` and `dys` are the rows' X, h by adapter and dY, `nos` their numbers. -/
def Model.linBack (m : Model) (c : Rounding) (update : List Nat) (needX : Bool) (l : Nat) (lin : Linear) (nos : List Nat)
    (xs : List (List Nat)) (hs : Nat → List (List Nat)) (dys : List (List Nat)) : LinBack :=
  let dhs := lin.ads.map (fun a =>
    if needX || update.contains a.1 then
      convertRows (c.ctr l siteDX) (fun row col => dhIndex m.shape m.infos l a.1 a.2.rank row col) (nos.zip (dys.map a.2.dh))
    else [])
  { dhs := dhs,
    grads := ((lin.ads.zip dhs).flatMap (fun a =>
      [(a.1.1, fun _ : Unit => dwOf (m.info a.1.1) xs (a.2.map Conv.enc)),
       (a.1.1 + 1, fun _ : Unit => dwOf (m.info (a.1.1 + 1)) (hs a.1.1) dys)])).filterMap (fun g =>
        if update.contains g.1 then some (g.1, g.2 ()) else none) }

/-! ## An expert on the way back (R99, R100, R220, R221) -/

/-- One row of an expert's backward pass: its number, X, the gate and up values kept, its gate weight, the G8 gradient that came in and
the adapters' h. -/
structure ExpertRow where
  no : Nat
  x : List Nat
  gate : List Nat
  up : List Nat
  weight : Word
  dy : List Nat
  hs : List (Nat × List Nat)
  deriving DecidableEq, Repr

/-- What the fused derivative gives for a row: the gate and up gradients, and the gate weight's gradient, the rowsums of the column groups
added in ascending order (R99, R100). -/
structure GluBack where
  gate : List Word
  up : List Word
  weight : Word
  deriving DecidableEq, Repr

/-- SILU_GLU or GELU_GLU, gated or not, on the gradient p = dY W_down^T of a row (R99, R100); `width` is the width of a column group. -/
def gluBack (gelu gated : Bool) (width : Nat) (r : ExpertRow) (p : List Word) : GluBack :=
  let f := if gelu then (if gated then 4 else 3) else if gated then 2 else 1
  let vals := (p.zip (r.gate.zip r.up)).map (fun v => drainValue f v.1 (widen8 v.2.1) (widen8 v.2.2) r.weight)
  let sums := (runs width (vals.length + 1) (vals.map (fun v => v.2.2))).map pairSum
  { gate := vals.map (fun v => v.1), up := vals.map (fun v => v.2.1),
    weight := match sums with | [] => 0#32 | s :: ss => ss.foldl fadd s }

/-- An expert's backward pass over its rows: the gradient of its input and of its gate weight for each row, before conversion, the gate and
up gradients as converted, its tensors' gradients, and what its conversions and outputs show. -/
structure ExpertBack where
  dx : List (Nat × List Word)
  weights : List (Nat × Word)
  convs : List Conv
  grads : List (Nat × List Word)
  seen : Seen
  deriving DecidableEq, Repr

/-- An expert's backward pass (R99, R100, R220): `index` gives a gate gradient's element index, the up gradient's is 2^27 above it. -/
def Model.expertBack (m : Model) (c : Rounding) (update : List Nat) (needX gated : Bool) (l : Nat) (e : Expert)
    (index : Nat → Nat → Nat) (rows : List ExpertRow) : ExpertBack :=
  let gelu := (m.plan l).gelu
  let nos := rows.map (fun r => r.no)
  let hOf (i : Nat) : List (List Nat) := rows.map (fun r => match r.hs.find? (fun h => decide (h.1 = i)) with | some h => h.2 | none => [])
  let hidden := rows.map (fun r => hiddenOf gelu r.gate r.up)
  let down := m.linBack c update true l e.down nos (hidden.map f8s) hOf (rows.map (fun r => r.dy))
  let ps := rows.zipIdx.map (fun r => e.down.runT r.1.dy (down.row r.2))
  let gs := (rows.zip ps).map (fun r => gluBack gelu gated e.down.w.width r.1 r.2)
  let dg := convertRows (c.ctr l siteDX) index (nos.zip (gs.map (fun g => g.gate)))
  let du := convertRows (c.ctr l siteDX) (fun row col => index row col + 2 ^ 27) (nos.zip (gs.map (fun g => g.up)))
  let gate := m.linBack c update needX l e.gate nos (rows.map (fun r => r.x)) hOf (dg.map Conv.enc)
  let up := m.linBack c update needX l e.up nos (rows.map (fun r => r.x)) hOf (du.map Conv.enc)
  let dx := if needX then nos.zipIdx.map (fun n =>
      (n.1, chainT [(e.gate, (dg[n.2]?.map Conv.enc).getD [], gate.row n.2), (e.up, (du[n.2]?.map Conv.enc).getD [], up.row n.2)])) else []
  let own := match e.first with
    | some i => [(i, rows.map (fun r => r.x), dg.map Conv.enc), (i + 1, rows.map (fun r => r.x), du.map Conv.enc),
        (i + 2, hidden.map f8s, rows.map (fun r => r.dy))].filterMap (fun g =>
          if update.contains g.1 then some (g.1, dwOf (m.info g.1) g.2.1 g.2.2) else none)
    | none => []
  let grads := down.grads ++ gate.grads ++ up.grads ++ own
  { dx := dx, weights := nos.zip (gs.map (fun g => g.weight)),
    convs := dg ++ du ++ (down.dhs ++ gate.dhs ++ up.dhs).flatten, grads := grads,
    seen := ⟨ps.flatten ++ gs.map (fun g => g.weight) ++ (dx.flatMap (fun d => d.2)) ++ grads.flatMap (fun g => g.2), hidden.flatten⟩ }

/-! ## A layer on the way back -/

/-- How far into its layer the backward pass must go (R85): 0 to the experts and the router, 1 to the output projection, 2 to the query, key
and value projections, 3 through the layer. -/
def stageOf (p : Config.Plan) (t : TensorInfo) : Nat :=
  if 2 ≤ t.kind then 0
  else if [p.query, p.key, p.value].contains t.source then 2
  else if t.source = p.output then 1 else 0

/-- The lowest layer that holds a tensor of the update set, with the stage its backward pass ends at (R85). -/
def Model.lowest (m : Model) (update : List Nat) : Option (Nat × Nat) :=
  match update.filter (fun i => decide (i < m.infos.length)) with
  | [] => none
  | i :: is =>
    let l := (is.map (fun i => (m.info i).layer)).foldl min (m.info i).layer
    some (l, (((i :: is).filter (fun i => decide ((m.info i).layer = l))).map (fun i => stageOf (m.plan l) (m.info i))).foldl max 0)

/-- What a layer's backward pass gives: the gradient that leaves it downward before its conversion, by row; the gradients of its tensors;
its conversions; and what it shows. -/
structure LayerBack where
  down : List (List Word)
  grads : List (Nat × List Word)
  convs : List Conv
  seen : Seen
  deriving DecidableEq, Repr

/-- Both. -/
def LayerBack.and (a b : LayerBack) : LayerBack := ⟨b.down, a.grads ++ b.grads, a.convs ++ b.convs, a.seen.and b.seen⟩

/-- FP32 values of G8 codes. -/
def widenG8 (codes : List Nat) : List Word := codes.map (fun c => toFP32 (ofG8 c))

/-- The n-th of some rows. -/
def nth {α : Type} (l : List (List α)) (n : Nat) : List α := l.getD n []

/-- Vectors added one after another. -/
def addAll : List (List Word) → List Word
  | [] => []
  | x :: xs => xs.foldl (zip2 fadd) x

/-- h of an adapter by row, from the sets. -/
def hRows (sets : List RowSet) (i : Nat) : List (List Nat) :=
  sets.map (fun s => match s.hs.find? (fun h => decide (h.1 = i)) with | some h => h.2 | none => [])

/-- The expert input of a row of a set, made again from the residual at the expert norm and its reciprocal RMS (R101). -/
def Model.x2Of (m : Model) (l : Nat) (s : RowSet) : List Nat := f8s (Config.rmsApply m.shape.digest l 1 s.mid s.rms2)

/-- One expert of a layer as its backward pass takes it: the name bundles give it, none for a shared one, which does not travel; the
expert, whether it is gated, the place of its gate gradients, its rank among a row's experts, and the rows that
ran it with their gate weights; `shared` is its number among the shared ones. -/
structure ExpertUse where
  key : Option Nat
  e : Expert
  gated : Bool
  shared : Option Nat
  index : Nat → Nat → Nat
  rank : Nat → Nat
  rows : List (Nat × Word)

/-- The experts of a layer in the order of R67 and R214: shared, routed, extra, each ascending. -/
def Model.uses (m : Model) (p : Pass) (l : Nat) (sets : List RowSet) : List ExpertUse :=
  let b := m.shape
  let every := (List.range sets.length).map (fun i => (i, one32))
  let shared := (List.range b.shared).map (fun i =>
    let e := m.baseExpert l (b.routed + i)
    ExpertUse.mk none e false (some i) (fun row col => ownIndex b.digest l (gradShared i) e.down.w.rows row col) (fun _ => 0) every)
  let rankOf (row e : Nat) : Nat := match sets[row]? with | some s => (s.gates.filter (fun g => decide (g.1 < e))).length | none => 0
  let routed := (List.range b.routed).map (fun e =>
    ExpertUse.mk (some e) (m.baseExpert l e) true none
      (fun row col => ownIndex b.digest l (gradRouted (rankOf row e)) b.hidden row col) (fun row => rankOf row e)
      (sets.zipIdx.filterMap (fun s => (s.1.gates.find? (fun g => decide (g.1 = e))).map (fun g => (s.2, g.2)))))
  let extra := (p.extrasAt l).zipIdx.map (fun n =>
    ExpertUse.mk (p.keyOf n.1) (m.extraExpert l n.1) true none
      (fun row col => extraRange b m.infos l n.1 * 2 ^ 27 + row * b.hidden + col)
      (fun row => (match sets[row]? with | some s => s.gates.length | none => 0) + n.2) every)
  shared ++ (routed.filter (fun u => decide (u.rows ≠ []))) ++ extra

/-- Whether the step updates a tensor an expert holds. -/
def Pass.holds (p : Pass) (e : Expert) : Bool :=
  (e.gate.ads ++ e.up.ads ++ e.down.ads).any (fun a => p.update.contains a.1 || p.update.contains (a.1 + 1)) ||
  (match e.first with | some i => p.update.contains i || p.update.contains (i + 1) || p.update.contains (i + 2) | none => false)

/-- Whether the backward pass of a layer needs the gradients of its router's logits. -/
def Model.needsRouter (m : Model) (p : Pass) (l stage : Nat) : Bool :=
  decide (1 ≤ stage) || (m.linear l (m.plan l).router).ads.any (fun a => p.update.contains a.1 || p.update.contains (a.1 + 1))

/-- The experts that run on the way back of a layer (R83, R85). -/
def Model.backUses (m : Model) (p : Pass) (l stage : Nat) (sets : List RowSet) : List ExpertUse :=
  (m.uses p l sets).filter (fun u => decide (1 ≤ stage) || p.holds u.e || (m.needsRouter p l stage && u.gated && u.e.first.isNone))

/-- DX_TO_EXPERT: the G8 gradient of the residual at the expert sum, converted once per row at the token's module (R220, R221). -/
def Model.toExperts (m : Model) (c : Rounding) (l : Nat) (g : List (List Nat)) : List Conv :=
  convertRows (c.ctr l siteDXToExpert) (fun row col => row * m.shape.dModel + col) (g.zipIdx.map (fun x => (x.2, widenG8 x.1)))

/-- The rows of an expert's backward pass. -/
def Model.useRows (m : Model) (l : Nat) (sets : List RowSet) (sent : List Conv) (u : ExpertUse) : List ExpertRow :=
  u.rows.filterMap (fun r => (sets[r.1]?).map (fun s =>
    let x := m.x2Of l s
    let kept := match u.shared with
      | some i => s.shared.getD i ([], [])
      | none => (let run := u.e.run (m.plan l).gelu x; (run.gate, run.up))
    { no := r.1, x := x, gate := kept.1, up := kept.2, weight := r.2, dy := (sent[r.1]?.map Conv.enc).getD [], hs := s.hs }))

/-- An expert's part of the way back, its `dx` as each row takes it: run here, and converted at DX_FROM_EXPERT unless it is a shared one; or
as its home has answered, whose conversions and flags are the home's, and of which the dW products of an extra expert's tensors alone are
made here (R100, R220, R221; assumption log 154). -/
def Model.useBack (m : Model) (c : Rounding) (p : Pass) (needX : Bool) (l : Nat) (sets : List RowSet) (sent : List Conv)
    (u : ExpertUse) : ExpertBack :=
  let d := m.shape.dModel
  let run (_ : Unit) : ExpertBack := m.expertBack c p.update needX u.gated l u.e u.index (m.useRows l sets sent u)
  match p.answer 4 l u.key with
  | some a =>
    let grads := if p.holds u.e then (run ()).grads else []
    { dx := (rowCodes d a).map (fun r => (r.1, widenG8 r.2)), weights := a.rowNos.zip a.rowFp, convs := [], grads := grads,
      seen := ⟨grads.flatMap (fun g => g.2), []⟩ }
  | none =>
    let r := run ()
    if u.shared.isSome then r
    else
      let out := convertRows (c.ctr l siteDXFromExpert) (fun row col => fromExpertAt d row (u.rank row) col) r.dx
      { r with dx := (r.dx.zip out).map (fun x => (x.1.1, widenG8 x.2.enc)), convs := r.convs ++ out }

/-- The part of a layer from its end to the expert norm: DX_TO_EXPERT, the experts, DX_FROM_EXPERT, and the router (R99 to R101, R220,
R221). `down` is the gradient of the expert input by row; it is made only where the pass goes on below. -/
def Model.backExperts (m : Model) (c : Rounding) (p : Pass) (l stage : Nat) (sets : List RowSet) (g : List (List Nat)) : LayerBack :=
  let b := m.shape
  let needX := decide (1 ≤ stage)
  let router := m.linear l (m.plan l).router
  let sent := m.toExperts c l g
  let backs := (m.backUses p l stage sets).map (fun u => (u, m.useBack c p needX l sets sent u))
  let parts (row : Nat) : List (List Word) :=
    backs.filterMap (fun x => (x.2.dx.find? (fun y => decide (y.1 = row))).map (fun y => y.2))
  let gates := (backs.filter (fun x => x.1.gated && x.1.e.first.isNone)).flatMap (fun x => x.2.weights)
  let logits := if m.needsRouter p l stage then sets.zipIdx.map (fun s =>
      Config.routerGrad b.renormalise s.1.probs s.1.gates ((gates.filter (fun w => decide (w.1 = s.2))).map (fun w => w.2))) else []
  let dl := convertRows (c.ctr l siteDX) (fun row col => ownIndex b.digest l gradRouter b.routed row col)
    (logits.zipIdx.map (fun x => (x.2, x.1)))
  let rb := m.linBack c p.update needX l router (List.range logits.length) (sets.map (m.x2Of l)) (hRows sets) (dl.map Conv.enc)
  let down := if needX then (List.range sets.length).map (fun row =>
      addAll (parts row ++ [router.runT ((dl[row]?.map Conv.enc).getD []) (rb.row row)])) else []
  { down := down, grads := backs.flatMap (fun x => x.2.grads) ++ rb.grads,
    convs := sent ++ backs.flatMap (fun x => x.2.convs) ++ dl ++ rb.dhs.flatten,
    seen := ((backs.map (fun x => x.2.seen)).foldl Seen.and ⟨[], []⟩).and
      ⟨logits.flatten ++ down.flatten ++ rb.grads.flatMap (fun x => x.2), []⟩ }

/-- The gradients of one sample's Q, K and V for one query head (R101): scores made again on the array, probabilities from the
log-sum-exp, the softmax gradient, and their products. `own` are the sample's rows in order, `da` their attention output's gradient in
G8. -/
structure HeadBack where
  scores : List Conv
  dq : List (List Word)
  dk : List (List Word)
  dv : List (List Word)
  seen : Seen
  deriving DecidableEq, Repr

/-- One head of one sample on the way back. -/
def Model.backHead (m : Model) (c : Rounding) (l h : Nat) (own : List (Nat × RowSet)) (da : Nat → List Nat) : HeadBack :=
  let pl := m.plan l
  let d := m.shape.digest
  let hd := pl.headDim
  let g := kvHead pl h
  let probs := own.zipIdx.map (fun r =>
    Config.probsFromLse d l (headScores pl h r.1.2.q ((own.take (r.2 + 1)).map (fun y => y.2.k))) (r.1.2.lse.getD h 0#32))
  let out (r : Nat × RowSet) : List Nat := piece hd h (da r.1)
  let dp := own.zipIdx.map (fun r =>
    (own.take (r.2 + 1)).map (fun y => dotRows ((out r.1).map ofG8) ((piece hd g y.2.v).map ofF8)))
  let ds := (own.zip (probs.zip dp)).map (fun x =>
    (x.1.1, Config.softmaxGrad d l x.2.1 x.2.2 ((piece hd h x.1.2.att).map widen8) (widenG8 (out x.1))))
  let sc := ds.map (fun x => convert (c.ctr l siteDX) 0 (fun j => ownIndex d l gradScores 0 x.1 (Config.scoreIndex d l x.1 h j % 2 ^ 27)) x.2)
  let code (i j : Nat) : Nat := if j ≤ i then ((sc[i]?.map Conv.enc).getD []).getD j 0 else 0
  let n := own.length
  let at8 (i j : Nat) : Nat := if j ≤ i then (toF8 ((nth probs i).getD j 0#32)).enc else 0
  { scores := sc,
    dq := (List.range n).map (fun i => (List.range hd).map (fun t =>
      dotRows ((List.range (i + 1)).map (fun j => ofG8 (code i j))) ((own.take (i + 1)).map (fun y => ofF8 ((piece hd g y.2.k).getD t 0))))),
    dk := (List.range n).map (fun j => (List.range hd).map (fun t =>
      dotRows ((List.range n).map (fun i => ofG8 (code i j))) (own.map (fun y => ofF8 ((piece hd h y.2.q).getD t 0))))),
    dv := (List.range n).map (fun j => (List.range hd).map (fun t =>
      dotRows ((List.range n).map (fun i => ofF8 (at8 i j))) (own.map (fun y => ofG8 ((out y).getD t 0))))),
    seen := ⟨probs.flatten ++ dp.flatten ++ ds.flatMap (fun x => x.2), probs.flatten⟩ }

/-- Each row's Q gradient, its heads side by side, and its K and V gradients, the query heads of a key-value head added in ascending order
(assumption log 154). -/
def Model.backAttention (m : Model) (c : Rounding) (l : Nat) (rows : List (Nat × Nat)) (sets : List RowSet) (da : Nat → List Nat) :
    List Conv × List (List Word × List Word × List Word) × Seen :=
  let pl := m.plan l
  let numbered := rows.zip (sets.zipIdx.map (fun s => (s.2, s.1)))
  let samples := (rows.map (fun r => r.1)).dedup
  let per := samples.map (fun k =>
    let own := (numbered.filter (fun x => decide (x.1.1 = k))).map (fun x => x.2)
    (own, (List.range pl.heads).map (fun h => m.backHead c l h own da)))
  let heads := per.flatMap (fun x => x.2)
  (heads.flatMap (fun h => h.scores),
    per.flatMap (fun x => (List.range x.1.length).map (fun i =>
      let kv (f : HeadBack → List (List Word)) : List Word := (List.range pl.kvHeads).flatMap (fun g =>
        addAll ((x.2.zipIdx.filter (fun y => decide (kvHead pl y.2 = g))).map (fun y => nth (f y.1) i)))
      (x.2.flatMap (fun h => nth h.dq i), kv HeadBack.dk, kv HeadBack.dv))),
    (heads.map (fun h => h.seen)).foldl Seen.and ⟨[], []⟩)

/-- The part of a layer from the expert norm down: the residual's gradient passes to both branches, through the output projection, the
attention and the query, key and value projections, as far as the stage asks (R85, R101). `dmid` is the gradient of the residual after
attention by row. -/
def Model.backAttn (m : Model) (c : Rounding) (p : Pass) (l stage : Nat) (rows : List (Nat × Nat)) (sets : List RowSet)
    (dmid : List (List Word)) : LayerBack :=
  let b := m.shape
  let pl := m.plan l
  let d := b.digest
  let nos := List.range sets.length
  let number (x : List (List Word)) : List (Nat × List Word) := x.zipIdx.map (fun y => (y.2, y.1))
  let own (what width : Nat) (x : List (List Word)) : List Conv :=
    convertRows (c.ctr l siteDX) (fun row col => ownIndex d l what width row col) (number x)
  let enc (x : List Conv) (n : Nat) : List Nat := (x[n]?.map Conv.enc).getD []
  let o := m.linear l pl.output
  let dy := own gradOutput b.dModel dmid
  let ob := m.linBack c p.update (decide (2 ≤ stage)) l o nos (sets.map (fun s => s.att)) (hRows sets) (dy.map Conv.enc)
  let first : LayerBack := ⟨[], ob.grads, dy ++ ob.dhs.flatten, ⟨dmid.flatten ++ ob.grads.flatMap (fun x => x.2), []⟩⟩
  if stage < 2 then first
  else
    let datt := nos.map (fun n => o.runT (enc dy n) (ob.row n))
    let da := own gradAttention (pl.heads * pl.headDim) datt
    let (scores, qkv, seen) := m.backAttention c l rows sets (enc da)
    let pos (n : Nat) : Int := match rows[n]? with | some r => (r.2 : Int) | none => 0
    let dq := qkv.zipIdx.map (fun x => Config.rotate d l (-(pos x.2)) x.1.1)
    let dk := qkv.zipIdx.map (fun x => Config.rotate d l (-(pos x.2)) x.1.2.1)
    let dv := qkv.map (fun x => x.2.2)
    let gq := own gradQuery (pl.heads * pl.headDim) dq
    let gk := own gradKey (pl.kvHeads * pl.headDim) dk
    let gv := own gradValue (pl.kvHeads * pl.headDim) dv
    let xs := sets.map (fun s => s.x1)
    let back (matrix : Nat) (dys : List Conv) : LinBack :=
      m.linBack c p.update (decide (3 ≤ stage)) l (m.linear l matrix) nos xs (hRows sets) (dys.map Conv.enc)
    let bq := back pl.query gq
    let bk := back pl.key gk
    let bv := back pl.value gv
    let dx := if 3 ≤ stage then nos.map (fun n =>
        chainT [(m.linear l pl.query, enc gq n, bq.row n), (m.linear l pl.key, enc gk n, bk.row n), (m.linear l pl.value, enc gv n, bv.row n)]) else []
    let down := (dmid.zip (sets.zip dx)).map (fun x => zip2 fadd x.1 (Config.rmsGrad d l 0 x.2.1.boundary x.2.1.rms1 x.2.2))
    let grads := bq.grads ++ bk.grads ++ bv.grads
    first.and ⟨down, grads, da ++ scores ++ gq ++ gk ++ gv ++ (bq.dhs ++ bk.dhs ++ bv.dhs).flatten,
      seen.and ⟨datt.flatten ++ (dq ++ dk ++ dv ++ dx ++ down).flatten ++ grads.flatMap (fun x => x.2), []⟩⟩

/-- A layer on the way back, from the G8 gradient that enters it (R83 to R90, R101). -/
def Model.backLayer (m : Model) (c : Rounding) (p : Pass) (l stage : Nat) (rows : List (Nat × Nat)) (sets : List RowSet)
    (g : List (List Nat)) : LayerBack :=
  let moe := m.shape.moeLayers.contains l
  let e : LayerBack := if moe then m.backExperts c p l stage sets g else ⟨[], [], [], ⟨[], []⟩⟩
  if stage = 0 then { e with down := [] }
  else
    let dmid := if moe then (g.zip (sets.zip e.down)).map (fun x =>
        zip2 fadd (widenG8 x.1) (Config.rmsGrad m.shape.digest l 1 x.2.1.mid x.2.1.rms2 x.2.2))
      else g.map widenG8
    e.and (m.backAttn c p l stage rows sets dmid)

/-! ## The loss (R72, R76, R101, R200, R204) -/

/-- The gradient of the logits of a position: their softmax minus the target, times the loss weight (R101). -/
def lossGrad (weight : Word) (target : Nat) (logits : List Word) : List Word :=
  (Config.softmax logits).zipIdx.map (fun x => fmul (fsub x.1 (if x.2 = target then one32 else 0#32)) weight)

/-- The target of each row: the token after it in its sample; none for the last (R200). -/
def targetsOf (samples : List Sample) : List (Option Nat) :=
  samples.flatMap (fun s => (List.range s.length).map (fun i => s[i + 1]?))

/-- What the head gives for the rows: the losses in token order, the gradient of the final residual by row, and what it shows. -/
structure Head where
  losses : List Word
  grads : List (List Word)
  seen : Seen
  deriving DecidableEq, Repr

/-- The output head over the final residuals (R101). -/
def Model.head (m : Model) (weight : Word) (samples : List Sample) (res : List (List Word)) : Head :=
  let rows := (res.zip (targetsOf samples)).map (fun x =>
    match x.2 with
    | some t =>
      let logits := Config.headLogits m.shape.digest x.1
      let d := lossGrad weight t logits
      let g := Config.headBack m.shape.digest x.1 d
      ([Config.tokenLoss logits t], g, Seen.mk (Config.tokenLoss logits t :: logits ++ d ++ g) [])
    | none => ([], x.1.map (fun _ => 0#32), ⟨[], []⟩))
  { losses := rows.flatMap (fun r => r.1), grads := rows.map (fun r => r.2.1), seen := (rows.map (fun r => r.2.2)).foldl Seen.and ⟨[], []⟩ }

/-! ## A whole micro-batch -/

/-- What fixes a micro-batch (R78). -/
structure MicroIn where
  model : Model
  pass : Pass
  rounding : Rounding
  weight : Word
  samples : List Sample
  deriving DecidableEq, Repr

/-- The forward pass: each layer's rows. -/
def MicroIn.forward (m : MicroIn) : List (List RowRun) :=
  m.model.runLayers m.pass (rowsOf m.samples) (List.range m.model.shape.layers)
    (m.samples.flatMap (fun s => s.map (Config.embed m.model.shape.digest)))

/-- The final residuals. -/
def MicroIn.final (m : MicroIn) : List (List Word) :=
  match m.forward.getLast? with
  | some rows => rows.map (fun r => r.out)
  | none => m.samples.flatMap (fun s => s.map (Config.embed m.model.shape.digest))

/-- The output head. -/
def MicroIn.headOf (m : MicroIn) : Head := m.model.head m.weight m.samples m.final

/-- The F8 conversions of the head that saturate (R65). -/
def MicroIn.headSats (m : MicroIn) : Nat := (m.final.map (Config.headSats m.model.shape.digest)).sum

/-- The stash set of a layer as its forward pass ends (R102, R104). -/
def MicroIn.setOf (m : MicroIn) (l : Nat) : List RowSet := (m.forward.getD l []).map (fun r => r.set)

/-- The set the backward pass of layer k reads: the one held; where none is, the pass forward from the highest boundary held at or below
it (R106). -/
def MicroIn.readSet (m : MicroIn) (held : List (Nat × List RowSet)) (k : Nat) : List RowSet :=
  match held.find? (fun h => decide (h.1 = k) && decide (h.2 ≠ [])) with
  | some h => h.2
  | none =>
    match (held.filter (fun h => decide (h.1 ≤ k))).foldl (fun b h => match b with
        | some x => if x.1 < h.1 then some h else some x
        | none => some h) (none : Option (Nat × List RowSet)) with
    | some h => m.model.setFrom m.pass (rowsOf m.samples) h.1 k (h.2.map (fun s => s.boundary))
    | none => m.setOf k

/-- The conversion of the gradient that enters a layer, from the exponent it carries to the layer's (R72). -/
def MicroIn.enter (m : MicroIn) (l : Nat) (carried : Int) (grad : List (List Word)) : List Conv :=
  grad.zipIdx.map (fun x => convert (m.rounding.ctr l siteDX) (m.rounding.s l - carried) (fun col => x.2 * m.model.shape.dModel + col) x.1)

/-- The backward pass through layers, from the gradients that leave the layer above (or the loss) and the exponent they carry (R72, R85):
what each gives, and the conversion that entered it. -/
def MicroIn.backLayers (m : MicroIn) (sets : Nat → List RowSet) (low stage : Nat) : List Nat → Int → List (List Word) → List (Nat × LayerBack)
  | [], _, _ => []
  | l :: ls, carried, grad =>
    let g := m.enter l carried grad
    let b := m.model.backLayer m.rounding m.pass l (if l = low then stage else 3) (rowsOf m.samples) (sets l) (g.map Conv.enc)
    (l, { b with convs := g ++ b.convs }) :: m.backLayers sets low stage ls (m.rounding.s l) b.down

/-- The layers of the backward pass, from the top to the lowest that holds a tensor of the update set (R85). -/
def MicroIn.backward (m : MicroIn) (held : List (Nat × List RowSet)) : List (Nat × LayerBack) :=
  match m.model.lowest m.pass.update with
  | some (low, stage) =>
    m.backLayers (m.readSet held) low stage ((layersFrom low (m.model.shape.layers - 1)).reverse) 0 m.headOf.grads
  | none => []

/-! ## Legs of a pass (R106, R219, R220, R224) -/

/-- A leg of a pass: the bundles of one layer, with the experts' inputs or back with their gradients; `keep` says that the homes keep the
gate and up values (R219). -/
structure Leg where
  back : Bool
  layer : Nat
  keep : Bool
  deriving DecidableEq, Repr

/-- The legs of a forward pass through layers j to k: one for each expert layer. -/
def forwardLegs (b : BaseShape) (j k : Nat) (keep : Nat → Bool) : List Leg :=
  ((layersFrom j k).filter (fun l => b.moeLayers.contains l && decide (l < b.layers))).map (fun l => ⟨false, l, keep l⟩)

/-- The legs of a backward pass down to layer `low`; in a range recomputed from layer j, each layer's after those of the layers run forward
again for it, whose homes take the values of that layer only (R106). -/
def backwardLegs (b : BaseShape) (low : Nat) (from? : Option Nat) : List Leg :=
  ((layersFrom low (b.layers - 1)).reverse).flatMap (fun k =>
    (match from? with
     | some j => if j ≤ k then forwardLegs b j k (fun l => decide (l = k)) else []
     | none => []) ++
    (if b.moeLayers.contains k && decide (k < b.layers) then [⟨true, k, false⟩] else []))

/-- The legs of a micro-batch (R85, R102, R106): the stash holds nothing below the lowest layer the step trains, and a pass that recomputes
takes no set on its way forward. -/
def MicroIn.legs (m : MicroIn) (from? : Option Nat) : List Leg :=
  let b := m.model.shape
  match m.model.lowest m.pass.update with
  | some (low, _) => forwardLegs b 0 (b.layers - 1) (fun l => decide (low ≤ l) && from?.isNone) ++ backwardLegs b low from?
  | none => forwardLegs b 0 (b.layers - 1) (fun _ => false)

/-- The G8 gradient that enters a layer, by row. -/
def MicroIn.into (m : MicroIn) (held : List (Nat × List RowSet)) (low stage k : Nat) : List (List Nat) :=
  let above := (layersFrom (k + 1) (m.model.shape.layers - 1)).reverse
  let g := match (m.backLayers (m.readSet held) low stage above 0 m.headOf.grads).getLast? with
    | some (l, b) => m.enter k (m.rounding.s l) b.down
    | none => m.enter k 0 m.headOf.grads
  g.map Conv.enc

/-- What a leg carries for one expert: its name, its rows with their ranks, the codes, and the FP32 value of each row (R220, R221). -/
structure Load where
  key : Nat
  rows : List Nat
  ranks : List Nat
  codes : List Nat
  fp : List Word
  deriving DecidableEq, Repr

/-- The load of an expert's rows. -/
def loadOf (back : Bool) (codes : Nat → List Nat) (u : ExpertUse) : Option Load :=
  u.key.map (fun key =>
    { key := key, rows := u.rows.map (fun r => r.1), ranks := u.rows.map (fun r => u.rank r.1),
      codes := u.rows.flatMap (fun r => codes r.1), fp := if back then u.rows.map (fun r => r.2) else [] })

/-- The loads of a leg, one for each expert with rows (R219, R220). -/
def MicroIn.loads (m : MicroIn) (held : List (Nat × List RowSet)) (g : Leg) : List Load :=
  if g.back then
    match m.model.lowest m.pass.update with
    | some (low, stage) =>
      let sets := m.readSet held g.layer
      let sent := m.model.toExperts m.rounding g.layer (m.into held low stage g.layer)
      (m.model.backUses m.pass g.layer (if g.layer = low then stage else 3) sets).filterMap
        (loadOf true (fun row => (sent[row]?.map Conv.enc).getD []))
    | none => []
  else
    let sets := m.model.setFrom m.pass (rowsOf m.samples) 0 g.layer (m.samples.flatMap (fun s => s.map (Config.embed m.model.shape.digest)))
    (m.model.uses m.pass g.layer sets).filterMap (loadOf false (fun row => match sets[row]? with | some s => m.model.x2Of g.layer s | none => []))

/-- What a micro-batch gives: the gradients of the tensors the step updates, the statistics and flags of its layers, its losses in token
order, and the F8 conversions that saturated (R65, R68, R73, R76). -/
structure MicroOut where
  grads : List (Nat × List Word)
  stats : List LayerStat
  losses : List Word
  sats : Nat
  deriving DecidableEq, Repr

/-- The gradient of a tensor. -/
def MicroOut.grad (o : MicroOut) (i : Nat) : List Word := match o.grads.find? (fun g => decide (g.1 = i)) with | some g => g.2 | none => []

/-- A micro-batch runs forward and back (R68 to R73, R76, R83 to R90). -/
def MicroIn.run (m : MicroIn) (held : List (Nat × List RowSet)) : MicroOut :=
  let fwd := m.forward
  let head := m.headOf
  let back := m.backward held
  let n := m.model.shape.layers
  let seenAt (l : Nat) : Seen := ((fwd.getD l []).map (fun r => r.seen)).foldl Seen.and ⟨[], []⟩
  { grads := back.flatMap (fun b => b.2.grads),
    stats := (List.range n).map (fun l =>
      let f := (seenAt l).and (if l + 1 = n then head.seen else ⟨[], []⟩)
      match back.find? (fun b => decide (b.1 = l)) with
      | some b => layerStat b.2.convs (f.and b.2.seen)
      | none => layerStat [] f),
    losses := head.losses,
    sats := ((List.range n).map (fun l => (seenAt l).sats)).sum + (back.map (fun b => b.2.seen.sats)).sum + m.headSats }

/-- An evaluation's micro-batch: its losses and the F8 conversions that saturated (R204). -/
def MicroIn.evaluate (m : MicroIn) : List Word × Nat :=
  (m.headOf.losses, ((m.forward.flatten).map (fun r => r.seen.sats)).sum + m.headSats)

end Sys2Proof.Machine
end

