-- ==== Sys2Proof/Machine/Training.lean ====
section
/-! DEFINITION. Training: the acceptance of steps, evaluations and settings, replays, and the end of a step that does not commit
(R118, R119, R126, R128, R129, R135 to R137, R200 to R206, R344 to R350, R394, R396, R398, R399). -/

namespace Sys2Proof.Machine

/-! ## Manifest and settings -/

/-- The default rule settings (R118, R201). -/
def RuleSet.default : RuleSet :=
  { rule := 1, lr := 0x38D1B717#32, weightDecay := 0#32, beta1 := 0x3F666666#32, beta2 := 0x3F7FBE77#32,
    eps := 0x322BCC77#32, copyMode := 0, k := 8, driftLimit := 16, sStart := none, learn := false, learnBatch := 64 }

/-- Whether a tensor takes part in steps: not of an extra expert that is detached (R195). -/
def Var.takesPart (v : Var) (i : TensorInfo) : Bool :=
  decide (i.kind < 2) || v.extras.any (fun e => decide (e.decl.extraNo = i.source) && e.slot.isSome)

/-- The tensors with their global indices. -/
def Var.indexed (v : Var) : List (Nat × Tensor) := (v.tensors.zipIdx).map (fun p => (p.2, p.1))

/-- The update set of a STEP that names none: every unfrozen trainable tensor that takes part (R136, R195). -/
def Var.unfrozen (v : Var) : List Nat :=
  (v.indexed.filter (fun p => !p.2.info.frozen && v.takesPart p.2.info)).map (fun p => p.1)

/-- The extra experts attached, by number (R195). -/
def Var.attached (v : Var) : List Nat := (v.extras.filter (fun e => e.slot.isSome)).map (fun e => e.decl.extraNo)

/-- The base model's width and layers; zero when none is loaded. -/
def State.dModel (s : State) : Nat := match s.base.shape with | some b => b.dModel | none => 0
/-- Layers of the base model. -/
def State.layers (s : State) : Nat := match s.base.shape with | some b => b.layers | none => 0
/-- Working format of the base model (R61). -/
def State.baseFormat (s : State) : Nat := match s.base.shape with | some b => b.format | none => 4
/-- Digest of the base model; zero when none is loaded (R376). -/
def State.baseDigest (s : State) : Bytes := match s.base.shape with | some b => b.digest | none => List.replicate 48 0

/-- The widths of the activation gradients that are converted to G8 in a layer (R90): that which enters it, those of its products' outputs,
and those of its experts' hidden layers. -/
def gradWidths (b : BaseShape) : List Nat :=
  b.dModel :: b.layerMap.map (fun m => m.2.2.2) ++ (if b.moeLayers = [] then [] else b.hidden :: b.sharedHidden)

/-- Whether a micro-batch of some tokens keeps every activation gradient within 2^27 elements (R90). -/
def State.gradsFit (s : State) (tokens : Nat) : Bool :=
  match s.base.shape with
  | some b => (gradWidths b).all (fun w => decide (tokens * w ≤ 2 ^ 27))
  | none => true

/-- The range of micro_rows (R344). -/
def State.microRowsOk (s : State) (n : Nat) : Bool := decide (1 ≤ n) && decide (n * s.dModel ≤ 2 ^ 27)

/-- Samples packed into micro-batches (R210): one closes when the next sample would take it past its rows. -/
def packBatches (rows : Nat) : List Sample → List Sample → Nat → List (List Sample)
  | cur, [], _ => if cur = [] then [] else [cur.reverse]
  | cur, x :: xs, n =>
    if cur ≠ [] && decide (rows < n + x.length) then cur.reverse :: packBatches rows [x] xs x.length
    else packBatches rows (x :: cur) xs (n + x.length)

/-- The micro-batches of a step, each a parison of 1 to 65,536 rows (R207); a step with no sample has none (assumption log 17). -/
def batchesOf (rows : Nat) (samples : List Sample) : List (List Sample) := packBatches (min rows 65536) [] samples 0

/-- Tokens of a list of samples. -/
def tokensOf (l : List Sample) : Nat := (l.map List.length).sum

/-- Whole samples of a variant from the queue while the total stays within a limit; `must` takes one at least. -/
def takeQueued (v limit : Nat) : List Queued → Nat → Bool → List Sample × List Queued
  | [], _, _ => ([], [])
  | q :: qs, n, must =>
    if q.variant = v then
      if must || decide (n + q.tokens.length ≤ limit) then
        let r := takeQueued v limit qs (n + q.tokens.length) false
        (q.tokens :: r.1, r.2)
      else ([], q :: qs)
    else
      let r := takeQueued v limit qs n must
      (r.1, q :: r.2)

/-- The context seed of a context. -/
def State.seedOf (s : State) (ctx : Nat) : Nat := match s.ctx ctx with | some c => c.seed | none => 0

/-! ## The record of a step (R394, R396) -/

/-- The open record of a step. -/
def State.openRecord (s : State) (v : Var) (c : Ctx) (t : TStep) (automatic : Bool) : LogRecord :=
  { kind := .opened, step := t.number, variant := t.variant, schedule := t.schedule, automatic := automatic, agreed := false,
    degraded := c.groupVacant s, sStart := t.sStart.map (fun k => k.2), seed := c.seed, microRows := t.microRows,
    microBatches := t.batches.length, groupSize := c.settings.groupSize, owners := v.owners, settings := t.settings,
    stash := c.settings.stash, lossSum := 0#32, tokens := t.tokens, baseDigest := s.baseDigest, sAfter := [],
    quietAfter := [], updateSet := t.updateSet, generations := [], samples := t.batches.flatten }

/-- Whether a record more fits the page store (R394). -/
def State.recordFits (s : State) (ctx : Nat) (v : Var) (r : LogRecord) : Bool :=
  match s.ctx ctx with
  | some c => decide (s.storeUsed ctx - v.logPagesHeld + Config.logPages (v.log ++ [r]) ≤ c.settings.storeSize)
  | none => false

/-- Reply when a command waits. -/
def State.answerOpt (s : State) (t : Option Ticket) (status : Nat) : State :=
  match t with | some t => s.answer t status | none => s

/-- The tile-group size a step has used: that of the reduced group where it ran on one (R387, R396). -/
def State.groupUsed (s : State) (t : TStep) (full : Nat) : Nat :=
  if t.degraded then (match s.ctx t.ctx with | some c => (s.runTiles c).length | none => full) else full

/-! ## Acceptance of STEP (R119, R126, R136, R203, R344, R394, R485) -/

/-- What refuses a STEP's tensor list: base or frozen, beyond the manifest, or of a detached expert. -/
def Var.refuseTensors (v : Var) (l : List TensorRef) : Option Nat :=
  if l.any (fun r => match r with
      | .base _ _ => true
      | .own i => match v.tensors[i]? with | some t => t.info.frozen | none => false) then some stFrozen
  else if l.any (fun r => match r with
      | .base _ _ => false
      | .own i => match v.tensors[i]? with | some t => !v.takesPart t.info | none => true) then some stNotPermitted
  else none

/-- The update set a tensor list names. -/
def namedSet (l : List TensorRef) : List Nat :=
  (l.filterMap (fun r => match r with | .own i => some i | .base _ _ => none)).dedup

/-- A step of which nothing has run. -/
def TStep.start (key variant ctx number incarnation leaderAt : Nat) (h : StepHead) : TStep :=
  { id := key, variant := variant, ctx := ctx, number := number, ticket := none, leader := true, leaderAt := leaderAt, seed := h.seed,
    owners := h.owners, stash := ⟨16, 0, 32⟩, arrived := [], backAt := none, homeFull := [], replay := none, incarnation := incarnation,
    updateSet := h.updateSet, experts := [], settings := h.settings, schedule := h.schedule, sStart := h.sStart, batches := List.replicate h.batches [],
    microRows := 1, generations := [], done := 0, phase := .waiting, stats := [], losses := [], tokens := 0, spillPeak := 0,
    recomputed := [], recomputeForwards := 0, stashWork := 0, checks := [], layersLeft := [], layersDone := [], derives := false,
    badUpdate := false, drift := [], compared := 0, votes := [], headers := [], digestsDue := false, differ := [], ending := none,
    rerun := false, degraded := false, reading := [], readExp := [], pinned := true }

/-- The step a variant accepts. -/
def State.newStep (s : State) (v : Var) (c : Ctx) (id ctx : Nat) (ticket : Option Ticket) (p : StepParams)
    (samples : List Sample) (key : Nat) : TStep :=
  let head : StepHead :=
    { updateSet := if p.tensors = [] then v.unfrozen else namedSet p.tensors, settings := v.settings, schedule := c.schedule,
      sStart := v.sStartPending, seed := c.seed, owners := v.owners, batches := 0, replayed := false }
  { TStep.start key id ctx (v.largestGiven + 1) c.incarnation s.pos head with
    ticket := ticket, stash := c.settings.stash, batches := batchesOf p.microRows samples, microRows := p.microRows,
    tokens := tokensOf samples, experts := v.attached }

/-- A step is accepted: its number, its record, its pin; the samples it takes leave the queue. An automatic step that
cannot be accepted waits. -/
def State.acceptStep (s : State) (ticket : Option Ticket) (id ctx : Nat) (p : StepParams) : State :=
  match s.var id, s.ctx ctx with
  | some v, some c =>
    match v.refuseTensors p.tensors with
    | some st => s.answerOpt ticket st
    | none =>
      let took := if p.takeQueue then takeQueued id (v.settings.learnBatch * 256) c.queue (tokensOf p.samples) (ticket.isNone)
        else ([], c.queue)
      let samples := p.samples ++ took.1
      if !(batchesOf p.microRows samples).all (fun b => s.gradsFit (tokensOf b)) then s.answerOpt ticket stNotPermitted
      else if 2 ^ 64 - 1 ≤ v.largestGiven then s.answerOpt ticket stStepLimit
      else if 65535 ≤ v.pins then s.answerOpt ticket stBusy
      else
        let (key, s) := s.fresh
        let t := s.newStep v c id ctx ticket p samples key
        let kept := if v.forked then v.log.filter (fun r => decide (r.step ≤ v.largestGiven)) else v.log
        let r := s.openRecord v c t ticket.isNone
        if !s.recordFits ctx { v with log := kept } r then s.answerOpt ticket stBusy
        else
          let s := s.setCtx ctx { c with queue := took.2 }
          let s := s.setVar id { v with largestGiven := t.number, log := kept ++ [r], forked := false }
          { s with steps := s.steps ++ [t] }.pin id
  | _, _ => s.answerOpt ticket stContextGone

/-- Whether an automatic step is due (R202). -/
def State.autoDue (s : State) (id : Nat) : Bool :=
  match s.var id with
  | some v =>
    decide (v.st = .resident) && v.settings.learn && decide (v.settings.learnBatch * 256 ≤ s.queuedTokens v.ctx id) &&
    v.tensors.any (fun x => !x.info.frozen) && decide (s.ctxState v.ctx = .active ∨ s.ctxState v.ctx = .suspended)
  | none => false

/-- Take an automatic step that is due: a STEP with no tensor list, micro_rows 1,024 and the queue (R202). -/
def State.takeAuto (s : State) (id : Nat) : State :=
  if s.autoDue id then
    s.acceptStep none id (match s.var id with | some v => v.ctx | none => 0)
      { samples := [], tensors := [], takeQueue := true, microRows := 1024 }
  else s

/-! ## Acceptance of EVAL, SET_RULE, FREEZE (R118, R119, R135, R204, R205) -/

/-- An EVAL is accepted (R204, R205). -/
def State.acceptEval (s : State) (t : Ticket) (samples : List Sample) (microRows every : Nat) : State :=
  match s.var t.variant with
  | some v =>
    if 0 < every && 4 ≤ (s.evalsFor (fun e => decide (e.ctx = t.ctx) && decide (0 < e.every))).length then s.answer t stTableFull
    else if 65535 ≤ v.pins then s.answer t stBusy
    else
      let (key, s) := s.fresh
      let e : EvalRun :=
        { ticket := t, variant := t.variant, ctx := t.ctx, experts := v.attached, batches := batchesOf microRows samples, every := every,
          commitsLeft := 0, active := true, generation := 0, reading := [], done := 0, losses := [],
          tokens := tokensOf samples, ending := none, afterStep := key, degraded := false, rerun := false }
      { s with evals := s.evals.put key e }.pin t.variant
  | none => s.answer t stNotPermitted

/-- Whether a finite FP32 value lies in [0, 1). -/
def inUnit (w : Word) : Bool := !nonFinite w && !flt w 0#32 && flt w one32
/-- Whether a finite FP32 value is at least 0. -/
def nonNegFP (w : Word) : Bool := !nonFinite w && !flt w 0#32
/-- Whether a finite FP32 value exceeds 0. -/
def posFP (w : Word) : Bool := !nonFinite w && flt 0#32 w

/-- The ranges of R118 and R201. -/
def RuleInRange (p : RuleParams) : Bool :=
  optWf' (fun v => decide (v ≤ 3)) p.rule && optWf' nonNegFP p.lr && optWf' inUnit p.weightDecay && optWf' inUnit p.beta1 &&
  optWf' inUnit p.beta2 && optWf' posFP p.eps && optWf' (fun v => decide (v ≤ 1)) p.copyMode &&
  optWf' (fun v => decide (2 ≤ v) && decide (v ≤ 64)) p.k && optWf' (fun v => decide (v ≤ 2)) p.stepSchedule &&
  optWf' (fun v => decide (1 ≤ v)) p.learnBatch
where
  /-- Holds of what is given. -/
  optWf' {α : Type} (f : α → Bool) : Option α → Bool
    | some a => f a
    | none => true

/-- SET_RULE is accepted (R119): what is left out is unchanged. -/
def State.acceptRule (s : State) (t : Ticket) (p : RuleParams) : State :=
  let (k, s) := s.fresh
  let s := s.modVar t.variant (fun v =>
    { v with
      settings :=
        { rule := p.rule.getD v.settings.rule, lr := p.lr.getD v.settings.lr,
          weightDecay := p.weightDecay.getD v.settings.weightDecay, beta1 := p.beta1.getD v.settings.beta1,
          beta2 := p.beta2.getD v.settings.beta2, eps := p.eps.getD v.settings.eps,
          copyMode := p.copyMode.getD v.settings.copyMode, k := p.k.getD v.settings.k,
          driftLimit := p.driftLimit.getD v.settings.driftLimit, sStart := v.settings.sStart,
          learn := p.learn.getD v.settings.learn, learnBatch := p.learnBatch.getD v.settings.learnBatch },
      sStartPending := match p.sStart with | some x => some (k + 1, x) | none => v.sStartPending })
  let s := s.modCtx t.ctx (fun c => { c with schedule := p.stepSchedule.getD c.schedule })
  s.answer t stOk

/-- Whether the base image's layer map lists a matrix (R347). -/
def State.inLayerMap (s : State) (layer matrix : Nat) : Bool :=
  match s.base.shape with
  | some b => b.layerMap.any (fun m => decide (m.1 = layer) && decide (m.2.1 = matrix))
  | none => false

/-- Whether every tensor_ref names something (R347). -/
def State.refsExist (s : State) (v : Var) (l : List TensorRef) : Bool :=
  l.all (fun r => match r with | .own i => decide (i < v.tensors.length) | .base a b => s.inLayerMap a b)

/-- Mark tensors frozen or thawed (R135): a newly frozen one copies its working copy at the next commit. -/
def Var.setFrozen (v : Var) (l : List Nat) (f : Bool) : Var :=
  v.mapTensors (fun i x =>
    if l.contains i && decide (x.info.frozen ≠ f) then { x with info := { x.info with frozen := f } } else x)

/-- FREEZE is accepted (R135, R347). -/
def State.acceptFreeze (s : State) (t : Ticket) (l : List TensorRef) : State :=
  match s.var t.variant with
  | some v =>
    if !s.refsExist v l then s.answer t stNotPermitted
    else (s.setVar t.variant (v.setFrozen (namedSet l) true)).answer t stOk
  | none => s.answer t stNotPermitted

/-- FREEZE with THAW is accepted: a base tensor is answered FROZEN (R135, R347). -/
def State.acceptThaw (s : State) (t : Ticket) (l : List TensorRef) : State :=
  match s.var t.variant with
  | some v =>
    if l.any (fun r => match r with | .base a b => s.inLayerMap a b | .own _ => false) then s.answer t stFrozen
    else if !s.refsExist v l then s.answer t stNotPermitted
    else (s.setVar t.variant (v.setFrozen (namedSet l) false)).answer t stOk
  | none => s.answer t stNotPermitted

/-! ## Events of a step -/

/-- The sequence number a step's events carry as their cause (R287). -/
def TStep.cause (t : TStep) : Nat := match t.ticket with | some k => k.seq | none => 0

/-- SCALE_ADJUST of every layer that changed (R75). -/
def State.raiseAdjust (s : State) (t : TStep) (l : List Adjust) : State :=
  eachDo l.zipIdx (fun p s =>
    match p.1.old with
    | some o => s.raiseCtx evScaleAdjust t.ctx t.cause t.number t.variant
        [p8 0x90 p.2, (0x91, [ofS8 o]), (0x92, [ofS8 p.1.s])]
    | none => s) s

/-! ## Replays (R398) -/

/-- The step a replayed record runs as, under what the record says (R398). -/
def State.replayStep (s : State) (r : LogRecord) (ticket : Ticket) (c : Ctx) (idx key : Nat) : TStep :=
  let head : StepHead :=
    { updateSet := r.updateSet, settings := r.settings, schedule := r.schedule, sStart := r.sStart.map (fun k => (0, k)),
      seed := r.seed, owners := r.owners, batches := 0, replayed := true }
  { TStep.start key ticket.variant ticket.ctx r.step c.incarnation s.pos head with
    ticket := some ticket, stash := r.stash, replay := some idx, batches := batchesOf r.microRows r.samples, microRows := r.microRows,
    generations := r.generations, tokens := r.tokens, experts := match s.var ticket.variant with | some v => v.attached | none => [],
    degraded := decide (r.groupSize ≠ c.settings.groupSize) || c.groupVacant s }

/-- The next record of a replay runs; PASSED records are passed over; a replay with none left is answered (R350). -/
def State.nextReplay (s : State) (v : Nat) : State :=
  match s.replays.find? (fun r => decide (r.variant = v)) with
  | none => s
  | some r =>
    match r.records.dropWhile (fun x => decide (x.kind = .passed)) with
    | [] =>
      let s : State := { s with replays := s.replays.filter (fun x => decide (x.variant ≠ v)) }
      let s := s.modVar v (fun w => { w with forked := w.forked && w.log.any (fun x => decide (r.last < x.step)) })
      let last := match s.var v with | some w => w.stepCounter | none => 0
      s.answerWith r.ticket (s.graded r.ticket.ctx (if r.degraded then stOkDegraded else stOk)) [p64 0x81 last, p32 0x82 r.replayed]
    | x :: rest =>
      match s.ctx r.ticket.ctx with
      | none => s
      | some c =>
        let (key, s) := s.fresh
        let t := s.replayStep x r.ticket c r.replayed key
        let s : State := { s with
          replays := s.replays.map (fun q => if q.variant = v then { q with records := rest, degraded := q.degraded || t.degraded } else q),
          steps := s.steps ++ [t] }
        let s := s.modVar v (fun w => { w with largestGiven := max w.largestGiven x.step })
        s.pin v

/-- Whether a variant's replay has no record left to run. -/
def State.replayOver (s : State) (v : Nat) : Bool :=
  match s.replays.find? (fun r => decide (r.variant = v)) with
  | some r => r.records.all (fun x => decide (x.kind = .passed))
  | none => true

/-- A replayed step ended with commit or skip: the replay goes on. -/
def State.replayGoesOn (s : State) (t : TStep) : State :=
  if t.replay.isSome then
    let s : State := { s with replays := s.replays.map (fun q => if q.variant = t.variant then { q with replayed := q.replayed + 1 } else q) }
    s.nextReplay t.variant
  else s

/-- Records whose step lies in a range. -/
def recordsIn (first last : Nat) (l : List LogRecord) : List LogRecord :=
  l.filter (fun r => decide (r.kind ≠ .opened) && decide (first ≤ r.step) && decide (r.step ≤ last))

/-- A replay begins: every number of the range has a record, and the first follows the step counter (R350, R398). -/
def State.startReplay (s : State) (t : Ticket) (first last : Nat) (l : List LogRecord) : State :=
  match s.var t.variant with
  | some v =>
    let rs := recordsIn first last l
    let before := (l.filter (fun r => decide (r.kind = .committed) && decide (r.step < first))).map (fun r => r.step)
    let follows := if before = [] then decide (v.stepCounter < first) else decide (before.foldl max 0 = v.stepCounter)
    if last < first || decide ((rs.map (fun r => r.step)).dedup.length ≠ last + 1 - first) || !follows ||
        s.replays.any (fun r => decide (r.variant = t.variant)) then s.answer t stNotPermitted
    else
      let s : State := { s with replays := s.replays ++ [⟨t, t.variant, rs, 0, last, false⟩] }
      s.nextReplay t.variant
  | none => s.answer t stNotPermitted

/-! ## Committed state (R119, R135, R389, R390) -/

/-- The staged state of a step becomes committed: the half of every updated tensor flips. At a change of rule the old rule's state is
discarded, but a frozen tensor keeps the state it was frozen with (R119, R135, R389, R390). -/
def Var.commitStaged (v : Var) (t : TStep) : Var :=
  v.mapTensors (fun i x =>
    match (if t.updateSet.contains i then x.staged else none) with
    | some st => { x with committed := st, staged := none, half := !x.half }
    | none =>
      if !x.info.frozen && decide (x.committed.rule ≠ t.settings.rule) then
        { x with committed := zeroState t.settings.rule x.info.rows x.info.cols x.committed.master }
      else x)

/-! ## Skips (R128, R129) -/

/-- A step ends without commit and is recorded: skipped at its check or its vote, or the stash exhausted. -/
def State.endRecorded (s : State) (t : TStep) (status cause : Nat) (kind : RecordKind) : State :=
  let s := (s.dropStep t.variant t.number).discardStaged t
  let v := s.var t.variant
  let s := if t.replay.isSome then s else s.closeRecord t.variant t.number (fun r =>
    some { r with
      kind := kind, lossSum := pairSum t.losses, generations := t.generations, degraded := r.degraded || t.degraded,
      groupSize := s.groupUsed t r.groupSize,
      sAfter := match v with | some w => w.sExp | none => [], quietAfter := match v with | some w => w.quiet | none => [] })
  let s := if status = stSkipped then s.countTenant t.ctx tStepsSkipped 1 else s
  let s := ((s.returnNumber t (decide (status ≠ stSkipped) || s.replayOver t.variant)).stashEvents t).snapCtx t.ctx
  let s := if status = stSkipped then s else s.failReplay t status cause
  let s := s.replyStep t status cause
  if status = stSkipped then s.replayGoesOn t else s

/-- A set is cleared on every tile (R76). -/
def State.clearSets (s : State) (set : Nat) : State :=
  { s with tiles := s.tiles.each (fun _ t => { t with sets := t.sets.set set [] }) }

/-- A variant becomes active; one of 16 makes room: that with no step in flight whose last step began earliest (R191). -/
def State.activate (s : State) (v : Nat) : State :=
  let act := s.vars.filter (fun p => p.2.active)
  let s :=
    if act.any (fun p => decide (p.1 = v)) || act.length < 16 then s
    else match (act.filter (fun p => s.steps.all (fun t => decide (t.variant ≠ p.1) || decide (t.phase = Phase.waiting)))) with
      | [] => s
      | x :: xs =>
        s.modVar ((xs.foldl (fun b y => if y.2.activeSince < b.2.activeSince then y else b) x).1) (fun w => { w with active := false })
  let (k, s) := s.fresh
  s.modVar v (fun w => { w with active := true, activeSince := k })

/-- The exponents of a variant after an adjustment. -/
def Var.withAdjust (v : Var) (l : List Adjust) : Var := { v with sExp := l.map (fun a => a.s), quiet := l.map (fun a => a.quiet) }

/-- A step is skipped at its check: the exponents of the layers with a non-finite flag are lowered (R74, R128). -/
def State.skipGradient (s : State) (t : TStep) (stats : List LayerStat) : State :=
  match s.var t.variant with
  | some v =>
    let l := adjustAll adjustSkip v.sExp v.quiet stats
    let s := (s.setVar t.variant (v.withAdjust l)).raiseAdjust t l
    s.endRecorded t stSkipped 1 .skippedGradient
  | none => s

/-! ## The commands -/

/-- Whether every sample holds 1 to 65,536 tokens (R324). -/
def samplesOk (l : List Sample) : Bool := l.all (fun x => decide (1 ≤ x.length) && decide (x.length ≤ 65536))

/-- STEP (R344). -/
def execStep (c : Cmd) (p : StepParams) (s : State) : Res :=
  gafferVar opStep c (fun t s =>
    if (p.samples = [] && !p.takeQueue) || !samplesOk p.samples || !s.microRowsOk p.microRows then .next (s.answer t stNotPermitted)
    else settled (s.useVariant t (.step c p) (fun s => .next (s.acceptStep (some t) c.variant c.ctx p)))) s

/-- EVAL (R345). -/
def execEval (c : Cmd) (samples : List Sample) (microRows every : Nat) (s : State) : Res :=
  gafferVar opEval c (fun t s =>
    if 65536 < tokensOf samples || !samplesOk samples || !s.microRowsOk microRows then .next (s.answer t stNotPermitted)
    else settled (s.useVariant t (.eval c samples microRows every) (fun s => .next (s.acceptEval t samples microRows every)))) s

/-- SET_RULE (R346): a value outside its range is undefined behaviour (R118). -/
def execSetRule (c : Cmd) (p : RuleParams) (s : State) : Res :=
  gafferVar opSetRule c (fun t s =>
    if !RuleInRange p then .fault .ruleRange
    else settled (s.useVariant t (.setRule c p) (fun s => .next (s.acceptRule t p)))) s

/-- FREEZE (R347). -/
def execFreeze (c : Cmd) (tensors : List TensorRef) (s : State) : Res :=
  gafferVar opFreeze c (fun t s =>
    settled (s.useVariant t (.freeze c tensors) (fun s => .next (s.acceptFreeze t tensors)))) s

/-- FREEZE with THAW (R135, R347). -/
def execThaw (c : Cmd) (tensors : List TensorRef) (s : State) : Res :=
  gafferVar opFreeze c (fun t s =>
    settled (s.useVariant t (.thaw c tensors) (fun s => .next (s.acceptThaw t tensors)))) s

end Sys2Proof.Machine
end

