-- ==== Sys2Proof/Machine/Serving.lean ====
section
/-! DEFINITION. Serving: requests, routing, bundles between token modules and expert homes, and the choice of tokens
(R67, R77, R200, R209 to R228, R351, R352, R447). -/

namespace Sys2Proof.Machine

/-! ## SUBMIT and CANCEL (R225, R226, R228, R351, R352) -/

/-- The ranges of a SUBMIT (R225, R227, R228, R351). -/
def submitOk (b : BaseShape) (p : SubmitParams) : Bool :=
  decide (1 ≤ p.prompt.length) && decide (p.prompt.length ≤ 65536) && decide (p.stopTokens.length ≤ 4) && decide (p.mode ≤ 1) &&
  (decide (p.mode = 0) || posFP p.temperature) && decide (p.prompt.length + p.maxTokens ≤ 65536) &&
  decide (p.prompt.length + p.maxTokens ≤ b.lengthLimit)

/-- HBM pages of a request's key-value state (R225). -/
def kvPagesOf (b : BaseShape) (p : SubmitParams) : Nat := ((p.prompt.length + p.maxTokens) * b.kvBytes + 65535) / 65536

/-- A SUBMIT is accepted: its key-value state is reserved and its variant pinned (R23, R225); one that asks for no token
ends at once (R200, R226). `order` is its place in intake order. The pages are all taken here, as R225 says, and not as the request
grows, as R150's table has it (DESIGN CHOICE, assumption log 163). -/
def State.acceptSubmit (s : State) (t : Ticket) (p : SubmitParams) (order : Nat) : State :=
  match s.var t.variant, s.base.shape with
  | some v, some b =>
    let pages := kvPagesOf b p
    if s.hbmFree < pages || 65535 ≤ v.pins then s.submitFinal t stBusy 0 none
    else
      let r : Request :=
        { ticket := t, variant := t.variant, ctx := t.ctx, p := p, produced := [], placed := 0, inParison := false,
          cancelled := false, ending := none, kvPages := pages, kv := [], pinned := true, experts := v.slots }
      let s : State := { s with requests := s.requests.put order r, hbmFree := s.hbmFree - pages }
      let s := s.pin t.variant
      if p.maxTokens = 0 then s.endRequest order stOk (some 0) else s
  | _, _ => s.submitFinal t stNotPermitted 0 none

/-- SUBMIT (R351). -/
def execSubmit (c : Cmd) (p : SubmitParams) (s : State) : Res :=
  gafferVar opSubmit c (fun t s =>
    match s.base.shape with
    | none => .next (s.submitFinal t stNotPermitted 0 none)
    | some b =>
      if !submitOk b p then .next (s.submitFinal t stNotPermitted 0 none)
      else settled (s.useVariant t (.submit c p) (fun s => let (k, s) := s.fresh; .next (s.acceptSubmit t p k)))) s

/-- Whether a ticket is the target of a CANCEL: the same session's, of that sequence. -/
def Ticket.targetOf (x t : Ticket) (target : Nat) : Bool := decide (x.serial = t.serial) && decide (x.seq = target)

/-- CANCEL (R352): OK, whatever the target; a SUBMIT or repeating EVAL of the same session is ended (R205, R228). -/
def execCancel (c : Cmd) (target : Nat) (s : State) : Res :=
  gaffer opCancel c (fun t s =>
    let s := s.answer t stOk
    let s := eachDo (s.requestsFor (fun r => r.ticket.targetOf t target)) (fun id s => s.cancelRequest id) s
    let s := s.cancelParked (fun p => p.ticket.targetOf t target)
    let s := s.cancelParkedEval (fun p => p.ticket.targetOf t target)
    settled (.next (eachDo (s.evalsFor (fun e => e.ticket.targetOf t target && decide (0 < e.every)))
      (fun id s => s.endEvalSoon id stOk) s))) s

/-- HOLD_LIMIT_EXPIRY (R209): the open parison closes. -/
def execHoldLimitExpiry (ctx : Nat) (s : State) : Res :=
  match s.ctx ctx with
  | some c =>
    if c.st = .active || c.st = .suspended then settled (.next (s.setCtx ctx c.closeParison)) else .next s
  | none => .next s

/-! ## The parison that runs -/

/-- The parison a context runs and its tiles. -/
def Ctx.runningParison (c : Ctx) : Option (Parison × List Nat) :=
  match c.running with
  | some ⟨.parison p, tiles⟩ => some (p, tiles)
  | _ => none

/-- Change the parison a context runs. -/
def State.modParison (s : State) (ctx : Nat) (f : Parison → Parison) : State :=
  s.modCtx ctx (fun c => match c.running with
    | some ⟨.parison p, tiles⟩ => { c with running := some ⟨.parison (f p), tiles⟩ }
    | _ => c)

/-- Change one row of it. -/
def State.modRow (s : State) (ctx i : Nat) (f : Row → Row) : State :=
  s.modParison ctx (fun p => { p with rows := p.rows.modify i f })

/-- The adapter slots a variant takes in a parison's sets: each rank with its slot (R41, R210). -/
def Parison.slotsOf (p : Parison) (variant : Nat) : List (Nat × Nat) :=
  p.sets.filterMap (fun x => if x.2.contains variant then some (x.1, x.2.idxOf variant) else none)

/-- The model a row reads (R78, R211): its variant's manifest, the copies it began under, and its adapter slots. -/
def State.rowModel (s : State) (b : BaseShape) (p : Parison) (r : Row) : Model :=
  match s.requests.find r.request with
  | some q =>
    { shape := b, infos := (match s.var q.variant with | some v => v.tensors.map (fun x => x.info) | none => []), copies := r.copies,
      slots := p.slotsOf q.variant }
  | none => { shape := b, infos := [], copies := r.copies, slots := [] }

/-- A request's keys and values at a layer, position by position (R225). -/
def Request.kvAt (q : Request) (layer : Nat) : List (List Nat × List Nat) := q.kv.getOr layer []

/-- A position's key and value are held, after those of the positions before it (R63, R225). -/
def Request.keepKv (q : Request) (layer position : Nat) (k v : List Nat) : Request :=
  { q with kv := q.kv.put layer ((q.kvAt layer).take position ++ [(k, v)]) }

/-- The place after the last layer: a row that is done. -/
def State.rowDone (s : State) : Nat := s.layers + 1

/-! ## Routing (R212, R213) -/

/-- The declaration of the expert that holds a slot of a variant, attached or being released (R196). -/
def Var.slotDecl (v : Var) (slot : Nat) : Option ExpertRec :=
  match v.extras.find? (fun e => decide (e.slot = some slot)) with
  | some e => some e.decl
  | none =>
    match v.releasing.find? (fun r => decide (r.1 = slot)) with
    | some r => (v.extras.find? (fun e => decide (e.decl.extraNo = r.2.1))).map (fun e => e.decl)
    | none => none

/-- The extra experts a row runs at a layer, in ascending extra expert number, with weight 1 (R213). -/
def State.extraGates (s : State) (r : Row) (layer : Nat) : List (Nat × Word) :=
  match s.requests.find r.request with
  | some q =>
    match s.var q.variant with
    | some v => (q.experts.filter (fun n => match v.slotDecl n with | some e => e.layers.contains layer | none => false)).map
        (fun n => (extraKey n, one32))
    | none => []
  | none => []

/-! ## Contributions (R67, R214, R220) -/

/-- The shared experts' runs on this module for a row at the expert sum (R212). -/
def sharedRuns (m : Model) (layer : Nat) (res : List Word) : List ExpertRun :=
  (List.range m.shape.shared).map (fun i => (m.baseExpert layer (m.shape.routed + i)).run (m.plan layer).gelu (m.expertIn layer res))

/-- A row after its layer, with the F8 conversions its shared experts saturated: shared, routed and extra contributions are added
(R67, R214). -/
def finishLayer (m : Model) (r : Row) (layer : Nat) : Row × Nat :=
  if m.shape.moeLayers.contains layer then
    let runs := sharedRuns m layer r.residual
    let shared := runs.map (fun x => (one32, x.out.map toB16))
    let others := r.gates.map (fun g =>
      (g.2, match r.answers.find? (fun a => decide (a.1 = g.1)) with | some a => a.2 | none => []))
    ({ r with residual := (shared ++ others).foldl (fun res c => addContribution res c.1 c.2) r.residual, gates := [], answers := [] },
      (runs.map (fun x => x.seen.sats)).sum)
  else (r, 0)

/-- A row in a layer, and its request with the position's key and value; and the F8 conversions that saturated. -/
structure Entered where
  row : Row
  request : Option Request
  sats : Nat
  deriving DecidableEq, Repr

/-- A row enters a layer: its projections, attention over the keys and values of its request up to its own, then routing at an expert
layer (R67, R212, R213). -/
def State.enterLayer (s : State) (b : BaseShape) (p : Parison) (r : Row) (layer : Nat) : Entered :=
  let m := s.rowModel b p r
  let pr := m.project layer r.position r.residual
  let q := (s.requests.find r.request).map (fun q => q.keepKv layer r.position pr.k pr.v)
  let kv := match q with | some q => q.kvAt layer | none => [(pr.k, pr.v)]
  let x := m.toMid layer r.residual pr.q (kv.map (fun y => y.1)) (kv.map (fun y => y.2))
  let r : Row := { r with residual := x.res, layer := layer + 1 }
  let gates := if b.moeLayers.contains layer then x.gates ++ s.extraGates r layer else []
  { row := if b.moeLayers.contains layer then { r with gates := gates, awaiting := gates.map (fun g => g.1), answers := [] } else r,
    request := q, sats := pr.seen.sats + x.seen.sats }

/-! ## Bundles (R218 to R223) -/

/-- Where a bundle's expert is run: none when it has no home (R215, R217, R218). -/
def State.homeOf (s : State) (e : Nat) : Option Nat :=
  if 0x8000 ≤ e then (if s.vacantPos ((e - 0x8000) / 64) then none else some ((e - 0x8000) / 64))
  else match s.ring.experts.find e with
    | some x => if x.kind = 0 then none else some x.home
    | none => none

/-- Whether an expert is being moved (R217, R218). -/
def State.moving (s : State) (e : Nat) : Bool := s.ring.moving.any (fun m => decide (m.1 = e))

/-- The codes of R61 that bundles name their rows' formats by (R219, R220): F8, G8 and B16. -/
def fmtCodeF8 : Nat := 1
/-- G8. -/
def fmtCodeG8 : Nat := 2
/-- B16. -/
def fmtCodeB16 : Nat := 3

/-- The bytes a bundle takes on the ring (R219, R220): 40 of header, its rows, its per-row values. -/
def bundleBytes (b : Bundle) : Nat := 40 + b.payload.length * (if b.kind = 2 then 2 else 1) + 4 * b.rowFp.length

/-- The pieces a length is cut into, 4,032 bytes at most each (R241). -/
def pieces (n : Nat) : List Nat := (List.range ((n + 4031) / 4032)).map (fun i => min 4032 (n - 4032 * i))

/-- Send a bundle to a member in its pieces, all with one tag. -/
def State.sendBundle (s : State) (dst : Nat) (b : Bundle) : State :=
  eachDo (pieces (bundleBytes b)) (fun n s => s.ringSendTag dst 2 b.ctx b.tag n (.bundle b)) s

/-- A bundle queues for the expert tile group in arrival order (R223). -/
def State.queueBundle (s : State) (b : Bundle) : State := { s with bundles := s.bundles ++ [⟨b, none⟩] }

/-- The rows of a parison that await an expert at a layer, with their numbers. -/
def Parison.awaitingRows (p : Parison) (layer e : Nat) : List (Nat × Row) :=
  (p.rows.zipIdx.filter (fun x => decide (x.1.layer = layer + 1) && x.1.awaiting.contains e)).map (fun x => (x.2, x.1))

/-- The FWD_OUT of an expert's rows (R219, R220). -/
def State.forwardBundle (s : State) (b : BaseShape) (ctx : Nat) (c : Ctx) (p : Parison) (layer e tag : Nat) : Bundle :=
  let rows := p.awaitingRows layer e
  let variant := match rows with
    | x :: _ => (match s.requests.find x.2.request with | some q => q.variant | none => 0)
    | [] => 0
  let generation := match rows with | x :: _ => x.2.generation | [] => 0
  { kind := 1, elemFmt := fmtCodeF8, layer := layer, ctx := ctx, variant := if 0x8000 ≤ e then variant else 0, expert := e, parison := p.id,
    rows := rows.length, epoch := s.ring.expertEpoch, srcPos := s.pos, stash := false, step := 0, microBatch := 0,
    incarnation := c.incarnation, key := 0, payload := rows.flatMap (fun x => (s.rowModel b p x.2).expertIn layer x.2.residual),
    rowFp := [], tag := tag, rowNos := rows.map (fun x => x.1), ranks := [], generation := generation }

/-- Requests end after their last returned token, their rows in the parison that runs with them (R170, R218). -/
def State.endRows (s : State) (ctx : Nat) (ids : List Nat) (status : Nat) : State :=
  let s := s.modParison ctx (fun p => { p with rows := p.rows.map (fun r =>
    if ids.contains r.request then { r with layer := s.rowDone, awaiting := [], last := false } else r) })
  eachDo ids (fun id s => s.endRequest id status none) s

/-- The requests of an expert's rows end with TASK_ABORTED (R218). -/
def State.abortRows (s : State) (ctx layer e : Nat) : State :=
  match s.ctx ctx with
  | some c =>
    match c.runningParison with
    | some (p, _) => s.endRows ctx ((p.awaitingRows layer e).map (fun x => x.2.request)).dedup stTaskAborted
    | none => s
  | none => s

/-- The experts whose answers a row awaits from other members. -/
def State.awaitsFrom (s : State) (r : Row) : List Nat := r.awaiting.filter (fun e => decide (s.homeOf e ≠ some s.pos))

/-- The homes, on other members, whose answers the unit a context runs awaits (R224). -/
def State.awaitedHomes (s : State) (c : Ctx) : List Nat :=
  let experts : List Nat := match c.runningParison with
    | some (p, _) => p.rows.flatMap (fun r => s.awaitsFrom r)
    | none => c.travel.sent.map (fun b => b.expert)
  experts.filterMap (fun e => (s.homeOf e).filter (fun h => decide (h ≠ s.pos)))

/-- The step or evaluation whose micro-batch a context runs ends. -/
def State.endRunning (s : State) (ctx status : Nat) : State :=
  match (s.ctx ctx).bind (fun c => c.running) with
  | some ⟨.micro v n _, _⟩ => s.endStepSoon v n status
  | some ⟨.evalMicro e _, _⟩ => s.endEvalSoon e status
  | _ => s

/-- A bundle of a micro-batch leaves for its expert's home, or queues here; one for an expert that moves is held; where the expert has no
home the work that sent it ends (R218, R219, R222). -/
def State.sendTravel (s : State) (ctx : Nat) (b : Bundle) : State :=
  if s.moving b.expert then s
  else match s.homeOf b.expert with
    | none => s.endRunning ctx stTaskAborted
    | some home =>
      let b : Bundle := { b with epoch := s.ring.expertEpoch }
      if home = s.pos then s.queueBundle b else (s.sendBundle home b).openAnswers ctx

/-- The rows of an expert leave for its home; those of an expert that moves are held; those of one without a home end
(R218, R219, R222). A micro-batch's unanswered bundles for it are sent again. -/
def State.sendExpert (s : State) (ctx layer e : Nat) : State :=
  match s.ctx ctx, s.base.shape with
  | some c, some shape =>
    match c.runningParison with
    | some (p, _) =>
      if p.awaitingRows layer e = [] || s.moving e then s
      else match s.homeOf e with
        | none => s.abortRows ctx layer e
        | some home =>
          let (k, s) := s.fresh
          let b := s.forwardBundle shape ctx c p layer e (k % 65536)
          if home = s.pos then s.queueBundle b else (s.sendBundle home b).openAnswers ctx
    | none => eachDo (c.travel.sent.filter (fun b => decide (b.layer = layer) && decide (b.expert = e))) (fun b s => s.sendTravel ctx b) s
  | _, _ => s

/-- Once every row of the parison has entered a layer, its bundles leave, one for each expert, in ascending number. -/
def State.dispatchLayer (s : State) (ctx layer : Nat) : State :=
  match s.ctx ctx with
  | some c =>
    match c.runningParison with
    | some (p, _) =>
      if p.rows.all (fun r => decide (layer + 1 ≤ r.layer)) then
        let es := sortBy (fun a b => decide (a ≤ b)) (p.rows.flatMap (fun r => if r.layer = layer + 1 then r.awaiting else [])).dedup
        eachDo es (fun e s => s.sendExpert ctx layer e) s
      else s
    | none => s
  | none => s

/-! ## The choice of a token (R24, R77, R227, R228) -/

/-- A NaN logit is taken as minus infinity (R77). -/
def cleanLogit (w : Word) : Word := if isNaN w then 0xFF800000#32 else w

/-- The largest logit, the lower token on ties (R227). -/
def greedyToken (logits : List Word) : Nat :=
  ((List.range logits.length).foldl
    (fun b i => match b with
      | none => some i
      | some j => if flt (logits.getD j 0#32) (logits.getD i 0#32) then some i else some j)
    (none : Option Nat)).getD 0

/-- Whether an FP32 sum exceeds x0 times 2^-32, compared exactly (R227). -/
def exceedsU (sum : Word) (x0 : Nat) : Bool :=
  match ofFP32 sum with
  | .fin s m e =>
    let k := min e (-32)
    decide (scaledInt false x0 (-32) k < scaledInt s m e k)
  | .inf neg => !neg
  | .nan => false

/-- The lowest token whose running sum exceeds u (R227). -/
def sampleFrom (x0 : Nat) : List Word → Nat → Word → Option Nat
  | [], _, _ => none
  | p :: ps, i, acc =>
    let acc := if i = 0 then p else fadd acc p
    if exceedsU acc x0 then some i else sampleFrom x0 ps (i + 1) acc

/-- The highest-numbered token with a probability that is not zero. -/
def lastNonzero (probs : List Word) : Nat :=
  ((List.range probs.length).filter (fun i => decide ((probs.getD i 0#32).toNat % 2 ^ 31 ≠ 0))).getLastD 0

/-- The token at a position (R227). -/
def chooseToken (p : SubmitParams) (position : Nat) (logits : List Word) : Nat :=
  if p.mode = 0 then greedyToken logits
  else
    let probs := Config.softmax (logits.map (fun l => fdiv l p.temperature))
    let x0 := (philox p.seed (position * 2 ^ 64)).x0.toNat
    match sampleFrom x0 probs 0 0#32 with
    | some i => i
    | none => lastNonzero probs

/-- How a request ends after a token (R228). -/
def endReason (limit : Nat) (q : Request) (token : Nat) : Option Nat :=
  if q.p.maxTokens ≤ q.produced.length then some 0
  else if q.p.stopTokens.contains token then some 1
  else if q.cancelled then some 2
  else if limit ≤ q.p.prompt.length + q.produced.length then some 3
  else none

/-- Whether a context's life is ending: a token whose reply has not been sent is not returned (R292). -/
def State.lifeEnds (s : State) (ctx : Nat) : Bool := decide (s.ctxState ctx = .resetting ∨ s.ctxState ctx = .destroying)

/-- A token is returned in an intermediate reply, and counted (R24, R295, R351). -/
def State.returnToken (s : State) (q : Request) (token position generation : Nat) : State :=
  (if s.live q.ticket then s.countTenant q.ctx tTokensReturned 1 else s).interim q.ticket stOk
    [p32 0x81 token, p32 0x82 position, p64 0x83 generation]

/-- A request whose rows in the parison are done, with no token produced: its next rows may be placed, or it ends. -/
def State.chunkDone (s : State) (id : Nat) : State :=
  match s.requests.find id with
  | some q =>
    match q.ending with
    | some e => s.endRequest id e.status none
    | none =>
      if q.cancelled then s.endRequest id stOk (some 2)
      else { s with requests := s.requests.put id { q with inParison := false } }
  | none => s

/-- The token of a row is chosen and returned, and the request goes on or ends (R24, R77, R226 to R228). -/
def State.yieldToken (s : State) (b : BaseShape) (r : Row) : State :=
  match s.requests.find r.request with
  | some q =>
    let logits := (Config.headLogits b.digest r.residual).map cleanLogit
    let s := s.countF8 (Config.headSats b.digest r.residual)
    if s.lifeEnds q.ctx then s.endRequest r.request ((q.ending.getD ⟨stContextGone⟩).status) none
    else if logits.all nonFinite then (s.countError cNonfiniteServing 1).endRequest r.request stTaskAborted none
    else
      let token := chooseToken q.p (r.position + 1) logits
      let q : Request := { q with produced := q.produced ++ [token], inParison := false }
      let s : State := { s with requests := s.requests.put r.request q }
      let s := s.returnToken q token (r.position + 1) r.generation
      match q.ending with
      | some e => s.endRequest r.request e.status none
      | none =>
        match endReason b.lengthLimit q token with
        | some why => s.endRequest r.request stOk (some why)
        | none => s
  | none => s

/-! ## LAYER_CONTINUE (R224) -/

/-- Whether a row may go on: nothing it sent is unanswered, and earlier positions of its request are ahead of it, whose
keys and values its attention reads. -/
def Parison.mayContinue (p : Parison) (layers : Nat) (r : Row) : Bool :=
  decide (r.awaiting = []) && decide (r.layer ≤ layers) &&
  p.rows.all (fun w => decide (w.request ≠ r.request) || decide (r.position ≤ w.position) || decide (r.layer < w.layer))

/-- A row of the parison a context runs adds its layer's contributions and enters the next layer, or is done (R224). -/
def State.continueRow (s : State) (ctx row : Nat) : Res :=
  match s.ctx ctx, s.base.shape with
  | some c, some b =>
    match c.runningParison with
    | some (p, _) =>
      match p.rows[row]? with
      | some r =>
        if !p.mayContinue b.layers r then .next s
        else
          let (r, sats) := if r.layer = 0 then (r, 0) else finishLayer (s.rowModel b p r) r (r.layer - 1)
          let s := s.countF8 sats
          if r.layer = b.layers then
            let s := s.modRow ctx row (fun _ => { r with layer := b.layers + 1 })
            let done := p.rows.all (fun w => decide (w.request ≠ r.request) || decide (r.position ≤ w.position) || decide (b.layers < w.layer))
            if r.last then settled (.next (s.yieldToken b r))
            else if done && p.rows.all (fun w => decide (w.request ≠ r.request) || decide (w.position ≤ r.position)) then
              settled (.next (s.chunkDone r.request))
            else .next s
          else
            let x := s.enterLayer b p r r.layer
            let s := s.countF8 x.sats
            let s : State := match x.request with | some q => { s with requests := s.requests.put r.request q } | none => s
            settled (.next ((s.modRow ctx row (fun _ => x.row)).dispatchLayer ctx r.layer))
      | none => .next s
    | none => .next s
  | _, _ => .next s

/-! ## Answers (R220, R224) -/

/-- The rows an answer names take their outputs, in order (R220). -/
def takeAnswers (width e : Nat) : List Nat → List (Nat × Row) → List (Nat × Row)
  | _, [] => []
  | codes, (i, r) :: rs =>
    (i, { r with awaiting := r.awaiting.erase e,
                 answers := r.answers ++ [(e, codes.take width)] }) ::
      takeAnswers width e (codes.drop width) rs

/-- A micro-batch takes the answer to a bundle it has sent, for the rows that bundle named. -/
def Travel.take (x : Travel) (b : Bundle) : Travel :=
  match x.sent.find? (fun y => decide (y.kind + 1 = b.kind) && decide (y.layer = b.layer) && decide (y.expert = b.expert) &&
      decide (y.parison = b.parison) && decide (y.step = b.step) && decide (y.microBatch = b.microBatch)) with
  | some y =>
    let other (z : Bundle) : Bool := decide (z.kind ≠ b.kind) || decide (z.layer ≠ b.layer) || decide (z.expert ≠ b.expert)
    { x with sent := x.sent.erase y, answers := x.answers.filter other ++ [{ b with rowNos := y.rowNos, ranks := y.ranks }] }
  | none => x

/-- A FWD_BACK is taken by the rows that await it, an answer to a micro-batch's bundle by the micro-batch (R220, R224). An answer to
anything else is consumed. -/
def State.takeBack (s : State) (b : Bundle) : State :=
  match s.ctx b.ctx with
  | some c =>
    match c.runningParison with
    | some (p, _) =>
      if b.kind = 2 && p.id = b.parison && c.incarnation = b.incarnation && b.step = 0 then
        let rows := takeAnswers s.dModel b.expert b.payload (p.awaitingRows b.layer b.expert)
        s.modParison b.ctx (fun p => { p with rows := p.rows.zipIdx.map (fun x =>
          match rows.find? (fun y => decide (y.1 = x.2)) with | some y => y.2 | none => x.1) })
      else s
    | none =>
      if c.incarnation = b.incarnation && c.running.isSome then s.setCtx b.ctx { c with travel := c.travel.take b } else s
  | none => s

/-- The pieces of a bundle of a kind arrive, the last of them completing it (R219, R241). -/
def State.arriveBundle (s : State) (kind p : Nat) (frames : List Frame) (b : Bundle) (use : State → Res) : Res :=
  if b.kind ≠ kind || frames = [] || !frames.all (fun f => decide (f.msgType = 2) && !f.bcast && decide (f.dst = s.pos) &&
      decide (f.payload = .bundle b)) then .next s
  else
    let (ok, s) := State.takeAll p frames s
    if ok then use s else .next s

/-- FWD_BACK (R220): the token module takes the outputs. -/
def execFwdBack (port : Nat) (frames : List Frame) (b : Bundle) (s : State) : Res :=
  s.arriveBundle 2 port frames b (fun s => .next (s.takeBack b))

/-- BWD_BACK (R220): the token module takes the gradients. -/
def execBwdBack (port : Nat) (frames : List Frame) (b : Bundle) (s : State) : Res :=
  s.arriveBundle 4 port frames b (fun s => .next (s.takeBack b))

/-- BOUNCE (R218): the token module sends the rows again under its present table. -/
def execBounce (port : Nat) (frames : List Frame) (b : Bundle) (s : State) : Res :=
  s.arriveBundle 5 port frames b (fun s =>
    if s.incarnation b.ctx = b.incarnation then .next (s.sendExpert b.ctx b.layer b.expert) else .next s)

/-! ## A home (R223) -/

/-- Whether this member runs an expert. -/
def State.homes (s : State) (e : Nat) : Bool :=
  if 0x8000 ≤ e then decide ((e - 0x8000) / 64 = s.pos) && (s.ring.experts.find (512 + (e - 0x8000) % 64)).isSome
  else decide (s.homeOf e = some s.pos)

/-- A bundle to run arrives: dropped under another incarnation, bounced when its expert is not here, else queued (R218,
R223). -/
def State.receiveBundle (s : State) (b : Bundle) : State :=
  if s.incarnation b.ctx ≠ b.incarnation then s
  else if !s.homes b.expert then
    s.sendBundle b.srcPos { b with kind := 5, elemFmt := 0, rows := 0, payload := [], rowFp := [], rowNos := [], ranks := [], srcPos := s.pos }
  else s.queueBundle b

/-- FWD_OUT (R223). -/
def execFwdOut (port : Nat) (frames : List Frame) (b : Bundle) (s : State) : Res :=
  s.arriveBundle 1 port frames b (fun s => .next (s.receiveBundle b))

/-- BWD_OUT (R223). -/
def execBwdOut (port : Nat) (frames : List Frame) (b : Bundle) (s : State) : Res :=
  s.arriveBundle 3 port frames b (fun s => .next (s.receiveBundle b))

/-- The quadrants of the expert tile group, one sub-group of 16 tiles each (R278, R447). -/
def State.expertQuads (s : State) : List Nat := (List.range s.profile.expertTiles).map (fun i => 16 - s.profile.expertTiles + i)

/-- The tiles of a quadrant's sub-group that are not vacant (R387). -/
def State.quadTiles (s : State) (q : Nat) : List Nat := ((List.range 16).map (fun i => 16 * q + i)).filter (fun t => !s.vacant t)

/-- The temperature of a quadrant: that of its compute die, 0 before its first reading. -/
def State.quadTemp (s : State) (q : Nat) : Int := s.power.temps.getOr (q / 4) 0

/-- The free sub-groups: no bundle runs there, some tile is in service. -/
def State.freeQuads (s : State) : List Nat :=
  s.expertQuads.filter (fun q => s.bundles.all (fun x => decide (x.running ≠ some q)) && decide (s.quadTiles q ≠ []) &&
    !(s.quad q).outOfService)

/-- The coolest of a list of quadrants, the lowest on ties (R447). -/
def State.coolest (s : State) : List Nat → Option Nat
  | [] => none
  | q :: qs => some (qs.foldl (fun b x => if s.quadTemp x < s.quadTemp b then x else b) q)

/-- Set the first bundle that waits running on a quadrant. -/
def runFirst (q : Nat) : List HomeBundle → List HomeBundle
  | [] => []
  | x :: xs => if x.running.isNone then { x with running := some q } :: xs else x :: runFirst q xs

/-- BUNDLE_RUN (R447): the next bundle in arrival order starts on the coolest free sub-group. -/
def execBundleRun (s : State) : Res :=
  if s.power.mode ≠ .active || s.fw.offline || s.bundles.all (fun x => x.running.isSome) then .next s
  else match s.coolest s.freeQuads with
    | none => .next s
    | some q => .next
        (eachDo (s.quadTiles q) (fun n s => s.modTile n (fun t => { t with power := .run, waking := false }))
          { s with bundles := runFirst q s.bundles })

/-- The working copies a bundle's rows read at this home: those of the parison's rows for one of its own, else the
variant's in the generation its rows read (R25, R211). -/
def State.bundleCopies (s : State) (b : Bundle) : List WorkCopy :=
  let own := match s.ctx b.ctx with
    | some c => (match c.runningParison with
      | some (p, _) => if b.srcPos = s.pos && p.id = b.parison then (p.awaitingRows b.layer b.expert).map (fun x => x.2.copies) else []
      | none => [])
    | none => []
  match own with
  | x :: _ => x
  | [] => match s.var b.variant with | some v => v.copiesOf b.generation | none => []

/-- Bytes of a context's spill area. -/
def Ctx.spillBytes (c : Ctx) : Nat := c.settings.spillArea * mib64

/-- Bytes of the spill area in use: sets there, and expert values kept for the backward pass (R278). -/
def State.spillUsed (s : State) (ctx : Nat) (l : List StashEntry) : Nat :=
  (l.map (fun e => if e.place = .spilling || e.place = .spilled then e.size.total else 0)).sum +
  (s.homeStash.map (fun h => if h.ctx = ctx then h.values.length else 0)).sum

/-- The stash values a backward bundle reads. -/
def HomeStash.fits (h : HomeStash) (b : Bundle) : Bool :=
  decide (h.ctx = b.ctx) && decide (h.incarnation = b.incarnation) && decide (h.parison = b.parison) && decide (h.step = b.step) &&
  decide (h.microBatch = b.microBatch) && decide (h.layer = b.layer) && decide (h.expert = b.expert) && decide (h.srcPos = b.srcPos)

/-- The expert a bundle names, as its rows read it here (R25, R219). -/
def State.expertFor (s : State) (shape : BaseShape) (b : Bundle) : Model × Expert :=
  let v := s.var b.variant
  let m : Model :=
    { shape := shape, infos := (match v with | some v => v.tensors.map (fun x => x.info) | none => []), copies := s.bundleCopies b,
      slots := [] }
  let no := match v with
    | some v => (match v.slotDecl (b.expert - 0x8000) with | some d => d.extraNo | none => 0)
    | none => 0
  (m, if 0x8000 ≤ b.expert then m.extraExpert b.layer no else m.baseExpert b.layer b.expert)

/-- A bundle's forward run, row by row (R223). -/
def State.forwardRuns (s : State) (b : Bundle) : List ExpertRun :=
  match s.base.shape with
  | some shape =>
    let (m, e) := s.expertFor shape b
    (List.range b.rows).map (fun i => e.run (m.plan b.layer).gelu (piece shape.dModel i b.payload))
  | none => []

/-- The FWD_BACK of a bundle (R220). -/
def answerForward (b : Bundle) (runs : List ExpertRun) : Bundle :=
  { b with kind := 2, elemFmt := fmtCodeB16, payload := runs.flatMap (fun r => r.out.map toB16) }

/-- The counter of a DX_FROM_EXPERT conversion (R70, R221). -/
def fromExpertCtr (b : Bundle) : RoundCtr := ⟨b.key, b.step, ctrTail b.microBatch b.layer siteDXFromExpert 0 0⟩

/-- The rank of a row's expert among those it runs at the layer (R221). -/
def rankIn (b : Bundle) (row : Nat) : Nat := match (b.rowNos.zip b.ranks).find? (fun x => decide (x.1 = row)) with | some x => x.2 | none => 0

/-- The element index of a gate gradient of a bundle's expert (R90). -/
def State.hiddenIndex (shape : BaseShape) (m : Model) (e : Expert) (b : Bundle) (row col : Nat) : Nat :=
  match e.first with
  | some i => extraRange shape m.infos b.layer (m.info i).source * 2 ^ 27 + row * shape.hidden + col
  | none => ownIndex shape.digest b.layer (gradRouted (rankIn b row)) shape.hidden row col

/-- The rows of a backward bundle, with the gate and up values kept for them (R220, R223). -/
def backRows (shape : BaseShape) (b : Bundle) (values : List Nat) : List ExpertRow :=
  (List.range b.rows).map (fun i =>
    let v := piece (2 * shape.hidden) i values
    { no := b.rowNos.getD i 0, x := [], gate := v.take shape.hidden, up := v.drop shape.hidden, weight := b.rowFp.getD i 0#32,
      dy := piece shape.dModel i b.payload, hs := [] })

/-- A bundle's backward run: the gradients of the expert input and of the gate weights, and what its conversions show (R99, R100, R220). The
dW products of an extra expert are the token module's (assumption log 154). -/
def State.backward (s : State) (b : Bundle) (values : List Nat) : ExpertBack :=
  match s.base.shape with
  | some shape =>
    let (m, e) := s.expertFor shape b
    m.expertBack ⟨b.key, b.step, b.microBatch, []⟩ [] true true b.layer e (State.hiddenIndex shape m e b) (backRows shape b values)
  | none => ⟨[], [], [], [], ⟨[], []⟩⟩

/-- The BWD_BACK of a bundle, and the statistics of its conversions (R73, R220, R221). -/
def State.answerBackward (s : State) (b : Bundle) (values : List Nat) : Bundle × LayerStat :=
  let r := s.backward b values
  let out := convertRows (fromExpertCtr b) (fun row col => fromExpertAt s.dModel row (rankIn b row) col) r.dx
  ({ b with kind := 4, elemFmt := fmtCodeG8, payload := out.flatMap Conv.enc, rowFp := r.weights.map (fun w => w.2), key := 0 },
    layerStat (r.convs ++ out) r.seen)

/-- An answer goes to its token module, here without travelling (R222, R223). -/
def State.answerBundle (s : State) (b : Bundle) : State :=
  if b.srcPos = s.pos then s.takeBack b else s.sendBundle b.srcPos { b with srcPos := s.pos }

/-- The tiles that ran a bundle zero what it used, and are free (R278). -/
def State.releaseQuad (s : State) (q : Nat) : State :=
  eachDo (s.quadTiles q) (fun n s =>
    { s with mem := zeroRange s.mem (tileAddr n 0) tileBytes }.modTile n (fun t => { t with power := .idle })) s

/-- Statistics enter the step's set on the first tile of the expert group (R76). -/
def State.noteStat (s : State) (set layer : Nat) (st : LayerStat) : State :=
  s.modTile (256 - 16 * s.profile.expertTiles) (fun t =>
    { t with sets := t.sets.modify set (fun x => markLayer x layer (addStat st)) })

/-- Whether other values are of the same expert, rows and layer: a recomputed forward pass brings them again (R106). -/
def HomeStash.again (h x : HomeStash) : Bool := decide ({ x with values := h.values } = h)

/-- Expert values are kept for the backward pass where they fit in the context's spill area here; else the token's module hears of it
(R102, R107, R278). -/
def State.keepValues (s : State) (h : HomeStash) : State :=
  let area := match s.ctx h.ctx with | some c => c.spillBytes | none => 0
  let s : State := { s with homeStash := s.homeStash.filter (fun x => !h.again x) }
  if s.spillUsed h.ctx (match s.ctx h.ctx with | some c => c.stash | none => []) + h.values.length ≤ area then
    { s with homeStash := s.homeStash ++ [h] }
  else if h.srcPos = s.pos then s.takeHomeFull h.variant h.step h.microBatch h.layer
  else s.ringSend h.srcPos 3 h.ctx (msgLength 3) (.reduce h.variant (.homeFull h.step h.microBatch h.layer))

/-- A bundle has run: its answer is made (R220, R223). -/
def State.finishBundle (s : State) (b : Bundle) : State :=
  if s.incarnation b.ctx ≠ b.incarnation then s
  else if b.kind = 1 then
    let runs := s.forwardRuns b
    let keep : HomeStash :=
      { ctx := b.ctx, incarnation := b.incarnation, variant := b.trainee, parison := b.parison, step := b.step,
        microBatch := b.microBatch, layer := b.layer, expert := b.expert, srcPos := b.srcPos,
        values := runs.flatMap (fun r => r.gate ++ r.up) }
    let s := s.countF8 ((runs.map (fun r => r.seen.sats)).sum)
    let s := if b.step = 0 then s
      else s.noteStat (b.step % 3) b.layer { zeroStat with nonfinite := runs.any (fun r => r.seen.bad) }
    (if b.stash then s.keepValues keep else s).answerBundle (answerForward b runs)
  else
    let values := match s.homeStash.find? (fun h => h.fits b) with | some h => h.values | none => []
    let s := s.countF8 (s.backward b values).seen.sats
    let (a, st) := s.answerBackward b values
    let s : State := { s with homeStash := s.homeStash.filter (fun h => !h.fits b) }
    (s.noteStat (b.step % 3) b.layer st).answerBundle a

/-- BUNDLE_RUN_END (R223): the answer leaves, and the sub-group is zeroed and free. -/
def execBundleRunEnd (tag : Nat) (s : State) : Res :=
  match s.bundles.find? (fun x => x.running.isSome && decide (x.b.tag = tag)) with
  | some x =>
    let s : State := { s with bundles := s.bundles.erase x }
    let s := match x.running with | some q => s.releaseQuad q | none => s
    .next (s.finishBundle x.b)
  | none => .next s

/-! ## EXPERT_REPLACEMENT_DONE (R217, R218) -/

/-- The expert table with its moved experts at their new homes. -/
def State.newTable (s : State) (epoch : Nat) : Tab ExpertEntry :=
  s.ring.moving.foldl (fun t m =>
    t.modify m.1 (fun e => s.rehome m.1 e m.2 epoch)) s.ring.experts

/-- EXPERT_REPLACEMENT_DONE (R217): the new table and epoch are taken, and the rows held are sent to the new homes. -/
def execExpertReplacementDone (s : State) : Res :=
  if s.ring.moving = [] then .next s
  else
    let moved := s.ring.moving.map (fun m => m.1)
    let epoch := (s.ring.expertEpoch + 1) % 256
    let s := s.takeExpertTable epoch (s.newTable epoch)
    settled (.next (eachDo s.ctxs.keys (fun n s =>
      eachDo moved (fun e s => eachDo (List.range s.layers) (fun l s => s.sendExpert n l e) s) s) s))

end Sys2Proof.Machine
end

