-- ==== Sys2Proof/Machine/Variants.lean ====
section
/-! DEFINITION. Variants: creation, destruction, import and export, eviction, extra experts, checkpoint, restore and
replay (R175 to R199, R337 to R343, R348 to R350, R393, R398). -/

namespace Sys2Proof.Machine

/-! ## The manifest (R39, R90, R115, R178, R179) -/

/-- The positions of MEMBERs; a module alone is its own (R255). -/
def State.members (s : State) : List Nat :=
  match s.ring.table with
  | some r => (r.entries.zipIdx.filter (fun e => decide (e.1.state = 1))).map (fun e => e.2)
  | none => [s.pos]

/-- The owners of a new variant: those given, else every MEMBER in ascending order from the home, wrapping (R337). -/
def State.ownersOf (s : State) (o : Option (List Nat)) : List Nat :=
  o.getD (s.members.filter (fun p => decide (s.pos ≤ p)) ++ s.members.filter (fun p => decide (p < s.pos)))

/-- Whether a list of owners is one of 1 to 32 MEMBERs (R337). -/
def State.ownersOk (s : State) (l : List Nat) : Bool :=
  decide (1 ≤ l.length) && decide (l.length ≤ 32) && l.all (fun p => s.members.contains p)

/-- A rank of a base format (R39): codes 1 F8, 4 W4. -/
def rankOk (fmt r : Nat) : Bool := if fmt = 4 then [8, 16, 32, 64].contains r else [8, 16, 32].contains r

/-- A tensor's entry; its gradient rests transposed when X has fewer columns than dY (R87, R178). -/
def tensorInfo (layer kind source rows cols rank : Nat) (alpha : Word) (frozen : Bool) : TensorInfo :=
  { layer := layer, index := 0, kind := kind, source := source, rows := rows, cols := cols, rank := rank,
    transposed := decide (rows < cols), alpha := alpha, frozen := frozen }

/-- The two tensors of an adapter: A is d_in x r, B is r x d_out (R178). -/
def adapterTensors (b : BaseShape) (a : AdapterRec) : List TensorInfo :=
  match matrixOf b a.layer a.matrix with
  | some (din, dout) =>
    [tensorInfo a.layer 0 a.matrix din a.rank a.rank a.alphaA a.frozen,
     tensorInfo a.layer 1 a.matrix a.rank dout a.rank a.alphaB a.frozen]
  | none => []

/-- The three tensors of an extra expert in one layer (R178). -/
def expertTensors (b : BaseShape) (layer : Nat) (e : ExpertRec) : List TensorInfo :=
  [tensorInfo layer 2 e.extraNo b.dModel b.hidden 0 e.alpha false,
   tensorInfo layer 3 e.extraNo b.dModel b.hidden 0 e.alpha false,
   tensorInfo layer 4 e.extraNo b.hidden b.dModel 0 e.alpha false]

/-- Extra experts in ascending number. -/
def byNumber (l : List ExpertRec) : List ExpertRec := sortBy (fun a b => decide (a.extraNo ≤ b.extraNo)) l

/-- The tensors of one layer in manifest order, each with its index in the layer (R178). -/
def layerTensors (b : BaseShape) (p : VariantParams) (l : Nat) : List TensorInfo :=
  let ts := (p.adapters.filter (fun a => decide (a.layer = l))).flatMap (adapterTensors b) ++
    ((byNumber p.experts).filter (fun e => e.layers.contains l)).flatMap (expertTensors b l)
  ts.zipIdx.map (fun x => { x.1 with index := x.2 })

/-- The intermediate gradients a layer would list (R90). -/
def layerGradients (b : BaseShape) (p : VariantParams) (l : Nat) : Nat :=
  b.baseGradients.getD l 0 + (p.adapters.filter (fun a => decide (a.layer = l))).length +
    2 * (p.experts.filter (fun e => e.layers.contains l)).length

/-- The base expert an extra expert may copy: a routed one, or a shared one of the same shape (R179). -/
def copyable (b : BaseShape) (n : Nat) : Bool :=
  decide (n < b.routed) || (decide (n < b.routed + b.shared) && decide (b.sharedHidden.getD (n - b.routed) 0 = b.hidden))

/-- What VARIANT_CREATE may ask of a base model (R39, R90, R178, R179, R180, R337). That no two expert records carry one extra_no is the
model's choice (assumption log 157, DESIGN CHOICE). -/
def createOk (b : BaseShape) (p : VariantParams) : Bool :=
  p.adapters.all (fun a => rankOk b.format a.rank && (matrixOf b a.layer a.matrix).isSome) &&
  decide (p.experts.length ≤ 8) && p.experts.all (fun e => decide (e.extraNo < 8) && copyable b e.baseExpert &&
    e.layers.all (fun l => b.moeLayers.contains l)) &&
  decide ((p.experts.map (fun e => e.extraNo)).Nodup) && !nonFinite p.initScale &&
  (List.range b.layers).all (fun l => decide ((layerTensors b p l).length ≤ 32) && decide (layerGradients b p l ≤ 31))

/-! ## First values (R180) -/

/-- An element of a new ADAPTER_A. -/
def adapterInit (seed : Nat) (scale : Word) (i e : Nat) : Word :=
  let r := (philox seed (i * 2 ^ 96 + e / 8)).half (e % 8)
  fmul (if r < 32768 then packFP32 true (32768 - r) (-15) false else packFP32 false (r - 32768) (-15) false) scale

/-- The master a tensor starts with. -/
def initMaster (fmt : Nat) (base : Bytes) (p : VariantParams) (i : Nat) (t : TensorInfo) : List Word :=
  let n := t.rows * t.cols
  if t.kind = 0 then (List.range n).map (adapterInit p.initSeed p.initScale i)
  else if t.kind = 2 || t.kind = 3 then
    let e := match p.experts.find? (fun e => decide (e.extraNo = t.source)) with | some e => e.baseExpert | none => 0
    (List.range n).map (widenAt fmt t.cols (Config.expertWeight base e t.layer t.kind))
  else List.replicate n 0#32

/-- A tensor as it starts: generation 0 derived from its master, in both slots. -/
def newTensor (fmt : Nat) (base : Bytes) (p : VariantParams) (i : Nat) (t : TensorInfo) : Tensor :=
  let m := initMaster fmt base p i t
  let c := deriveCopy fmt t.rows t.cols t.alpha m
  { info := t, committed := zeroState RuleSet.default.rule t.rows t.cols m, staged := none, grads := [], slot0 := c, slot1 := c,
    half := false }

/-- An entry of a variant homed here, with nothing placed. -/
def State.blankVar (s : State) (ctx : Nat) (owners : List Nat) (layers : Nat) (page : Nat) : Var :=
  { st := .resident, home := true, ctx := ctx, owners := owners, curSlot := false, dirty := true, active := false,
    activeSince := 0, force := false, forDestroy := false, pins := 0, pendingPins := 0, stepCounter := 0, largestGiven := 0,
    generation := 0, storePage := 0, storePages := 0, storeSeq := 0, lastUse := s.intakeRounds, manifestPage := page, manifestLen := 0,
    settings := RuleSet.default, sStartPending := none, sStartTaken := 0, forked := false, fetching := [], lastDerive := 0,
    sExp := List.replicate layers 0, quiet := List.replicate layers 0, extras := [], releasing := [], tensors := [], log := [],
    logPagesHeld := 0, sinceDigest := 0, partsWaiting := [], evictTickets := [], destroyTickets := [], restore := none,
    hbmPages := 0, waitSpace := false }

/-- VARIANT_CREATE's work (R178 to R180, R184). -/
def State.createVariant (s : State) (t : Ticket) (p : VariantParams) : State :=
  match s.base.shape with
  | none => s.answer t stNotPermitted
  | some b =>
    let owners := s.ownersOf p.owners
    if s.varState t.variant ≠ .free || !createOk b p || !s.ownersOk owners then s.answer t stNotPermitted
    else
      let infos := (List.range b.layers).flatMap (layerTensors b p)
      let pages := Config.variantHbm infos
      let (space, s) := s.needHbm pages
      match space with
      | none => s.answer t stBusy
      | some now =>
        let (page, s) := s.freeNat
        let v : Var := { s.blankVar t.ctx owners b.layers page with
          tensors := infos.zipIdx.map (fun x => newTensor b.format b.digest p x.2 x.1), manifestLen := infos.length,
          extras := (byNumber p.experts).map (fun e => ⟨e, none⟩), hbmPages := pages }
        let s := s.countF8 ((v.tensors.map (fun x => deriveSats b.format x.info.alpha x.committed.master)).sum)
        if now then s.placeVar t.variant v t [p32 0x81 infos.length]
        else s.waitHbm pages (.variant t.variant v t [p32 0x81 infos.length])

/-- VARIANT_CREATE (R337): adapters are required unless experts are given (R302). -/
def execVariantCreate (c : Cmd) (p : VariantParams) (s : State) : Res :=
  gafferVar opVariantCreate c (fun t s =>
    if p.adapters = [] && p.experts = [] then .fault .malformedBody
    else settled (.next (s.createVariant t p))) s

/-! ## VARIANT_DESTROY (R182, R338) -/

/-- A RESTORE that a destroy overtakes ends with ADAPTER_LOST (R349). -/
def State.overtakeRestore (s : State) (id : Nat) : State :=
  match s.var id with
  | some v =>
    match v.restore with
    | some r => (s.setVar id { v with restore := none }).answer r.ticket stAdapterLost
    | none => s
  | none => s

/-- VARIANT_DESTROY's work by residency. -/
def State.destroyVariant (s : State) (t : Ticket) : State :=
  let id := t.variant
  match s.varState id with
  | .free => s.answer t stOk
  | .resident =>
    (s.modVar id (fun v => { v with destroyTickets := v.destroyTickets ++ [t], forDestroy := true })).beginEvict id false
  | .evicting =>
    ((s.overtakeRestore id).modVar id (fun v =>
      { v with destroyTickets := v.destroyTickets ++ [t], forDestroy := true })).advanceEvict id
  | _ => (s.modVar id (fun v => { v with destroyTickets := v.destroyTickets ++ [t] })).becomeFree id

/-- VARIANT_DESTROY (R338). -/
def execVariantDestroy (c : Cmd) (s : State) : Res :=
  gafferVar opVariantDestroy c (fun t s => settled (.next (s.destroyVariant t))) s

/-! ## EVICT (R185, R189, R190, R341) -/

/-- EVICT's work by residency. -/
def State.evict (s : State) (t : Ticket) (forced : Bool) : State :=
  let id := t.variant
  let joined := s.modVar id (fun v => { v with evictTickets := v.evictTickets ++ [t] })
  match s.varState id with
  | .free => s.answer t stOk
  | .absent => s.answer t stOk
  | .lost => s.answer t stOk
  | .resident => joined.beginEvict id forced
  | .evicting => if forced then joined.beginEvict id true else joined
  | .loading => joined.modVar id (fun v => { v with force := v.force || forced })
  | .writing => joined

/-- EVICT (R341). -/
def execEvict (c : Cmd) (s : State) : Res := gafferVar opEvict c (fun t s => settled (.next (s.evict t false))) s

/-- EVICT with FORCE: an operator session only (R190). -/
def execEvictForce (c : Cmd) (s : State) : Res :=
  gafferVar opEvict c (fun t s =>
    if s.ticketTenant t then .next (s.answer t stNotPermitted) else settled (.next (s.evict t true))) s

/-! ## Extra experts (R192 to R196, R342, R343) -/

/-- Whether a ring slot is attached, or detached and not yet released (R194, R196). -/
def State.slotAttached (s : State) (slot : Nat) : Bool :=
  s.vars.vals.any (fun v => v.slots.contains slot || v.stillReleasing slot)

/-- A variant at its commit boundary: where a step has flipped and its header is not yet written, the state it staged is its committed
state (R26, R195, R197). -/
def State.atBoundary (s : State) (id : Nat) (v : Var) : Var :=
  match s.steps.find? (fun t => decide (t.variant = id) && decide (t.phase = .flipped)) with
  | some t => v.commitStaged t
  | none => v

/-- The expert's working copy is derived from the current masters into both slots (R195). The home derives for every owner, whose
masters its image holds. -/
def State.deriveExtra (s : State) (now v : Var) (extraNo : Nat) : Var :=
  v.mapTensors (fun i x =>
    if 2 ≤ x.info.kind && x.info.source = extraNo then
      let c := deriveCopy s.baseFormat x.info.rows x.info.cols x.info.alpha ((now.tensors.getD i x).committed.master)
      { x with slot0 := c, slot1 := c }
    else x)

/-- The conversions of that derivation that saturate (R65). -/
def State.deriveExtraSats (s : State) (now : Var) (extraNo : Nat) : Nat :=
  (now.indexed.map (fun p =>
    if 2 ≤ p.2.info.kind && p.2.info.source = extraNo then deriveSats s.baseFormat p.2.info.alpha p.2.committed.master else 0)).sum

/-- EXPERT_ATTACH is accepted (R194, R195). -/
def State.acceptAttach (s : State) (t : Ticket) (extraNo slot : Nat) : State :=
  match s.var t.variant, s.ctx t.ctx with
  | some v, some c =>
    if !c.settings.slotGrant.contains slot || s.vacantPos (slot / 64) then s.answer t stNotPermitted
    else match v.extras.find? (fun e => decide (e.decl.extraNo = extraNo)) with
      | none => s.answer t stNotPermitted
      | some e =>
        if s.slotAttached slot || e.slot.isSome then s.answer t stSlotBusy
        else
          let now := s.atBoundary t.variant v
          let s := s.countF8 (s.deriveExtraSats now extraNo)
          let v := s.deriveExtra now v extraNo
          let v := { v with extras := v.extras.map (fun e => if e.decl.extraNo = extraNo then { e with slot := some slot } else e) }
          (((s.setVar t.variant v).enterExtra t.ctx t.variant extraNo slot).announceVar t.variant).answer t stOk
  | _, _ => s.answer t stNotPermitted

/-- EXPERT_ATTACH (R342). -/
def execExpertAttach (c : Cmd) (extraNo slot : Nat) (s : State) : Res :=
  gafferVar opExpertAttach c (fun t s =>
    settled (s.useVariant t (.expertAttach c extraNo slot) (fun s => .next (s.acceptAttach t extraNo slot)))) s

/-- The uses accepted so far that hold a pin on a variant, by the model's own numbers (R196). -/
def State.holders (s : State) (id : Nat) : List Nat :=
  s.requestsFor (fun r => decide (r.variant = id) && r.pinned) ++
  (s.steps.filter (fun t => decide (t.variant = id) && t.pinned)).map (fun t => t.id) ++
  s.evalsFor (fun e => decide (e.variant = id) && e.active) ++
  s.streamsFor (fun x => match x.use with | .exporting _ v _ _ _ => decide (v = id) | _ => false)

/-- EXPERT_DETACH is accepted: the slot goes once the uses accepted before have released their pins (R196). -/
def State.acceptDetach (s : State) (t : Ticket) (extraNo : Nat) : State :=
  match s.var t.variant with
  | some v =>
    match v.extras.find? (fun e => decide (e.decl.extraNo = extraNo)) with
    | none => s.answer t stNotPermitted
    | some e =>
      match e.slot with
      | none => s.answer t stOk
      | some n =>
        let s := s.setVar t.variant { v with
          extras := v.extras.map (fun e => if e.decl.extraNo = extraNo then { e with slot := none } else e),
          releasing := v.releasing ++ [(n, extraNo, s.holders t.variant)] }
        (s.dropReleased t.variant).answer t stOk
  | none => s.answer t stNotPermitted

/-- EXPERT_DETACH (R343). -/
def execExpertDetach (c : Cmd) (extraNo : Nat) (s : State) : Res :=
  gafferVar opExpertDetach c (fun t s =>
    settled (s.useVariant t (.expertDetach c extraNo) (fun s => .next (s.acceptDetach t extraNo)))) s

/-! ## VARIANT_EXPORT and CHECKPOINT (R197, R340, R348, R393, R429) -/

/-- The head page of an image (R429). -/
def State.imageHead (s : State) (c : Ctx) (v : Var) (id pages base : Nat) : ImageHead :=
  { uid := c.uid, wrapEstate := s.fuses.estateKey, salt := c.salt.getD [], estateKeyId := s.estateKeyId,
    incarnation := c.incarnation, dataPages := pages, baseSeq := base, members := v.owners.dedup.length, variant := id }

/-- The completed records of a variant's log (R393). -/
def Var.completed (v : Var) : List LogRecord := v.log.filter (fun r => decide (r.kind ≠ .opened))

/-- The bodies of the data pages of an export, then of its log records (R197, R393). -/
def exportBodies (v : Var) (seed : Nat) (withLog : Bool) : List PageBody :=
  imageBodies (v.image seed) (imageCount v) ++
  (if withLog then
    let n := Config.logPages v.completed
    if n = 0 then [] else .log v.completed :: List.replicate (n - 1) .filler
   else [])

/-- An export or checkpoint is accepted: refused when the region is too small, else it pins and its stream opens. -/
def State.acceptExport (s : State) (t : Ticket) (dest : Region) (withLog : Option Bool) : State :=
  match s.var t.variant, s.ctx t.ctx with
  | some v, some c =>
    let data := exportBodies (s.atBoundary t.variant v) c.seed (withLog.getD false)
    let n := data.length + 1
    if dest.pages < n then s.answerWith t stNotPermitted [p32 0x82 n]
    else if 65535 ≤ v.pins then s.answer t stBusy
    else
      let head := s.imageHead c v t.variant data.length (c.pageSeq + 1)
      let s := s.modCtx t.ctx (fun c => { c with pageSeq := c.pageSeq + n })
      let use := StreamUse.exporting t t.variant withLog v.stepCounter v.completed.length
      (s.pin t.variant).openService t.ctx use 5 n (some dest) (.head head :: data) c.pageSeq
  | _, _ => s.answer t stNotPermitted

/-- VARIANT_EXPORT (R340). -/
def execVariantExport (c : Cmd) (dest : Region) (s : State) : Res :=
  gafferVar opVariantExport c (fun t s =>
    if !dest.aligned then .next (s.answer t stNotPermitted) else settled (s.useVariant t (.variantExport c dest) (fun s => .next (s.acceptExport t dest none)))) s

/-- CHECKPOINT (R348). -/
def execCheckpoint (c : Cmd) (dest : Region) (withLog : Bool) (s : State) : Res :=
  gafferVar opCheckpoint c (fun t s =>
    if !dest.aligned then .next (s.answer t stNotPermitted) else settled (s.useVariant t (.checkpoint c dest withLog) (fun s => .next (s.acceptExport t dest (some withLog))))) s

/-! ## VARIANT_IMPORT (R199, R339) -/

/-- VARIANT_IMPORT's start: its head page is read first. -/
def State.beginImport (s : State) (t : Ticket) (image : Region) (o : Option (List Nat)) : State :=
  let owners := s.ownersOf o
  if s.varState t.variant ≠ .free || s.base.shape.isNone || !s.ownersOk owners then s.answer t stNotPermitted
  else s.openService t.ctx (.importing t t.variant owners) 6 1 (some image) [] 0

/-- VARIANT_IMPORT (R339). -/
def execVariantImport (c : Cmd) (image : Region) (owners : Option (List Nat)) (s : State) : Res :=
  gafferVar opVariantImport c (fun t s =>
    if !image.aligned then .next (s.answer t stNotPermitted) else settled (.next (s.beginImport t image owners))) s

/-! ## RESTORE (R349) -/

/-- A restore that waits proceeds with a RESIDENT variant: it passes through EVICTING, marked. -/
def State.restoreResident (s : State) (id : Nat) : State :=
  (s.modVar id (fun v => { v with restore := v.restore.map (fun r => { r with marked := true }) })).beginEvict id false

/-- RESTORE's work by residency. -/
def State.beginRestore (s : State) (t : Ticket) (image : Region) : State :=
  let id := t.variant
  match s.var id with
  | none => s.answer t stNotPermitted
  | some v =>
    if v.restore.isSome then s.answer t stBusy
    else
      let s := s.setVar id { v with restore := some ⟨t, image, false, false, false⟩ }
      match v.st with
      | .resident => s.restoreResident id
      | .absent => s.wantRestore id true
      | .lost => s.wantRestore id false
      | _ => s

/-- RESTORE (R349). -/
def execRestore (c : Cmd) (image : Region) (s : State) : Res :=
  gafferVar opRestore c (fun t s =>
    if !image.aligned then .next (s.answer t stNotPermitted) else settled (.next (s.beginRestore t image))) s

/-! ## REPLAY (R350, R398) -/

/-- A replay is accepted: its records come from the log kept, or from an image that is read first. -/
def State.acceptReplay (s : State) (t : Ticket) (first last : Nat) (log : Option Region) : State :=
  match log, s.var t.variant with
  | some r, _ => s.openService t.ctx (.replayLog t t.variant first last) 6 1 (some r) [] 0
  | none, some v => s.startReplay t first last v.log
  | none, none => s.answer t stNotPermitted

/-- REPLAY (R350). -/
def execReplay (c : Cmd) (first last : Nat) (log : Option Region) (s : State) : Res :=
  gafferVar opReplay c (fun t s =>
    if (match log with | some r => !r.aligned | none => false) then .next (s.answer t stNotPermitted)
    else settled (s.useVariant t (.replay c first last log) (fun s => .next (s.acceptReplay t first last log)))) s

end Sys2Proof.Machine
end

