-- ==== Sys2Proof/Machine/Release.lean ====
section
/-! DEFINITION. The end of loads and write-outs: parked uses are released, evictions and restores that waited go on
(R182, R183, R187 to R189, R349, R403, R404, R485). -/

namespace Sys2Proof.Machine

/-! ## The park (R185, R188, R485) -/

/-- A use released by the park is accepted (R485). -/
def State.acceptUse (s : State) (p : Parked) : State :=
  match p.use with
  | .step _ q => s.acceptStep (some p.ticket) p.variant p.ctx q
  | .eval _ samples microRows every => s.acceptEval p.ticket samples microRows every
  | .setRule _ q => s.acceptRule p.ticket q
  | .freeze _ l => s.acceptFreeze p.ticket l
  | .thaw _ l => s.acceptThaw p.ticket l
  | .expertAttach _ extraNo slot => s.acceptAttach p.ticket extraNo slot
  | .expertDetach _ extraNo => s.acceptDetach p.ticket extraNo
  | .variantExport _ dest => s.acceptExport p.ticket dest none
  | .checkpoint _ dest withLog => s.acceptExport p.ticket dest (some withLog)
  | .replay _ first last log => s.acceptReplay p.ticket first last log
  | .submit _ q => s.acceptSubmit p.ticket q p.order
  | _ => s

/-- The first use parked on a RESIDENT variant leaves the park, gives back the pin it held there, and is accepted. -/
def State.releaseOne (s : State) (id : Nat) : State :=
  match s.park.find? (fun p => decide (p.variant = id)) with
  | some p =>
    if s.varState id = .resident then
      let s : State := { s with park := s.park.filter (fun q => decide (q.order ≠ p.order)) }
      (s.modVar id (fun v => { v with pins := v.pins - 1 })).acceptUse p
    else s
  | none => s

/-- Every use parked on a variant, in park order. -/
def State.releaseParked (s : State) (id : Nat) : State :=
  (List.range s.park.length).foldl (fun s _ => s.releaseOne id) s

/-- What waited for a variant to be RESIDENT: its parked uses, then a RESTORE, then an EVICT (R185, R189, R349). -/
def State.becomeResident (s : State) (id : Nat) : State :=
  let s := s.releaseParked id
  match s.var id with
  | some v =>
    if v.st ≠ .resident then s
    else if v.restore.isSome then s.restoreResident id
    else if v.evictTickets ≠ [] then s.beginEvict id v.force
    else s
  | none => s

/-! ## The end of a load (R182, R183, R349, R403) -/

/-- A RESTORE has succeeded: it is answered, and a STRICT halt of its variant ends (R403). -/
def State.endRestore (s : State) (id : Nat) : State :=
  match s.var id with
  | some v =>
    match v.restore with
    | some r =>
      if r.loading then
        let s := s.setVar id { v with restore := none }
        let halted := match s.ctx v.ctx with | some c => c.halted | none => []
        let s := s.modCtx v.ctx (fun c => { c with halted := c.halted.erase id })
        let s := if halted.contains id && halted.erase id = [] && decide (s.ctxState v.ctx = .suspended) then s.enterState v.ctx .active else s
        s.answerWith r.ticket stOk [p64 0x81 v.stepCounter]
      else s
    | none => s
  | none => s

/-- Every part is placed: the variant is RESIDENT (R183). -/
def State.loadComplete (s : State) (id : Nat) : State :=
  ((s.modVar id (fun v => { v with st := .resident })).endRestore id).becomeResident id

/-- One member's part is placed. -/
def State.partPlaced (s : State) (id position : Nat) : State :=
  match s.var id with
  | some v =>
    if v.st = .loading && v.partsWaiting.contains position then
      let s := s.modVar id (fun v => { v with partsWaiting := v.partsWaiting.filter (fun p => decide (p ≠ position)) })
      if v.partsWaiting.all (fun p => decide (p = position)) then s.loadComplete id else s
    else s
  | none => s

/-- LOAD_PART_PLACED (R183): a member's report; the last makes the variant RESIDENT and releases its parked uses. -/
def execLoadPartPlaced (variant position : Nat) (s : State) : Res := settled (.next (s.partPlaced variant position))

/-- The member with the most free HBM, the lowest position on ties (R404). -/
def State.roomiest (s : State) : Nat :=
  let free (p : Nat) : Nat := if p = s.pos then s.hbmFree else (match s.entryAt p with | some e => e.hbmFree | none => 0)
  match s.members with
  | [] => s.pos
  | p :: ps => ps.foldl (fun b q => if free b < free q then q else b) p

/-- The owners of a variant with every VACANT position given to the roomiest member (R404). -/
def State.replaceOwners (s : State) (owners : List Nat) : List Nat :=
  owners.map (fun p => if s.vacantPos p then s.roomiest else p)

/-- The contents of an image are placed; every holder places its part and reports it (R183). -/
def State.placeImage (s : State) (id : Nat) (i : VariantImage) : State :=
  let (page, s) := s.freeNat
  let s := s.modVar id (fun v =>
    let v : Var := v.place i
    { v with manifestPage := page, curSlot := i.curSlot, partsWaiting := s.pos :: s.otherHolders v })
  s.announceVar id

/-- The contents of a restore image are placed: current slot 0, dirty, extra experts detached, the counters of R349, R399,
R400 and the owners of R404. -/
def State.placeRestored (s : State) (id : Nat) (i : VariantImage) : State :=
  let owners := s.replaceOwners (match s.var id with | some v => v.owners | none => [])
  let held := match s.var id with | some v => v.slots | none => []
  let ctx := match s.var id with | some v => v.ctx | none => 0
  let s := eachDo held (fun n s =>
    if n / 64 = s.pos then s.clearSlot n else s.ringSend (n / 64) 5 ctx (msgLength 5) (.announce (.slotGone id n))) s
  let (page, s) := s.freeNat
  let s := s.modVar id (fun v =>
    let v : Var := v.place i
    let v : Var := { v with
      manifestPage := page, owners := owners, curSlot := false, dirty := true, sinceDigest := 0, largestGiven := i.stepCounter, forked := true,
      lastDerive := i.stepCounter, extras := i.experts.map (fun e => ⟨e, none⟩) }
    { v with partsWaiting := s.pos :: s.otherHolders v })
  s.announceVar id

/-! ## The end of a write-out (R182, R188) -/

/-- WRITE_OUT_COMPLETE (R182): the variant is ABSENT, not dirty; EVICTs are answered, and pending uses load it again. -/
def execWriteOutComplete (variant : Nat) (s : State) : Res :=
  match s.var variant with
  | some v =>
    let written := s.streams.vals.any (fun x => decide (x.use = .writeOut variant) && x.discard == false &&
      decide (x.landed.length = x.total) && decide (x.outstanding = []))
    if v.st = .writing && written then
      let found := s.streamsFor (fun x => decide (x.use = .writeOut variant))
      let s := eachDo found (fun k s => s.delStrm k) s
      let s := s.modVar variant (fun v => { v with dirty := false })
      settled (.next (s.becomeAbsent variant))
    else .next s
  | none => .next s

/-- A write-out fails: the variant is RESIDENT again, its EVICTs are answered, and pending uses take pins and are released
(R182, R188). -/
def State.failWriteOut (s : State) (id status : Nat) : State :=
  match s.var id with
  | some v =>
    let s := s.setVar id { v with st := .resident, force := false, evictTickets := [], storePages := 0 }
    let s := s.answerAll v.evictTickets status
    let s : State := if status = stBusy then { s with reclaimFull := s.reclaimFull ++ [id] } else s
    (s.pinParked id).becomeResident id
  | none => s

end Sys2Proof.Machine
end

