-- ==== Sys2Proof/Machine/Retire.lean ====
section
/-! DEFINITION. Failures: the end of a stream, the failed state, and the retirement of a tile with what is lost and run
again (R149, R170, R171, R174, R187, R259, R378 to R388, R425, R454). -/

namespace Sys2Proof.Machine

/-! ## The end of a stream (R163, R170, R174, R187, R358) -/

/-- A stream that feeds a unit has failed: a step is abandoned before its flip, a request ends after its last returned token, an
evaluation at its boundary, each with the stream's status (R170). -/
def State.failFed (s : State) (ctx status : Nat) : State :=
  match s.ctx ctx with
  | some c => match c.running with
    | some ⟨.micro v n _, _⟩ => s.endStepSoon v n status
    | some ⟨.evalMicro e _, _⟩ => s.endEvalSoon e status
    | some ⟨.parison p, _⟩ => eachDo (p.rows.map (fun r => r.request)).dedup (fun r s => s.endRequestSoon r status) s
    | _ => s
  | none => s

/-- The stream of a unit's answers has failed: its step or evaluation ends, or the requests whose rows await an answer do, each with the
stream's status (R170, R224, R264). -/
def State.failAnswers (s : State) (ctx status : Nat) : State :=
  match s.ctx ctx with
  | some c => match c.running with
    | some ⟨.micro v n _, _⟩ => s.endStepSoon v n status
    | some ⟨.evalMicro e _, _⟩ => s.endEvalSoon e status
    | some ⟨.parison p, _⟩ =>
      s.endRows ctx ((p.rows.filter (fun r => decide (s.awaitsFrom r ≠ []))).map (fun r => r.request)).dedup status
    | _ => s
  | none => s

/-- A stream ends with a failure: it stops issuing, what is outstanding lands and is discarded, its credits and buffers go,
its buffers are zeroed, and whom it served is told (R170, R174, R187). A halted stream of a command has been answered already
(R358). -/
def State.failStrm (s : State) (k status : Nat) : State :=
  match s.strm k with
  | some x =>
    match x.use with
    | .command t =>
      match x.st with
      | .halted _ _ => s.abandonStrm k
      | _ => (s.answerWith t status [p32 0x82 x.position]).abandonStrm k
    | .program _ => s.endSlot k x status
    | .load v => s.failLoad v status false
    | .restoring v => s.failLoad v status (match s.var v with | some w => w.restoreLoses | none => false)
    | .importing t _ _ => (s.answer t status).abandonStrm k
    | .writeOut v => (s.abandonStrm k).failWriteOut v status
    | .exporting t v _ _ _ => ((s.answer t status).abandonStrm k).unpin v (holderId k)
    | .replayLog t _ _ _ => (s.answer t status).abandonStrm k
    | .logPage _ => s.abandonStrm k
    | .feed _ => (s.abandonStrm k).failFed x.ctx status
    | .answers => (s.abandonStrm k).failAnswers x.ctx status
  | none => s

/-- The streams of the answers of a context's unit end with a status. -/
def State.endAnswers (s : State) (ctx status : Nat) : State :=
  eachDo (s.streamsFor (fun x => decide (x.ctx = ctx) && decide (x.use = .answers) && !x.discard)) (fun k s => s.failStrm k status) s

/-! ## What a retirement stops (R382, R384, R386) -/

/-- Whether a context's life is ending. -/
def Ctx.ending (c : Ctx) : Bool := decide (c.st = .resetting) || decide (c.st = .destroying)

/-- A step lost with a tile runs again from its open record, under the generations recorded (R384). What its stash has spilled and
recomputed stays for the step's events (R108). -/
def TStep.restart (t : TStep) : TStep :=
  { t with
    phase := .waiting, done := 0, stats := [], losses := [], checks := [], layersLeft := [], layersDone := [],
    derives := false, badUpdate := false, drift := [], compared := 0, votes := [], headers := [], digestsDue := false,
    differ := [], stashWork := 0, arrived := [], backAt := none, homeFull := [], rerun := true }

/-- A step with state on a retired tile, not flipped: its leader abandons it on every member, then it waits to run again; one that must end
ends. Where another member leads it, that leader is told (R384, R386). -/
def State.loseStep (s : State) (v n : Nat) : State :=
  match s.findStep v n with
  | some t =>
    if t.phase = .flipped || t.phase = .waiting then s
    else if !t.leader then s.ringSend t.leaderAt 3 t.ctx (msgLength 3) (.reduce v (.lost n))
    else match t.ending with
      | some e => s.abandonStep v n e.status
      | none =>
        let s := match s.var v with | some w => s.reduceAll w v (.abandon n stTaskAborted) | none => s
        (s.discardStaged t).modStep v n TStep.restart
  | none => s

/-- The parison that ran is rerun from its first layer, before those that wait (R384). -/
def Parison.again (p : Parison) : Parison :=
  { p with rows := p.rows.map (fun r => { r with layer := 0, awaiting := [], gates := [], answers := [] }) }

/-- What a unit that held a retired tile loses: its end will bring nothing, and its work runs again (R384). -/
def State.loseUnit (s : State) (ctx : Nat) (c : Ctx) (r : Running) : State :=
  let s := eachDo r.tiles (fun n s => s.stopTile n) (s.endFeeds ctx)
  let s := s.setCtx ctx { c with running := some { r with work := .stopped }, stash := [], travel := Travel.none }
  match r.work with
  | .parison p => if c.ending then s else s.modCtx ctx (fun c => { c with closed := p.again :: c.closed })
  | .evalMicro e _ =>
    { s with evals := s.evals.modify e (fun x => { x with rerun := true }) }
  | .program => s.endProgram ctx (if c.ending then stContextGone else stTaskAborted)
  | _ => s

/-- Requests and evaluations that were to end at the end of the lost unit end now. -/
def State.endDue (s : State) (ctx : Nat) : State :=
  let s := eachDo (s.requestsFor (fun r => decide (r.ctx = ctx) && r.ending.isSome))
    (fun id s => match s.requests.find id with
      | some r => s.endRequest id (match r.ending with | some e => e.status | none => stOk) none
      | none => s) s
  let s := eachDo (s.requestsFor (fun r => decide (r.ctx = ctx) && r.cancelled)) (fun id s => s.endRequest id stOk (some 2)) s
  eachDo (s.evalsFor (fun e => decide (e.ctx = ctx) && e.ending.isSome))
    (fun id s => match s.evals.find id with
      | some e => s.endEval id (match e.ending with | some x => x.status | none => stOk) []
      | none => s) s

/-- A program of a context whose group holds the tile ends with TASK_ABORTED, running or not (R384, R386). -/
def State.abortProgram (s : State) (ctx : Nat) (c : Ctx) : State :=
  if c.prog.isSome then s.endProgram ctx (if c.ending then stContextGone else stTaskAborted) else s

/-- Everything of one context that a retired tile takes with it. -/
def State.loseCtx (s : State) (n ctx : Nat) : State :=
  match s.ctx ctx with
  | some c =>
    let s := match c.running with
      | some r => if r.tiles.contains n then (s.loseUnit ctx c r).endDue ctx else s
      | none => s
    if c.settings.group.contains n || (s.runTiles c).contains n then
      let s := s.eachStep (fun t => decide (t.ctx = ctx)) (fun v n s => s.loseStep v n)
      match s.ctx ctx with | some c => s.abortProgram ctx c | none => s
    else s
  | none => s

/-- Bundles that ran on the tile's sub-group run again from their input, which the home keeps (R384). -/
def State.loseBundles (s : State) (n : Nat) : State :=
  { s with bundles := s.bundles.map (fun b => if b.running = some (n / 16) then { b with running := none } else b) }

/-- Whether a stream has a buffer on a tile. -/
def Strm.onTile (x : Strm) (n : Nat) : Bool :=
  decide (x.desc ≠ []) && !x.discard && (match x.st with | .ended _ => false | .waiting => false | _ => true) &&
  ((decide (sdSrcKind x.desc = epTile) && (sdRows x.desc (sdSrc x.desc) (sdSrcStride x.desc)).any
      (fun r => overlaps r.1 r.2 (n * tileBytes) tileBytes)) ||
   (decide (sdDstKind x.desc = epTile) && overlaps (sdBuffer x.desc).1 (sdBuffer x.desc).2 (n * tileBytes) tileBytes))

/-- Streams with a buffer on a tile end; a command hears TASK_ABORTED (R174, R382). -/
def State.endTileStreams (s : State) (n : Nat) : State :=
  eachDo (s.streamsFor (fun x => x.onTile n)) (fun k s => s.failStrm k stTaskAborted) s

/-! ## The spare (R378, R380, R382) -/

/-- Quadrant of a logical tile. -/
def quadOf (n : Nat) : Nat := n / 16

/-- The memory of a tile reads zero: the spare's banks are zeroed, a vacant tile has none. -/
def State.zeroTile (s : State) (n : Nat) : State := { s with mem := zeroRange s.mem (tileAddr n 0) tileBytes }

/-- A tile number without a tile. -/
def State.vacate (s : State) (n : Nat) : State :=
  { s.zeroTile n with phys := s.phys.del n, tiles := s.tiles.del n }

/-- A tile enters the retired list, once (R379, R382). -/
def State.listTile (s : State) (q i : Nat) : State :=
  let s := s.modPower (fun p => { p with retiredNow := if p.retiredNow.contains (q, i) then p.retiredNow else p.retiredNow ++ [(q, i)] })
  s.modFlash (fun f => { f with retired := if f.retired.contains (q, i) then f.retired else f.retired ++ [(q, i)] })

/-- The quadrant's spare takes the number of a retired tile, or the number becomes vacant; the retired one is listed (R382
steps 3 and 4). -/
def State.replaceTile (s : State) (n : Nat) : State :=
  let s := match s.phys.find n with
    | some i => s.listTile (quadOf n) i
    | none => s
  match s.spares.find (quadOf n) with
  | some i =>
    { s.zeroTile n with
      phys := s.phys.put n i, spares := s.spares.del (quadOf n),
      tiles := s.tiles.put n { Tile.reset with power := .idle, completions := (s.tile n).completions } }
  | none => s.vacate n

/-- DEGRADED (R388). -/
def State.raiseDegraded (s : State) (cause detail : Nat) : State :=
  s.raiseModule evDegraded [p8 0x90 cause, p16 0x91 s.sparesLeft, p16 0x92 s.vacantCount, p16 0x93 detail]

/-- The place of a logical tile in a fault record (R407). -/
def State.tileRecord (s : State) (n kind outcome : Nat) : FaultRecord :=
  let unit := s.ctxs.find? (fun p => match p.2.running with | some r => r.tiles.contains n | none => false)
  let step := match unit with
    | some (_, c) => (match c.running with | some ⟨.micro _ k _, _⟩ => k | some ⟨.update _ k, _⟩ => k | _ => 0)
    | none => 0
  { blankRecord kind outcome with
    die := quadOf n / 4, quadrant := quadOf n % 4, index := (s.phys.find n).getD 0xFF, logicalTile := n,
    ctx := match unit with | some (k, _) => k | none => 0xFFFF,
    incarnation := match unit with | some (_, c) => c.incarnation | none => 0, step := step }

/-- What is on a tile's array or in its queue ends with TILE_FAULT, and all that held or needed the tile is lost (R46, R382, R384). -/
def State.loseTile (s : State) (n : Nat) : State :=
  let s := s.modTile n (fun t => { t with queue := [], completions := t.completions ++ t.queue.map (fun _ => 3) })
  let s := eachDo s.ctxs.keys (fun c s => s.loseCtx n c) s
  (s.loseBundles n).endTileStreams n

/-- A tile is retired in service (R382): `cause` as R385 codes it, `seq` the sequence number of the RETIRE_TILE that asked for it,
0 for a fault (R287). -/
def State.retireTile (s : State) (n cause seq : Nat) (r : FaultRecord) : State :=
  if s.vacant n then s
  else
    let s := (s.loseTile n).replaceTile n
    let s := s.raiseFor evTileRetired seq [p16 0x90 n, p16 0x91 s.sparesLeft, p8 0x92 cause]
    let s := s.record r
    if s.vacant n then s.raiseDegraded 1 n else s

/-- RETIRE_TILE (R373): NO_SPARE leaves the tile in service. -/
def execRetireTile (c : Cmd) (tile : Nat) (s : State) : Res :=
  gaffer opRetireTile c (fun t s =>
    if 256 ≤ tile then .next (s.answer t stNotPermitted)
    else if (s.spares.find (quadOf tile)).isNone then .next (s.answer t stNoSpare)
    else
      let s := s.retireTile tile 3 c.seq (s.tileRecord tile fkRetireCommand 2)
      settled (.next (s.answerWith t stOk [p16 0x81 s.sparesLeft]))) s

/-! ## Bank errors (R146) -/

/-- A single-bit error in a bank line is corrected and written back: counted on the tile and in the module's counter (R146). -/
def State.sramSingle (s : State) (n : Nat) : State :=
  (s.modTile n (fun t => { t with corrected := t.corrected.addError 1 })).countError cSramCorrected 1

/-- A double-bit error in a bank line retires the tile, whichever client read it (R146). -/
def State.sramDouble (s : State) (n : Nat) : State := s.retireTile n 2 0 (s.tileRecord n fkSramDouble 2)

/-- What reading bank lines of a tile met; a bank has no CRC (R146). -/
def State.bankLine (s : State) (n : Nat) (line : HbmOutcome) : State :=
  match line with
  | .corrected => s.sramSingle n
  | .uncorrectable => s.sramDouble n
  | _ => s

/-! ## HBM errors (R149, R152) -/

/-- The record of an HBM error: the stack and address. -/
def State.hbmRecord (s : State) (kind outcome address ctx : Nat) : FaultRecord :=
  { blankRecord kind outcome with
    index := stackOf s.fuses.grade (address - hbmBase), ctx := ctx, incarnation := s.incarnation ctx, detail0 := address }

/-- Steps of a variant, or of a context, not flipped, run again (R149, R384). -/
def State.rerunSteps (s : State) (p : TStep → Bool) : State := s.eachStep p (fun v n s => s.loseStep v n)

/-- The unit a context runs is stopped; its work runs again. -/
def State.rerunUnit (s : State) (ctx : Nat) : State :=
  match s.ctx ctx with
  | some c => match c.running with
    | some r => (s.loseUnit ctx c r).endDue ctx
    | none => s
  | none => s

/-- A variant is dropped from residency, once its pins are released, and loaded again on its next use; its committed state
stays (R149). -/
def State.dropResident (s : State) (v : Nat) : State := if s.varState v = .resident then s.beginEvict v false else s

/-- What an uncorrectable error does, by the area it lies in (table Uncorrectable HBM errors). What it does to the work that read the
line, of the base model or of an extent, the read itself brings (R149): a scrub reads for no work. -/
def State.hbmLost (s : State) (area : HbmArea) : State :=
  match area with
  | .moduleArea => s.enterFailed
  | .baseModel => s
  | .committed v => s.loseVariant v
  | .resident v => s.dropResident v
  | .work ctx => (s.rerunUnit ctx).rerunSteps (fun t => decide (t.ctx = ctx))
  | .keyValue _ r => s.endRequestSoon r stTaskAborted
  | .extent _ => s

/-- The outcome code of an HBM record (R407). -/
def areaOutcome : HbmArea → Nat
  | .moduleArea => 4
  | .committed _ => 3
  | .extent _ => 3
  | .keyValue _ _ => 3
  | _ => 1

/-- The context an area belongs to. -/
def State.areaCtx (s : State) : HbmArea → Nat
  | .committed v => match s.var v with | some w => w.ctx | none => 0xFFFF
  | .resident v => match s.var v with | some w => w.ctx | none => 0xFFFF
  | .work c => c
  | .keyValue c _ => c
  | .extent c => c
  | _ => 0xFFFF

/-- The page of an error is retired from allocation until power-on (R149). -/
def State.retirePage (s : State) (address : Nat) : State :=
  let p := (address - hbmBase) / 65536
  if s.hbmRetired.contains p then s else { s with hbmRetired := s.hbmRetired ++ [p], hbmFree := s.hbmFree - 1 }

/-- Reading one HBM line (R149, R152): corrected and counted, or counted, recorded and handled by its area. -/
def State.hbmLine (s : State) (address : Nat) (area : HbmArea) (o : HbmOutcome) : State :=
  match o with
  | .clean => s
  | .corrected => s.countError cHbmCorrected 1
  | .uncorrectable =>
    let s := (s.countError cHbmUncorrectable 1).record (s.hbmRecord fkHbmUncorrectable (areaOutcome area) address (s.areaCtx area))
    (s.retirePage address).hbmLost area
  | .crcMismatch =>
    let s := (s.countError cHbmUncorrectable 1).record (s.hbmRecord fkHbmCrc (areaOutcome area) address (s.areaCtx area))
    (s.retirePage address).hbmLost area

/-- An address of the module area, or of the rest of the HBM tier: which line of an area a service-mode stream reads is the module's own
affair, and free. -/
def State.someLine (s : State) (module : Bool) : Nat × State :=
  let (n, s) := s.freeNat
  let low := 65536 * moduleAreaPages
  (if module then hbmBase + n % low else hbmBase + low + n % (hbmEnd s.fuses.grade - hbmBase - low), s)

/-- A line of an area that a service-mode stream reads. -/
def State.areaLine (s : State) (module : Bool) (area : HbmArea) (line : HbmOutcome) : State :=
  let (a, s) := s.someLine module
  s.hbmLine a area line

/-- Whether an address lies in the HBM of this grade. -/
def State.inHbm (s : State) (a : Nat) : Bool := decide (hbmBase ≤ a) && decide (a < hbmEnd s.fuses.grade)

/-- Whether the HBM holds its contents and its controllers run. -/
def State.hbmUp (s : State) : Bool :=
  match s.power.mode with | .active => true | .starting n => decide (5 < n) | _ => false

/-- PATROL_SCRUB (R149): one line of the tier is read, and a corrected one written back. A CRC covers only committed state
(R152). -/
def execPatrolScrub (address : Nat) (area : HbmArea) (outcome : HbmOutcome) (s : State) : Res :=
  if !s.hbmUp || !s.inHbm address then .next s
  else
    let o := match outcome, area with
      | .crcMismatch, .committed _ => outcome
      | .crcMismatch, _ => .clean
      | _, _ => outcome
    settled (.next (s.hbmLine address area o))

end Sys2Proof.Machine
end

