-- ==== Sys2Proof/Machine/Starts.lean ====
section
/-! DEFINITION. Start enqueues: each half of a stream's buffer that lands queues an array operation on the destination
tile, and a stream whose transfers have all landed ends (R161, R163, R165, R174). -/

namespace Sys2Proof.Machine

/-- Whether every transfer of a stream has landed. -/
def Strm.allLanded (x : Strm) : Bool := decide (x.total ≤ firstGap x.landed) && decide (x.outstanding = [])

/-- The 256-byte units of the destination buffer that the transfers landed so far fill. -/
def Strm.unitsLanded (x : Strm) : Nat := firstGap x.landed * x.unit * (sdWidth x.desc / 256)

/-- The starts due for what has landed: one for each half, and one for a last part of a half. A ROTATE makes one, for its
whole chunk (R165). -/
def Strm.startsDue (x : Strm) : Nat :=
  if x.kind = 4 then (if x.allLanded then 1 else 0)
  else
    let half := sdBufUnits x.desc / 2
    x.unitsLanded / half + (if x.allLanded && decide (x.unitsLanded % half ≠ 0) then 1 else 0)

/-- The tile at an end of a stream. -/
def endTile (w : Nat) : Nat := modAddr w / tileBytes

/-- Whether a stream makes starts at all. -/
def Strm.starts (x : Strm) : Bool := decide (x.desc ≠ []) && sdStart x.desc && decide (sdDstKind x.desc = epTile)

/-- Whether the tile's own send of a rotation round has been read (R165). -/
def State.sendRead (s : State) (x : Strm) : Bool :=
  s.streams.vals.all (fun y => decide (y.ctx ≠ x.ctx) || decide (y.kind ≠ 4) || decide (y.st ≠ .running) ||
    decide (sdSrcKind y.desc ≠ epTile) || decide (endTile (sdSrc y.desc) ≠ endTile (sdDst x.desc)) || decide (y.total ≤ y.issued))

/-- Whether a start can be made now: the context has a turn, the tile is in service and its queue has room (R44, R174). -/
def State.canStart (s : State) (x : Strm) : Bool :=
  let n := endTile (sdDst x.desc)
  (match s.ctx x.ctx with | some c => c.turn | none => false) && !s.vacant n && decide ((s.tile n).queue.length < 32) &&
  (decide (x.kind ≠ 4) || s.sendRead x)

/-- An operation enters a tile's queue; a tile in NAP wakes (R44, R441). -/
def State.enqueueOp (s : State) (n ctx : Nat) (desc : Bytes) : State :=
  s.modTile n (fun t =>
    { t with queue := t.queue ++ [⟨desc, ctx, 0, false⟩], waking := t.waking || decide (t.power = .nap),
             power := if t.power = .idle then .run else t.power })

/-! ## A context's own tiles (R9, R279) -/

/-- Whether a tile is one an operation of a context may touch (R279, R386). -/
def State.ownTile (s : State) (c : Ctx) (n : Nat) : Bool := c.settings.group.contains n && !s.vacant n

/-- Whether an array operation stays within its context's memory (R279). -/
def State.ownOperation (s : State) (c : Ctx) (n : Nat) (d : Bytes) : Bool :=
  if aoOp d = 1 || aoOp d = 2 then
    (aoInputs (s.arrayIn n) d ++ aoOutputs (s.arrayIn n) d).all (fun r => ownTileRange c r.1 r.2)
  else true

/-- Whether a queued operation is its context's to run, as its inputs stand now: the check is always made (R9, R279). -/
def State.operationOwned (s : State) (n : Nat) (q : QueueOp) : Bool :=
  match s.ctx q.ctx with | some c => s.ownTile c n && s.ownOperation c n q.desc | none => false

/-- The module addresses that queued operations of a tile read: what must stay unchanged until they complete (R47). -/
def State.queuedInputs (s : State) (n : Nat) : List (Nat × Nat) :=
  (s.tile n).queue.flatMap (fun q =>
    if aoOp q.desc = 1 || aoOp q.desc = 2 then (aoInputs (s.arrayIn n) q.desc).map (fun r => (tileAddr n r.1, r.2)) else [])

/-- Whether a write of another unit to some tile addresses meets an input of an operation that has not completed, which is undefined
(R47). -/
def State.spoilsInputs (s : State) (addrs : List Nat) : Bool :=
  (((addrs.filter (fun a => decide (a < 256 * tileBytes))).map (· / tileBytes)).dedup).any (fun n =>
    (s.queuedInputs n).any (fun r => addrs.any (fun a => decide (r.1 ≤ a) && decide (a < r.1 + r.2))))

/-- A stream's start is refused: its operation would touch memory that is not its context's. The program ends with NOT_PERMITTED,
and a command's stream does (R9, R154, R279). -/
def State.refuseStart (s : State) (k : Nat) (x : Strm) : State :=
  match x.use with
  | .program _ => s.endProgram x.ctx stNotPermitted
  | _ => s.failStrm k stNotPermitted

/-- One start of a stream. -/
def State.makeStart (s : State) (k : Nat) : State :=
  match s.strm k with
  | some x =>
    if x.st = .running && x.starts && decide (x.halves < x.startsDue) && s.canStart x then
      let n := endTile (sdDst x.desc)
      let d := readBytes s.mem (tileAddr n (sdOpAddr x.desc)) 32
      let own := match s.ctx x.ctx with
        | some c => ownTileRange c (sdOpAddr x.desc) 32 && s.ownTile c n && s.ownOperation c n d
        | none => false
      if own then (s.enqueueOp n x.ctx d).modStrm k (fun x => { x with halves := x.halves + 1 }) else s.refuseStart k x
    else s
  | none => s

/-- A stream of a descriptor whose transfers have landed and whose starts are made ends with OK (R163). -/
def State.finishStrm (s : State) (k : Nat) : State :=
  match s.strm k with
  | some x =>
    if x.st = .running && decide (x.desc ≠ []) && x.allLanded && (!x.starts || decide (x.startsDue ≤ x.halves)) then
      match x.use with
      | .command t => (s.answerWith t stOk [p32 0x82 x.position]).delStrm k
      | _ => s.endSlot k x stOk
    else s
  | none => s

/-- Every start that is due is made as far as it can be, and streams that are over end. -/
def State.makeStarts (s : State) : State :=
  eachDo s.streams.keys (fun k s =>
    let due := match s.strm k with | some x => if x.starts then x.startsDue - x.halves else 0 | none => 0
    ((List.range due).foldl (fun s _ => s.makeStart k) s).finishStrm k) s

/-- Starts and ends of streams, then what every step settles. -/
def started (r : Res) : Res := r.bind (fun s => .next s.makeStarts.settle)

end Sys2Proof.Machine
end

