-- ==== Sys2Proof/Machine/Link.lean ====
section
/-! DEFINITION. The commands of a cane link: frames that pass, stream frames, LLDP, rekeying, loss of signal, establishment, the
end of a hold, training and adaptation (R233, R239 to R254, R264, R268 to R272). -/

namespace Sys2Proof.Machine

/-! ## FRAME_FORWARD (R242, R246, R247) -/

/-- Credits that frames in the transit pool of a port hold. -/
def Link.transitUsed (l : Link) : Nat := ((l.passing.filter (fun x => x.slice.isNone)).map (fun x => frameCredits x.frame.length)).sum

/-- The slice a passing frame enters at a port: none while the transit pool has room (R247; DEDUCED, assumption log 36). -/
def State.sliceFor (s : State) (p : Nat) (f : Frame) : Option Nat :=
  let l := s.link p
  if l.transitUsed + frameCredits f.length ≤ 1024 then none else some (s.distance (otherPort p) s.pos f.dst)

/-- A passing frame that is dropped frees its credits, or its slice, and is counted (R242, R246). -/
def State.dropPassing (s : State) (p : Nat) (f : Frame) : State :=
  (s.freePassing p ⟨f, s.sliceFor p f⟩).countError cCaneDropped 1

/-- Whether a frame is a passing one: it is for another position, or comes back to its source, or its type is reserved. -/
def State.passes (s : State) (f : Frame) : Bool :=
  reservedType f.msgType ||
  (!freeType f.msgType && !f.bcast && decide (f.msgType ≠ 4) && (decide (f.dst ≠ s.pos) || decide (f.src = s.pos)))

/-- Whether a passing frame is dropped: reserved type, back at its source, a vacant destination, or too many hops (R241, R242). -/
def State.passDrops (s : State) (f : Frame) : Bool :=
  reservedType f.msgType || decide (f.src = s.pos) || s.vacantPos f.dst || decide (s.ringSize ≤ f.hops + 1)

/-- Everything that waits to leave by either ring port leaves as far as it can. -/
def State.pumpBoth (s : State) (p : Nat) : State := (s.pump (otherPort p)).pump p

/-- FRAME_FORWARD (R242): the frame is accepted on its link, then dropped, or kept in the transit pool or its escape slice until
it leaves by the other port. -/
def execFrameForward (port : Nat) (frame : Frame) (s : State) : Res :=
  if !s.ringPort port || !s.passes frame then .next s
  else
    let s := s.tap port frame
    let (ok, s) := s.accept port frame
    if !ok then .next s
    else if s.passDrops frame then
      .next (if reservedType frame.msgType && (frame.bcast || decide (frame.dst = s.pos)) then s.dropFrame port frame
             else s.dropPassing port frame)
    else
      let x : Passing := ⟨frame, s.sliceFor port frame⟩
      .next ((s.modLink port (fun l => { l with passing := l.passing ++ [x] })).pumpBoth port)

/-! ## CANE_STREAM_FRAME and IDLE (R241) -/

/-- CANE_STREAM_FRAME (R241): the data waits in the local pool until the stream that reads it takes it (R169). -/
def execCaneStreamFrame (port : Nat) (frame : Frame) (s : State) : Res :=
  s.arrive 1 port frame (fun s => .next (s.modLink port (fun l => { l with localPool := l.localPool ++ [frame] })))

/-- IDLE (R241): its control block is all it brings. -/
def execIdle (port : Nat) (frame : Frame) (s : State) : Res := s.arrive 8 port frame (fun s => .next s)

/-! ## LLDP (R254, R272) -/

/-- The serial of the member a roll call lists at a position, 0 for none. -/
def State.serialAt (s : State) (p : Nat) : Nat := match s.entryAt p with | some e => if e.state = 0 then 0 else e.serial | none => 0

/-- The position a roll call lists a serial at. -/
def State.positionOf (s : State) (serial : Nat) : Option Nat :=
  (List.range 32).find? (fun p => decide (s.serialAt p = serial) && !s.vacantPos p)

/-- NEIGHBOUR_LEFT (R272): cause 1 LEAVE, 2 LOST, 3 LINK. -/
def State.neighbourLeft (s : State) (p : Nat) (d : Lldpdu) (cause : Nat) : State :=
  (s.modPort p (fun q => { q with neighbour := none })).raiseModule evNeighbourLeft
    [p8 0x90 p, p64 0x91 d.serial, p8 0x92 d.position, p8 0x93 cause]

/-- The cause with which a neighbour that was by-passed left (R265, R266). -/
def State.leftCause (s : State) (d : Lldpdu) : Nat :=
  match s.positionOf d.serial with
  | some p => (match s.entryAt p with | some e => if e.state = 3 then 1 else 2 | none => 2)
  | none => 2

/-- A new neighbour on a ring port. Where it is listed as a member already, the one before it was by-passed and has left; a
joiner is not listed (R262, R265, R266, R272; DEDUCED, assumption log 92). -/
def State.newNeighbour (s : State) (p : Nat) (d : Lldpdu) : State :=
  let s := match (s.port p).neighbour with
    | some o => if (s.positionOf d.serial).isSome then s.neighbourLeft p o (s.leftCause o) else s
    | none => s
  (s.modPort p (fun q => { q with neighbour := some d })).raiseModule evNeighbourJoined
    [p8 0x90 p, p64 0x91 d.serial, p8 0x92 d.position]

/-- An LLDPDU of a ring neighbour is recorded; NEIGHBOUR_JOINED for a new one. -/
def State.meetNeighbour (s : State) (p : Nat) (d : Lldpdu) : State :=
  match (s.port p).neighbour with
  | some o => if o.serial = d.serial then s.modPort p (fun q => { q with neighbour := some d }) else s.newNeighbour p d
  | none => s.newNeighbour p d

/-- LLDP (R254): on a ring port in an LLDP frame, on a fabric port as it comes. One neighbour is kept for each port. -/
def execLldp (port : Nat) (frame : Option Frame) (pdu : Lldpdu) (s : State) : Res :=
  match frame with
  | some f => if f.payload = .lldp pdu then s.arrive 6 port f (fun s => .next (s.meetNeighbour port pdu)) else .next s
  | none =>
    if s.fabric port && (s.port port).up then .next (s.modPort port (fun q => { q with neighbour := some pdu })) else .next s

/-- The LLDPDU this module sends on a port; what only ring ports carry reads zero on the others (R254). -/
def State.ownLldpdu (s : State) (p : Nat) : Lldpdu :=
  let ring := s.ringPort p
  { serial := s.fuses.serial, port := p, ttl := if ring then 4 else 120, grade := s.fuses.grade, profile := s.profileNo,
    role := s.profile.ports.getD p 0, layer := s.profile.layer,
    position := if ring then s.ring.position.getD 0xFF else 0, ringSize := if ring then s.ringSize else 0,
    ringEpoch := if ring then s.ring.ringEpoch else 0, laneRate := if ring then (s.link p).rate else 0,
    bypassOpen := ring && s.board.bypassOpen,
    rollState := if ring then (match s.ring.st with | .member => 1 | .opening _ => 2 | .leaving => 3 | _ => 0) else 0,
    estateKeyId := if ring then s.estateKeyId else [], aqqelMajor := 1, aqqelMinor := s.fwMinor }

/-- Bytes of the LLDPDU of a ring port: the TLVs of R254 with their headers. -/
def lldpduBytes : Nat := 79

/-- An LLDPDU leaves by a port (R254). -/
def State.sendLldp (s : State) (p : Nat) : State :=
  if s.ringPort p then s.linkSend p 6 lldpduBytes (.lldp (s.ownLldpdu p)) else s.emit (.lldpdu p (s.ownLldpdu p))

/-- LLDP_TIMER (R254): on every fabric port that is up and every ring port whose link is up. -/
def execLldpTimer (port : Nat) (s : State) : Res :=
  if (s.ringPort port && decide ((s.link port).st = .up)) || (s.fabric port && (s.port port).up) then .next (s.sendLldp port)
  else .next s

/-! ## Rekeying (R269, R270) -/

/-- REKEY (R270): the higher-serial member answers with its own and both send under the other phase. -/
def execRekey (port : Nat) (frame : Frame) (s : State) : Res :=
  s.arrive 7 port frame (fun s =>
    match frame.payload with
    | .rekey e =>
      let l := s.link port
      if l.rekey = .idle && !s.lowerSerial l then
        .next ((s.modLink port (fun l => { l with keys := l.keys + 1 })).switchKey port e)
      else .next s
    | _ => .next s)

/-- REKEY_DUE (R270): the lower-serial member starts, the higher-serial one asks. -/
def execRekeyDue (port : Nat) (s : State) : Res :=
  let l := s.link port
  if !s.ringPort port || l.st ≠ .up then .next s
  else if s.lowerSerial l then .next (s.startRekey port)
  else .next (s.modLink port (fun l => { l with rekeyReq := true }))

/-! ## Holds, establishment, loss (R233, R249 to R252, R264) -/

/-- RING_SIGNAL_LOSS (R249): the traffic of the port is held. -/
def execRingSignalLoss (port : Nat) (s : State) : Res := if s.ringPort port then .next (s.holdLink port) else .next s

/-- The keys of the ring streams that end on a port. -/
def State.ringStreams (s : State) (p : Nat) (q : Strm → Bool) : List Nat :=
  s.streamsFor (fun x => decide (x.desc ≠ []) && !x.discard && (decide (sdSrcKind x.desc = p) || decide (sdDstKind x.desc = p)) &&
    (match x.st with | .ended _ => false | .waiting => false | _ => true) && q x)

/-- Ring streams end with LINK_DOWN (R264, R266). -/
def State.endRingStreams (s : State) (p : Nat) (q : Strm → Bool) : State :=
  eachDo (s.ringStreams p q) (fun k s => s.failStrm k stLinkDown) s

/-- Whether a stream has a frame in a list. -/
def Strm.inFrames (x : Strm) (l : List Frame) : Bool :=
  l.any (fun f => decide (f.msgType = 1) && decide (f.ctx = x.ctx) && decide (f.tag = sdDst x.desc % 65536))

/-- The link epoch of an establishment (R269). -/
def State.linkEpoch (s : State) (l : Link) (q : Partner) : Nat :=
  if s.fuses.serial < q.serial then s.nextEpoch l else q.bootCount % 65536 * 65536 + q.keys % 65536

/-- A link comes up with the partner it had: what it held goes on, and what was not acknowledged is sent again (R248, R249). -/
def State.rejoin (s : State) (p : Nat) (q : Partner) (rate : Nat) : State :=
  let e := s.linkEpoch (s.link p) q
  (s.modLink p (fun l =>
    { l with st := .up, rate := rate, partner := some q, epoch := e, oldEpoch := none, rekey := .idle, keys := l.keys + 1,
             badWindows := 0, tagFails := 0 })).resend p

/-- A link comes up with another partner: what was not acknowledged is sent to it, sequences restart at 0 and the sender holds
every credit (R246, R249). Frames for the old neighbour itself go; passing frames leave the pools for the other port's queue. -/
def State.relink (s : State) (p : Nat) (q : Partner) (rate : Nat) : State :=
  let l := s.link p
  let again := (l.replay ++ l.sendQueue).filter (fun f => !freeType f.msgType)
  let through := l.passing.map (fun x => { x.frame with hops := x.frame.hops + 1 })
  let l' : Link :=
    { Link.reset with
      st := .up, rate := rate, stored := l.stored, partner := some q, epoch := s.linkEpoch l q, keys := l.keys + 1,
      sendQueue := again, localPool := l.localPool, taps := l.taps, lanes := l.lanes }
  let s := s.modLink p (fun _ => l')
  s.modLink (otherPort p) (fun l => { l with sendQueue := l.sendQueue ++ through })

/-- LINK_ESTABLISHED (R252): training ends with both directions locked at a rate; held traffic resumes, or is replayed; the
LLDPDU of link-up is sent. Ring streams to a neighbour that has been by-passed end (R266). -/
def execLinkEstablished (port : Nat) (partner : Partner) (rate : Nat) (s : State) : Res :=
  if !s.ringPort port || !s.board.bypassOpen || decide (3 < rate) || decide ((s.link port).st = .up) then .next s
  else
    let old := (s.link port).partner
    let same := match old with | some o => decide (o.serial = partner.serial) | none => false
    let s := if same then s.rejoin port partner rate
      else
        let gone := old.isSome && (s.positionOf partner.serial).isSome
        let s := s.relink port partner rate
        if gone then s.endRingStreams port (fun _ => true) else s
    started (.next ((s.sendLldp port).pumpBoth port))

/-- What cannot cross a break goes the other way (R264). -/
def State.turnRound (s : State) (p : Nat) : State :=
  let l := s.link p
  let go := (l.replay ++ l.sendQueue).filter (fun f => !freeType f.msgType && !f.bcast)
  let s := s.modLink p (fun l => { l with replay := [], sendQueue := [] })
  (s.modLink (otherPort p) (fun l => { l with sendQueue := l.sendQueue ++ go })).pumpBoth p

/-- The contexts whose units have sent bundles that stand among some frames. -/
def State.bundlesOf (s : State) (l : List Frame) : List Nat :=
  ((l.filter (fun f => decide (f.src = s.pos) &&
    (match f.payload with | .bundle b => decide (b.kind = 1) || decide (b.kind = 3) | _ => false))).map (fun f => f.ctx)).dedup

/-- LINK_HOLD_EXPIRY (R264, R408): the link is down. -/
def execLinkHoldExpiry (port : Nat) (s : State) : Res :=
  if !s.ringPort port || decide ((s.link port).st ≠ .held) then .next s
  else
    let lost := (s.link port).replay
    let s := s.modLink port (fun l => { l with st := .down })
    let s := match (s.port port).neighbour with | some d => s.neighbourLeft port d 3 | none => s
    let s := s.raiseDegraded 4 port
    let (o, s) := s.freeOutcome
    let s := s.record { blankRecord fkLinkDown o with die := 0x10 + port / 2, index := port }
    let s := s.endRingStreams port (fun x => decide (sdDstKind x.desc = port) && x.inFrames lost)
    let s := eachDo (s.bundlesOf lost) (fun c s => s.endAnswers c stLinkDown) s
    started (.next (s.turnRound port))

/-- BER_WINDOW (R251): three bad windows in a row retrain the link at the next lower rate; at the lowest it runs on and DEGRADED
is raised. -/
def execBerWindow (port : Nat) (exceeded : Bool) (s : State) : Res :=
  let l := s.link port
  if !s.ringPort port || l.st ≠ .up then .next s
  else if !exceeded then .next (s.modLink port (fun l => { l with badWindows := 0 }))
  else if l.badWindows + 1 < 3 then .next (s.modLink port (fun l => { l with badWindows := l.badWindows + 1 }))
  else if l.rate < 3 then .next ((s.modLink port (fun l => { l with rate := l.rate + 1 })).holdLink port)
  else .next ((s.modLink port (fun l => { l with badWindows := 0 })).raiseDegraded 3 port)

/-- EQ_ADAPT (R250, R253): a lane's receiver settings; on a ring port, a step asked of the partner's transmitter. -/
def execEqAdapt (port lane : Nat) (settings : LaneSet) (request : Nat) (s : State) : Res :=
  if 8 ≤ lane then .next s
  else if s.ringPort port then
    if (s.link port).st = .up then
      .next (s.modLink port (fun l =>
        { l with lanes := l.lanes.put lane settings, eqReq := if 1 ≤ request && request ≤ 4 then request else l.eqReq }))
    else .next s
  else if s.fabric port && (s.port port).up then .next (s.modPort port (fun q => { q with lanes := q.lanes.put lane settings }))
  else .next s

/-- A RING_JOIN ends without the module having joined. -/
def State.failJoin (s : State) (status : Nat) (params : List (Nat × Bytes)) : State :=
  let t := s.ring.joinTicket
  let s := s.modRing (fun r => { r with st := .out, joinTicket := none, joinImage := none, backoff := false, quietPasses := 0 })
  match t with | some t => s.answerWith t status params | none => s

/-- CANE_TRAINING_FAILED (R233, R252): counted, the port stays down, and a module that was joining stays out of the ring. -/
def execCaneTrainingFailed (port : Nat) (s : State) : Res :=
  if !s.ringPort port || decide ((s.link port).st = .up) then .next s
  else
    let s := s.countError cCaneTrainingFailures 1
    let s := s.modLink port (fun l => { l with st := if l.st = .held then .held else .down, stored := false })
    match s.ring.st with
    | .listening => .next (s.failJoin stLinkDown [])
    | .admitted _ => .next (s.failJoin stLinkDown [])
    | _ => .next s

end Sys2Proof.Machine
end

