-- ==== Sys2Proof/Machine/Commit.lean ====
section
/-! DEFINITION. The step transaction at every holder: gradients at their owners, the check, the update, the vote, the flip and the
record (R68, R112 to R142, R390, R394, R400 to R402). -/

namespace Sys2Proof.Machine

/-! ## Gradients on the ring (R68, R127) -/

/-- A micro-batch's gradient added to what rests at the owner, in ascending micro-batch number (R68). -/
def addGrad (old new : List Word) : List Word := if old = [] then new else zip2 fadd old new

/-- The hop of a reduce-scatter that the `rank`-th of `n` owners converts for the tensors of rank `o` (R68): 0 for the rank after the
owner's. -/
def reduceHop (n o rank : Nat) : Nat := (rank + n - o - 1) % n

/-- The logical rank under which this member's partials enter a reduce-scatter: its first among the owners (R68, R115). -/
def State.rankOf (s : State) (owners : List Nat) : Option Nat := owners.findIdx? (fun p => decide (p = s.pos))

/-- The counter of a DW_REDUCE conversion (R70). -/
def reduceCtr (t : TStep) (i : TensorInfo) (microBatch hop : Nat) : RoundCtr :=
  ⟨roundKey t.seed t.variant, t.number, ctrTail microBatch i.layer siteDWReduce i.index hop⟩

/-- The G8 partial that leaves this member for the owner of tensor `k`: its FP32 partial, to which the ranks before it have added zeros,
converted with its hop's counter; the hops after it convert it again to the same bits (R68, R69). -/
def State.partialOut (s : State) (t : TStep) (k microBatch : Nat) (i : TensorInfo) (own : List Word) : List Narrow :=
  let hop := match s.rankOf t.owners with
    | some r => reduceHop t.owners.length (k % t.owners.length) r
    | none => 0
  own.zipIdx.map (fun x => toG8 (fadd 0#32 x.1) (randomWord (reduceCtr t i microBatch hop) x.2))

/-- What arrives at the owner: the last G8 partial widened, and its own partial, which is zero, added (R68). -/
def widenPartial (codes : List Nat) : List Word := codes.map (fun c => fadd (toFP32 (ofG8 c)) 0#32)

/-- A micro-batch's gradient comes to rest at its owner under the step's own number. -/
def Tensor.rest (x : Tensor) (key : Nat) (new : List Word) : Tensor := { x with grads := x.grads.put key (addGrad (x.grads.getOr key []) new) }

/-- Partials of a micro-batch arrive here, at their owner (R68). -/
def State.takeGrads (s : State) (variant n microBatch : Nat) (l : List (Nat × List Nat)) : State :=
  match s.findStep variant n with
  | some t =>
    if t.leader then s
    else
      let s := s.modVar variant (fun v => v.mapTensors (fun k x =>
        match l.find? (fun p => decide (p.1 = k)) with
        | some p => if t.updateSet.contains k then x.rest t.id (widenPartial p.2) else x
        | none => x))
      s.modStep variant n (fun t => { t with done := microBatch + 1 })
  | none => s

/-! ## A step at a holder that does not lead (R29, R127, R137, R188) -/

/-- A step begins on another member, which leads it: this member takes part in it, with a pin on the variant, under what the step was
accepted with (R127, R137, R188). -/
def State.takeBegan (s : State) (variant n src : Nat) (h : StepHead) : State :=
  match s.var variant with
  | some v =>
    if v.home || (s.findStep variant n).isSome then s
    else
      let (key, s) := s.fresh
      let t : TStep :=
        { TStep.start key variant v.ctx n (s.incarnation v.ctx) src h with
          leader := false, phase := .run, replay := if h.replayed then some 0 else none }
      let s : State := { s with steps := s.steps ++ [t] }
      ((s.pin variant).activate variant).clearSets (n % 3)
  | none => s

/-- What the leader tells of a step. -/
def TStep.head (t : TStep) : StepHead :=
  { updateSet := t.updateSet, settings := t.settings, schedule := t.schedule, sStart := t.sStart, seed := t.seed, owners := t.owners,
    batches := t.batches.length, replayed := t.replay.isSome }

/-- A step ends here, where it is not led: its pin is released. -/
def State.leaveStep (s : State) (t : TStep) : State := (s.dropStep t.variant t.number).unpin t.variant (holderId t.id)

/-- An abandon at a holder that does not lead: what it staged goes, and its part of the step ends (R107, R129, R130). -/
def State.takeAbandon (s : State) (variant n : Nat) : State :=
  match s.findStep variant n with
  | some t =>
    if t.leader || t.phase = .flipped then s
    else (s.discardStaged t).leaveStep t
  | none => s

/-! ## CHECK (R127, R128) -/

/-- Whether a tensor that a step does not update has its current working copy still to be copied to the other slot (R135). -/
def Tensor.copyDue (x : Tensor) : Bool := decide (x.slot0 ≠ x.slot1)

/-- The layers a holder writes in a step's Update phase, highest first (R117): those of the tensors it owns and updates, and of the
tensors the step does not update whose slots differ (R135). -/
def State.updateLayers (s : State) (v : Var) (set : List Nat) : List Nat :=
  sortBy (fun a b => decide (b ≤ a))
    ((v.indexed.filter (fun p => if set.contains p.1 then s.ownsTensor v p.1 else p.2.copyDue)).map (fun p => p.2.info.layer)).dedup

/-- Whether re-derivation is due at a commit (R139). -/
def derivesAt (q : RuleSet) (last n : Nat) : Bool :=
  decide (q.copyMode = 0) || decide ((last / q.k + 1) * q.k ≤ n)

/-- A step leaves its wait: its variant becomes active, its set of statistics is cleared on every tile, and the other holders are told
(R76, R127, R191). -/
def State.openStep (s : State) (t : TStep) (v : Var) : State :=
  (((s.activate t.variant).clearSets (t.number % 3)).reduceAll v t.variant (.began t.number t.head)).modStep t.variant t.number
    (fun t => { t with phase := .run })

/-- Whether a step without micro-batches may leave its wait, as one with micro-batches would to begin its first (R131, R204). -/
def State.emptyReady (s : State) (t : TStep) : Bool :=
  t.leader && decide (t.phase = .waiting) && decide (t.batches = []) && decide (s.ctxState t.ctx = .active) && !s.readersWait t.variant &&
  s.canActivate t.variant && s.evals.vals.all (fun e => decide (e.variant ≠ t.variant) || !e.active || decide (t.id ≤ e.afterStep))

/-- Whether a step may pass its check here: all micro-batches drained, every lower step ended, and at the leader every owner reported. -/
def State.checkReady (s : State) (t : TStep) (v : Var) : Bool :=
  (decide (t.phase = .run) || s.emptyReady t) && decide (t.done = t.batches.length) && t.ending.isNone &&
  s.steps.all (fun x => decide (x.variant ≠ t.variant) || decide (t.number ≤ x.number)) &&
  (!t.leader || (s.otherOwners v).all (fun p => (t.checks.find p).isSome))

/-- The statistics of all owners (R73). -/
def TStep.allStats (t : TStep) : List LayerStat := t.checks.vals.foldl (fun a r => addStats a r.2) t.stats

/-- What the tiles gathered for a step's set, layer by layer (R73, R76). -/
def State.tileStats (s : State) (set : Nat) : List LayerStat :=
  let one (t : Tile) (l : Nat) : LayerStat := (t.sets.getD set []).getOr l zeroStat
  if s.tiles.vals.all (fun t => decide (t.sets.getD set [] = [])) then []
  else (List.range s.layers).map (fun l => (s.tiles.vals.map (fun t => one t l)).foldl addStat zeroStat)

/-- Whether the gradients a member owns hold a non-finite value (R128). -/
def State.badGrads (s : State) (t : TStep) (v : Var) : Bool :=
  v.indexed.any (fun p => t.updateSet.contains p.1 && s.ownsTensor v p.1 && (p.2.grads.getOr t.id []).any nonFinite)

/-- A step passes its check here: the Update phase begins. -/
def State.beginUpdate (s : State) (t : TStep) (v : Var) (stats : List LayerStat) : State :=
  s.modStep t.variant t.number (fun x =>
    { x with phase := .updating, stats := stats, layersLeft := s.updateLayers v t.updateSet,
             derives := derivesAt t.settings v.lastDerive t.number })

/-- CHECK (R127, R128): an owner that does not lead reports its flags and statistics to the leader; the leader, with all of them, tells
every holder the outcome. -/
def execCheck (variant stepNo : Nat) (s : State) : Res :=
  match s.findStep variant stepNo, s.var variant with
  | some t, some v =>
    if s.fw.offline || !s.checkReady t v then .next s
    else
      let s := if t.phase = .waiting then s.openStep t v else s
      let stats := addStats t.allStats (s.tileStats (stepNo % 3))
      let s := s.clearSets (stepNo % 3)
      if !t.leader then
        let s := s.modStep variant stepNo (fun t => { t with phase := .checked })
        .next (s.ringSend t.leaderAt 3 t.ctx (msgLength 3) (.reduce variant (.check stepNo (s.badGrads t v) stats)))
      else
        let bad := s.badGrads t v || anyNonfinite stats || t.checks.vals.any (fun r => r.1)
        let s := s.reduceAll v t.variant (.checked stepNo bad stats)
        settled (.next (if bad then s.skipGradient t stats else s.beginUpdate t v stats))
  | _, _ => .next s

/-- The result of the check at a holder that does not lead: it updates, or lowers exponents as the leader does and its part of the step
ends (R74, R127, R128). -/
def State.takeChecked (s : State) (variant n : Nat) (bad : Bool) (stats : List LayerStat) : State :=
  match s.findStep variant n, s.var variant with
  | some t, some v =>
    if t.leader || (t.phase ≠ .run && t.phase ≠ .checked) then s
    else if bad then
      let s := s.setVar variant (v.withAdjust (adjustAll adjustSkip v.sExp v.quiet stats))
      (s.discardStaged t).leaveStep t
    else s.beginUpdate t v stats
  | _, _ => s

/-! ## UPDATE_LAYER (R117, R120 to R124, R134, R138 to R141) -/

/-- The counter of INPLACE_DELTA (R140). -/
def inPlaceCtr (seed variant step : Nat) (i : TensorInfo) : RoundCtr :=
  ⟨roundKey seed variant, step, ctrTail 0 i.layer siteInPlace i.index 0⟩

/-- One tensor updated: its staged state, its next working copy in the other slot, whether anything was not finite, and
its drift count. The rule starts from zero state where the state kept is another rule's (R119): a rule that is changed and changed back
with no step committed under the other keeps its state (DESIGN CHOICE, assumption log 159). -/
def updateTensor (fmt variant : Nat) (curSlot : Bool) (s : Int) (t : TStep) (inPlaceSince : Bool) (x : Tensor) : Tensor × Bool × Nat :=
  let r := x.info.rows
  let c := x.info.cols
  let old := x.committed
  let fresh := decide (t.settings.rule ≠ old.rule)
  let st := applyRule t.settings t.number s r c (x.grads.getOr t.id []) (if fresh then zeroState t.settings.rule r c old.master else old)
  let cur := if curSlot then x.slot1 else x.slot0
  let der := deriveCopy fmt r c x.info.alpha st.master
  let inp := inPlaceCopy fmt c (inPlaceCtr t.seed variant t.number x.info) 0 cur x.info.alpha old.master st.master
  let next := if t.derives then der else inp.1
  let bad := badState st || badCopy fmt next || (!t.derives && inp.2)
  let drift := if t.settings.copyMode = 1 && t.derives && inPlaceSince then driftCount fmt c inp.1 cur der else 0
  ({ x with staged := some st, slot0 := if curSlot then next else x.slot0, slot1 := if curSlot then x.slot1 else next,
            grads := x.grads.del t.id }, bad, drift)

/-- Update every owned tensor of one layer in ascending index (R117). Under overlap the whole gradient is read with the s_l in force at the
update, whatever s_l its micro-batches began with (R74, R120; DESIGN CHOICE, assumption log 160). -/
def State.updateLayer (s : State) (t : TStep) (v : Var) (layer : Nat) : List (Nat × Tensor × Bool × Nat) :=
  (v.indexed.filter (fun p => t.updateSet.contains p.1 && s.ownsTensor v p.1 && decide (p.2.info.layer = layer))).map
    (fun p => (p.1, updateTensor s.baseFormat t.variant v.curSlot (v.sExp.getD layer 0) t (decide (v.lastDerive < v.stepCounter)) p.2))

/-- The tensors of one layer that a step does not update take their current working copy into the other slot (R135). -/
def Var.copyLayer (v : Var) (set : List Nat) (layer : Nat) : Var :=
  v.mapTensors (fun i x => if !set.contains i && decide (x.info.layer = layer) then
    { x with slot0 := v.curCopy x, slot1 := v.curCopy x } else x)

/-- Whether an update unit of a step runs here now. -/
def State.updateRuns (s : State) (t : TStep) : Bool :=
  match s.ctx t.ctx with
  | some c => match c.running with
    | some ⟨.update v n, _⟩ => decide (v = t.variant) && decide (n = t.number)
    | _ => false
  | none => false

/-- A non-finite update result sets its layer's flag in the step's set on a tile that holds the state (R64 to R66, R76). -/
def State.noteBadUpdate (s : State) (t : TStep) (layer : Nat) : State :=
  match (match s.ctx t.ctx with | some c => c.running | none => none) with
  | some r => s.modTile (r.tiles.headD 0) (fun x =>
      { x with sets := x.sets.modify (t.number % 3) (fun m => markLayer m layer (fun l => { l with nonfinite := true })) })
  | none => s

/-- One layer of a step's update is written (R117, R134, R135). -/
def State.writeLayer (s : State) (t : TStep) (v : Var) (l : Nat) (rest : List Nat) : State :=
  let done := s.updateLayer t v l
  let bad := done.any (fun d => d.2.2.1)
  let n := (done.map (fun d => d.2.2.2)).sum
  let elems := (done.map (fun d => d.2.1.info.rows * d.2.1.info.cols)).sum
  let counted := decide (t.settings.copyMode = 1) && t.derives && decide (v.lastDerive < v.stepCounter)
  let sats := (done.map (fun d =>
    if t.derives then deriveSats s.baseFormat d.2.1.info.alpha (d.2.1.staged.getD d.2.1.committed).master else 0)).sum
  let w := v.mapTensors (fun i x => match done.find? (fun d => decide (d.1 = i)) with | some d => d.2.1 | none => x)
  let s := (s.countF8 sats).setVar t.variant (w.copyLayer t.updateSet l)
  let s := if bad then s.noteBadUpdate t l else s
  s.modStep t.variant t.number (fun t =>
    { t with layersLeft := rest, layersDone := l :: t.layersDone, badUpdate := t.badUpdate || bad,
             drift := if counted then t.drift ++ [(l, n)] else t.drift,
             compared := if counted then t.compared + elems else t.compared })

/-- The copies this owner has written to its non-current slots in a step, and the state it staged. -/
def State.ownCopies (s : State) (t : TStep) (v : Var) : List (Nat × WorkCopy) :=
  (v.indexed.filter (fun p => t.updateSet.contains p.1 && s.ownsTensor v p.1)).map
    (fun p => (p.1, if v.curSlot then p.2.slot0 else p.2.slot1))
def State.ownStaged (s : State) (t : TStep) (v : Var) : List (Nat × TensorState) :=
  (v.indexed.filter (fun p => t.updateSet.contains p.1 && s.ownsTensor v p.1)).filterMap (fun p => p.2.staged.map (fun x => (p.1, x)))

/-- The owner's update is complete here: its new copies go to every other holder (R132). -/
def State.sendCopies (s : State) (variant stepNo : Nat) : State :=
  match s.findStep variant stepNo, s.var variant with
  | some t, some v =>
    let l := s.ownCopies t v
    if t.phase = .updating && decide (t.layersLeft = []) && decide (l ≠ []) then s.reduceAll v variant (.copies stepNo l) else s
  | _, _ => s

/-- UPDATE_LAYER (R134): the next layer of a running update, once no reader holds what its slot contains. The lehr's streams read the
layer's masters from HBM: a line that is lost loses the variant's committed state (R149, R152). -/
def execUpdateLayer (variant stepNo : Nat) (s : State) (line : HbmOutcome := .clean) : Res :=
  match s.findStep variant stepNo, s.var variant with
  | some t, some v =>
    match t.layersLeft with
    | [] => .next s
    | l :: rest =>
      if s.fw.offline || t.phase ≠ .updating || !s.updateRuns t || s.layerHeld variant v l then .next s
      else
        let s := s.areaLine false (.committed variant) line
        match line with
        | .uncorrectable => settled (.next s)
        | .crcMismatch => settled (.next s)
        | _ => settled (.next ((s.writeLayer t v l rest).sendCopies variant stepNo))
  | _, _ => .next s

/-! ## VOTE (R127, R132, R390, R391) -/

/-- The tensors another owner updates in a step: this holder keeps a replica of each (R116). -/
def State.replicas (s : State) (t : TStep) (v : Var) : List (Nat × Tensor) :=
  v.indexed.filter (fun p => t.updateSet.contains p.1 && !s.ownsTensor v p.1)

/-- The copy of a replica that its owner has sent. -/
def TStep.arrivedCopy (t : TStep) (i : Nat) : Option WorkCopy := (t.arrived.find? (fun a => decide (a.1 = i))).map (fun a => a.2)

/-- Whether every replica's new copy is here and may be written: no reader holds what its slot contains (R134). -/
def State.replicasReady (s : State) (t : TStep) (v : Var) : Bool :=
  (s.replicas t v).all (fun p => (t.arrivedCopy p.1).isSome && !s.layerHeld t.variant v p.2.info.layer)

/-- The copies that owners have sent are written into the non-current slots (R132). -/
def State.writeReplicas (s : State) (t : TStep) (v : Var) : Var :=
  v.mapTensors (fun i x =>
    match (if t.updateSet.contains i && !s.ownsTensor v i then t.arrivedCopy i else none) with
    | some c => if v.curSlot then { x with slot0 := c } else { x with slot1 := c }
    | none => x)

/-- VOTE: a holder whose update is complete and whose replicas have been written, its unit over, reports to the leader (R127, R282, R390,
R391; assumption log 152). The state it staged goes with the vote, for the home keeps the image of all members' parts (log 153). -/
def execVote (variant stepNo : Nat) (s : State) : Res :=
  match s.findStep variant stepNo, s.var variant with
  | some t, some v =>
    if !s.fw.offline && t.phase = .updating && t.layersLeft = [] && !s.updateRuns t && s.replicasReady t v then
      let vote : Vote := ⟨!t.badUpdate, t.drift, t.compared⟩
      let s := s.setVar variant (s.writeReplicas t v)
      let s := s.modStep variant stepNo (fun t => { t with phase := .voted, votes := t.votes.put s.pos vote })
      .next (if t.leader then s
        else s.ringSend t.leaderAt 3 t.ctx (msgLength 3) (.reduce variant (.vote stepNo vote (s.ownStaged t v))))
    else .next s
  | _, _ => .next s

/-- Copies from their owner, and at the leader a vote with what its owner staged. -/
def State.takeCopies (s : State) (variant n : Nat) (l : List (Nat × WorkCopy)) : State :=
  s.modStep variant n (fun t => { t with arrived := t.arrived ++ l })
def State.takeVote (s : State) (variant n src : Nat) (x : Vote) (l : List (Nat × TensorState)) : State :=
  match s.findStep variant n with
  | some t =>
    if !t.leader then s
    else
      (s.modStep variant n (fun t => { t with votes := t.votes.put src x })).modVar variant (fun v => v.mapTensors (fun i y =>
        match l.find? (fun p => decide (p.1 = i)) with | some p => { y with staged := some p.2 } | none => y))
  | none => s

/-! ## FLIP (R129, R130, R132, R135, R141, R142, R400) -/

/-- The starting exponent a commit sets: that of a replayed record (R398), or the one its step was accepted under where no commit has
taken it (R119). -/
def TStep.startNow (t : TStep) (v : Var) : Option Int :=
  match t.sStart with
  | some k => if t.replay.isSome || decide (v.sStartTaken < k.1) then some k.2 else none
  | none => none

/-- The exponents after a commit: an s_start sets them all, each that changes with its old value, else R74 (R75, R119). -/
def commitAdjust (t : TStep) (v : Var) : List Adjust :=
  match t.startNow v with
  | some k => v.sExp.map (fun o => ⟨k, 0, if o = k then none else some o⟩)
  | none => adjustAll adjustCommit v.sExp v.quiet t.stats

/-- The starting exponents still to be taken after a commit (R119). -/
def Var.takeStart (v : Var) (t : TStep) : Var :=
  let taken := match t.sStart with | some k => if t.replay.isSome then v.sStartTaken else max v.sStartTaken k.1 | none => v.sStartTaken
  { v with sStartTaken := taken,
           sStartPending := match v.sStartPending with | some k => if k.1 ≤ taken then none else some k | none => none }

/-- A holder at the flip: its other slot is current, and its counters and exponents are those of the step (R127, R130, R132). `due`
says that a comparison of digests is due (R400). -/
def Var.flipped (v : Var) (t : TStep) (due : Bool) : Var :=
  { (v.withAdjust (commitAdjust t v)).takeStart t with
    curSlot := !v.curSlot, generation := t.number, stepCounter := t.number, dirty := true,
    lastDerive := if t.derives then t.number else v.lastDerive, sinceDigest := if due then 0 else v.sinceDigest + 1 }

/-- The drift counts of all owners by layer. -/
def TStep.allDrift (t : TStep) : List (Nat × Nat) := t.votes.vals.flatMap (fun v => v.drift)

/-- The layer with the largest drift count, the lowest on ties (R142). -/
def worstLayer (l : List (Nat × Nat)) : Nat :=
  let layers := sortBy (fun a b => decide (a ≤ b)) (l.map (fun d => d.1)).dedup
  let total (k : Nat) : Nat := ((l.filter (fun d => decide (d.1 = k))).map (fun d => d.2)).sum
  layers.foldl (fun b k => if total b < total k then k else b) (layers.headD 0)

/-- DRIFT at the flip of a re-deriving step (R142). -/
def State.raiseDrift (s : State) (t : TStep) : State :=
  let n := (t.allDrift.map (fun d => d.2)).sum
  let m := (t.votes.vals.map (fun v => v.compared)).sum
  if t.settings.driftLimit * m < n * 65536 then
    s.raiseCtx evDrift t.ctx t.cause t.number t.variant [p64 0x90 n, p64 0x91 m, p8 0x92 (worstLayer t.allDrift)]
  else s

/-- Repeating evaluations whose n-th commit this is run again (R205). -/
def State.runRepeats (s : State) (t : TStep) : State :=
  eachDo (s.evalsFor (fun e => decide (e.variant = t.variant) && decide (0 < e.every) && !e.active)) (fun id s =>
    match s.evals.find id with
    | some e =>
      if e.commitsLeft ≤ 1 then
        { s with evals := s.evals.put id { e with active := true, done := 0, losses := [], afterStep := 0 } }.pin t.variant
      else { s with evals := s.evals.put id { e with commitsLeft := e.commitsLeft - 1 } }
    | none => s) s

/-- Whether a comparison of digests is due at a commit (R400). -/
def State.digestDue (s : State) (v : Var) : Bool :=
  match s.ctx v.ctx with | some c => decide (c.settings.digestInterval ≤ v.sinceDigest + 1) | none => false

/-- The digest of a tensor's current working copy (R400). -/
def Var.digestAt (v : Var) (i : Nat) : Bytes :=
  match v.tensors[i]? with | some x => sha384 (Config.copyBytes (v.curCopy x)) | none => []

/-- The digests of the tensors this member owns. -/
def State.ownDigests (s : State) (v : Var) : List (Nat × Bytes) :=
  ((List.range v.tensors.length).filter (fun i => s.ownsTensor v i)).map (fun i => (i, v.digestAt i))

/-- An owner sends its digests to the other holders where a comparison is due (R400). -/
def State.sendDigests (s : State) (variant n : Nat) (due : Bool) : State :=
  match s.var variant with
  | some v => if due && s.ownsPart v then s.reduceAll v variant (.digestsOf n (s.ownDigests v)) else s
  | none => s

/-- The flip itself: every holder makes its other slot current (R130, R132). -/
def State.flip (s : State) (t : TStep) (v : Var) : State :=
  let adj := commitAdjust t v
  let due := s.digestDue v
  let s := (s.setVar t.variant (v.flipped t due)).raiseAdjust t adj
  let s := s.modStep t.variant t.number (fun x =>
    { x with phase := .flipped, digestsDue := due, sStart := (t.startNow v).map (fun k => (0, k)) })
  let s := if t.derives && decide (t.settings.copyMode = 1) then s.raiseDrift t else s
  ((s.reduceAll v t.variant (.flip t.number)).sendDigests t.variant t.number due).runRepeats t

/-- FLIP: with every vote finite the step commits, else the leader abandons it (R129, R130). -/
def execFlip (variant stepNo : Nat) (s : State) : Res :=
  match s.findStep variant stepNo, s.var variant with
  | some t, some v =>
    if !s.fw.offline && t.leader && t.phase = .voted && (s.otherHolders v).all (fun p => (t.votes.find p).isSome) then
      if t.votes.vals.all (fun x => x.finite) then settled (.next (s.flip t v))
      else settled (.next ((s.reduceAll v t.variant (.abandon stepNo stSkipped)).endRecorded t stSkipped 2 .skippedUpdate))
    else .next s
  | _, _ => .next s

/-- The flip at a holder that does not lead. One that owns nothing has no header to write, and its part of the step ends (R116, R130,
R132, R390). -/
def State.takeFlip (s : State) (variant n : Nat) : State :=
  match s.findStep variant n, s.var variant with
  | some t, some v =>
    if t.leader || t.phase ≠ .voted then s
    else
      let due := s.digestDue v
      let s := (s.setVar variant (v.flipped t due)).modStep variant n (fun x => { x with phase := .flipped })
      let s := s.sendDigests variant n due
      if s.ownsPart v then s else s.leaveStep t
  | _, _ => s

/-! ## HEADER_WRITE_COMPLETE (R390, R394, R400 to R402) -/

/-- The completed record of a committed step. -/
def State.completeRecord (s : State) (t : TStep) (agreed : Bool) : State :=
  if t.replay.isSome then s
  else
    let v := s.var t.variant
    s.closeRecord t.variant t.number (fun r => some { r with
      kind := .committed, sStart := t.sStart.map (fun k => k.2), lossSum := pairSum t.losses, generations := t.generations, agreed := agreed,
      degraded := r.degraded || t.degraded, groupSize := s.groupUsed t r.groupSize, sAfter := match v with | some w => w.sExp | none => [],
      quietAfter := match v with | some w => w.quiet | none => [] })

/-- Completed records are written to the page store in log pages as they fill (R397). -/
def State.writeLog (s : State) (id : Nat) : State :=
  match s.var id with
  | some v =>
    let n := Config.logPages v.log
    if v.logPagesHeld < n then
      match s.ctx v.ctx with
      | some c =>
        let s := s.setVar id { v with logPagesHeld := n }
        let k := n - v.logPagesHeld
        let s := s.modCtx v.ctx (fun c => { c with pageSeq := c.pageSeq + k })
        s.openService v.ctx (.logPage id) 5 k c.settings.pageStore (.log v.log :: List.replicate (k - 1) .filler) c.pageSeq
      | none => s
    else s
  | none => s

/-- REPLICA_DIVERGED and what follows it (R401, R402): under STRICT the context halts. -/
def State.diverge (s : State) (t : TStep) (strict : Bool) : State :=
  let tensors := (t.differ.flatMap (fun d => d.2)).dedup
  let s := s.raiseCtx evReplicaDiverged t.ctx t.cause t.number t.variant
    [p32 0x90 tensors.length, p32 0x91 (tensors.foldl min (tensors.headD 0)),
     p8 0x92 (match t.differ.find? (fun d => decide (d.2 ≠ [])) with | some d => d.1 | none => 0)]
  if strict then
    let s := s.modCtx t.ctx (fun c => { c with halted := (t.variant :: c.halted).dedup })
    let s := if s.ctxState t.ctx = .active then s.enterState t.ctx .suspended else s
    s.eachStep (fun x => decide (x.variant = t.variant) && decide (x.phase ≠ .flipped))
      (fun v n s => s.endStepSoon v n stReplicaDiverged)
  else s

/-- A committed step ends once every member has written its header and every digest was compared (R27, R390, R400). -/
def State.finishStep (s : State) (variant stepNo : Nat) : State :=
  match s.findStep variant stepNo, s.var variant with
  | some t, some v =>
    let all := (s.pos :: s.otherOwners v).all (fun p => t.headers.contains p)
    let digests := !t.digestsDue || (s.pos :: s.otherHolders v).all (fun p =>
      decide ((v.owners.dedup.filter (fun o => decide (o ≠ p))).length ≤ (t.differ.filter (fun d => decide (d.1 = p))).length))
    if t.leader && t.phase = .flipped && all && digests then
      let differs := t.digestsDue && t.differ.any (fun d => decide (d.2 ≠ []))
      let strict := match s.ctx t.ctx with | some c => decide (c.settings.replicaPolicy = 1) | none => false
      let s := (s.dropStep variant stepNo).completeRecord t (t.digestsDue && !differs)
      let s := s.writeLog variant
      let s := if differs then s.diverge t strict else s
      let s := s.countTenant t.ctx tStepsCommitted 1
      let s := (s.stashEvents t).snapCtx t.ctx
      let s := s.replyStep t (if differs && strict then stReplicaDiverged else okStatus (t.degraded || s.degradedCtx t.ctx) t.rerun) 0
      s.replayGoesOn t
    else s
  | _, _ => s

/-- Whether an export of a variant still reads its state (R197). -/
def State.exportReads (s : State) (id : Nat) : Bool :=
  s.streams.vals.any (fun x => !x.discard && decide (x.issued < x.total) &&
    (match x.use with | .exporting _ v _ _ _ => decide (v = id) | _ => false))

/-- HEADER_WRITE_COMPLETE (R390): this member's header page is written, and the step ends when every member's is. -/
def execHeaderWriteComplete (variant stepNo : Nat) (s : State) : Res :=
  match s.findStep variant stepNo, s.var variant with
  | some t, some v =>
    if t.phase = .flipped && !t.headers.contains s.pos && !s.exportReads variant then
      let s := (s.setVar variant (v.commitStaged t)).modStep variant stepNo (fun t => { t with headers := t.headers ++ [s.pos] })
      settled (.next (if t.leader then s.finishStep variant stepNo
        else (s.ringSend t.leaderAt 3 t.ctx (msgLength 3) (.reduce variant (.headerDone stepNo))).leaveStep t))
    else .next s
  | _, _ => .next s

/-! ## The comparison of digests (R400, R401) -/

/-- A holder's report reaches the leader: the tensors whose digests differ from their owner's. -/
def State.takeDiffer (s : State) (variant n src : Nat) (differ : List Nat) : State :=
  (s.modStep variant n (fun t => if t.leader then { t with differ := t.differ ++ [(src, differ)] } else t)).finishStep variant n

/-- The position of a context's home: the one whose serial number its UID begins with (R274). -/
def State.homeOfCtx (s : State) (ctx : Nat) : Option Nat :=
  match s.ctx ctx, s.ring.table with
  | some c, some r => r.entries.findIdx? (fun e => decide (e.state = 1) && decide (e.serial = leNat (c.uid.take 8)))
  | _, _ => none

/-- An owner's digests arrive at a holder, which compares, reports to the leader, and fetches the owner's copy of every tensor that
differs (R400, R401). -/
def State.takeDigests (s : State) (variant n src : Nat) (l : List (Nat × Bytes)) : State :=
  match s.var variant with
  | some v =>
    let differ := (l.filter (fun d => decide (v.digestAt d.1 ≠ d.2))).map (fun d => d.1)
    let s := if differ = [] then s
      else (s.setVar variant { v with fetching := v.fetching ++ differ }).ringSend src 3 v.ctx (msgLength 3) (.reduce variant (.fetch differ))
    if v.home then s.takeDiffer variant n s.pos differ
    else match s.homeOfCtx v.ctx with
      | some p => s.ringSend p 3 v.ctx (msgLength 3) (.reduce variant (.digests n differ))
      | none => s
  | none => s

/-- An owner answers a fetch with its current copies (R401). -/
def State.takeFetch (s : State) (variant src : Nat) (l : List Nat) : State :=
  match s.var variant with
  | some v => s.ringSend src 3 v.ctx (msgLength 3) (.reduce variant
      (.fetched (l.filterMap (fun i => (v.tensors[i]?).map (fun x => (i, v.curCopy x))))))
  | none => s

/-- The copies fetched land in the current slots, and new readers go on (R401). -/
def State.takeFetched (s : State) (variant : Nat) (l : List (Nat × WorkCopy)) : State :=
  s.modVar variant (fun v =>
    { v.mapTensors (fun i x => match l.find? (fun p => decide (p.1 = i)) with
        | some p => if v.curSlot then { x with slot1 := p.2 } else { x with slot0 := p.2 }
        | none => x)
      with fetching := v.fetching.filter (fun i => !l.any (fun p => decide (p.1 = i))) })

end Sys2Proof.Machine
end

