-- ==== Sys2Proof/Machine/Legs.lean ====
section
/-! DEFINITION. The micro-batch a context runs and its experts' homes: what it computes from, the bundles of its legs, and LAYER_CONTINUE
(R78, R85, R102, R106, R204, R219 to R224). -/

namespace Sys2Proof.Machine

/-! ## What a micro-batch computes from (R78, R204) -/

/-- The ring slot of an extra expert as a use finds it: the one it was detached from while the use holds that, else its own (R196). -/
def Var.slotFor (v : Var) (holder no : Nat) : Option Nat :=
  match v.releasing.find? (fun r => decide (r.2.1 = no) && r.2.2.contains holder) with
  | some r => some r.1
  | none => (v.extras.find? (fun e => decide (e.decl.extraNo = no))).bind (fun e => e.slot)

/-- The pass of a use: the extra experts it runs (R195), and its experts' answers. -/
def Var.passOf (v : Var) (holder : Nat) (experts update : List Nat) (answers : List Bundle) : Pass :=
  { extras := (v.extras.filter (fun e => experts.contains e.decl.extraNo)).map (fun e => e.decl), update := update,
    slots := experts.filterMap (fun no => (v.slotFor holder no).map (fun n => (no, n))), answers := answers }

/-- The answers a context's micro-batch has. -/
def State.answersOf (s : State) (ctx : Nat) : List Bundle := match s.ctx ctx with | some c => c.travel.answers | none => []

/-- What a micro-batch of a step computes from (R78). -/
def State.microIn (s : State) (b : BaseShape) (t : TStep) (v : Var) (i : Nat) : MicroIn :=
  { model := { shape := b, infos := v.tensors.map (fun x => x.info), copies := t.reading, slots := [] },
    pass := v.passOf (holderId t.id) t.experts t.updateSet (s.answersOf t.ctx),
    rounding := { key := roundKey t.seed t.variant, step := t.number, microBatch := i, sExp := t.readExp },
    weight := Config.lossWeight b.digest t.tokens, samples := t.batches.getD i [] }

/-- What a micro-batch of an evaluation computes from (R204). -/
def State.evalIn (s : State) (b : BaseShape) (id : Nat) (e : EvalRun) (v : Var) (i : Nat) : MicroIn :=
  { model := { shape := b, infos := v.tensors.map (fun x => x.info), copies := e.reading, slots := [] },
    pass := v.passOf (holderId id) e.experts [] (s.answersOf e.ctx),
    rounding := { key := 0, step := 0, microBatch := i, sExp := [] }, weight := 0#32, samples := e.batches.getD i [] }

/-- The rows of the sets held, by layer. -/
def heldRows (held : List StashEntry) : List (Nat × List RowSet) := held.map (fun e => (e.size.layer, e.rows))

/-! ## The pass that runs (R224) -/

/-- A pass that runs: what it computes from, the lowest layer its stash range is recomputed from, whether its work is to end, and what its
bundles say of it beyond R219's header. -/
structure MicroPass where
  inp : MicroIn
  from? : Option Nat
  ending : Bool
  variant : Nat
  step : Nat
  generation : Nat
  deriving DecidableEq, Repr

/-- The pass of the micro-batch a context runs. -/
def State.passOf (s : State) (c : Ctx) : Option MicroPass :=
  match c.running with
  | some ⟨.micro v n i, _⟩ =>
    match s.findStep v n, s.var v, s.base.shape with
    | some t, some w, some b => some
        { inp := s.microIn b t w i, from? := (t.recomputed.find? (fun r => decide (r.1 = i))).map (fun r => r.2),
          ending := t.ending.isSome, variant := v, step := n, generation := t.genOf i }
    | _, _, _ => none
  | some ⟨.evalMicro id i, _⟩ =>
    match s.evals.find id, s.base.shape with
    | some e, some b =>
      match s.var e.variant with
      | some w => some
          { inp := s.evalIn b id e w i, from? := none, ending := e.ending.isSome, variant := e.variant, step := 0,
            generation := e.generation }
      | none => none
    | _, _ => none
  | _ => none

/-- Whether the micro-batch a context runs has every leg behind it, each bundle answered; one that is to end waits for none (R224). -/
def State.passOver (s : State) (c : Ctx) : Bool :=
  match s.passOf c with
  | some p => p.ending || (decide (c.travel.sent = []) && decide ((p.inp.legs p.from?).length ≤ c.travel.legs))
  | none => true

/-- Whether its forward pass is past a layer: the experts of that layer and of those below have answered. -/
def State.forwardPast (s : State) (c : Ctx) (layer : Nat) : Bool :=
  match s.passOf c with
  | some p => decide (c.travel.sent = []) &&
      decide ((forwardLegs p.inp.model.shape 0 layer (fun _ => false)).length ≤ c.travel.legs) &&
      decide (c.travel.legs ≤ (forwardLegs p.inp.model.shape 0 (p.inp.model.shape.layers - 1) (fun _ => false)).length)
  | none => true

/-- A bundle of a leg (R219, R220): the variant is named for extra experts and on the way back, the key on the way back. -/
def State.legBundle (s : State) (ctx : Nat) (c : Ctx) (p : MicroPass) (g : Leg) (x : Load) (tag : Nat) : Bundle :=
  { kind := if g.back then 3 else 1, elemFmt := if g.back then fmtCodeG8 else fmtCodeF8, layer := g.layer, ctx := ctx,
    variant := if g.back || decide (0x8000 ≤ x.key) then p.variant else 0, expert := x.key, parison := c.travel.parison,
    rows := x.rows.length, epoch := s.ring.expertEpoch, srcPos := s.pos, stash := g.keep, step := p.step,
    microBatch := if p.step = 0 then 0 else p.inp.rounding.microBatch, incarnation := c.incarnation,
    key := if g.back then p.inp.rounding.key else 0, payload := x.codes, rowFp := x.fp, tag := tag, rowNos := x.rows, ranks := x.ranks,
    generation := p.generation, trainee := p.variant }

/-- The bundles of a leg, in ascending expert number, each with a tag of its own. -/
def State.legBundles (s : State) (ctx : Nat) (c : Ctx) (p : MicroPass) (g : Leg) : List Bundle :=
  let l := sortBy (fun a b => decide (a.key ≤ b.key)) ((p.inp.loads (heldRows c.stash) g).filter (fun x => decide (x.rows ≠ [])))
  l.zipIdx.map (fun x => s.legBundle ctx c p g x.1 ((s.nextId + x.2) % 65536))

/-- The micro-batch a context runs begins its next leg once every bundle of the last is answered (R224): the leg's bundles leave for the
experts' homes. -/
def State.continuePass (s : State) (ctx : Nat) : State :=
  match s.ctx ctx with
  | some c =>
    match s.passOf c with
    | some p =>
      if c.travel.sent ≠ [] || p.ending then s
      else match (p.inp.legs p.from?)[c.travel.legs]? with
        | some g =>
          let l := s.legBundles ctx c p g
          let s := State.setCtx { s with nextId := s.nextId + l.length } ctx { c with travel := { c.travel with legs := c.travel.legs + 1, sent := l } }
          eachDo l (fun b s => s.sendTravel ctx b) s
        | none => s
    | none => s
  | none => s

/-- LAYER_CONTINUE (R224): a row of the parison that runs goes on, or the micro-batch that runs does. -/
def execLayerContinue (ctx row : Nat) (s : State) : Res :=
  match (s.ctx ctx).bind (fun c => c.runningParison) with
  | some _ => s.continueRow ctx row
  | none => settled (.next (s.continuePass ctx))

/-- A micro-batch starts with nothing sent, under the next number of its context's parisons (R207, R219). -/
def State.openTravel (s : State) (ctx : Nat) : State :=
  s.modCtx ctx (fun c => { c with travel := { Travel.none with parison := c.nextParison }, nextParison := (c.nextParison + 1) % 2 ^ 32 })

/-- A micro-batch has ended: its answers go with it. -/
def State.closeTravel (s : State) (ctx : Nat) : State := s.modCtx ctx (fun c => { c with travel := Travel.none })

end Sys2Proof.Machine
end

