-- ==== Sys2Proof/Machine/Units.lean ====
section
/-! DEFINITION. Units on the tiles: their start and end, the stash, and the power states of tiles (R76, R102 to R110, R126,
R131 to R134, R191, R204, R205, R211, R229, R230, R280 to R283, R295, R441). -/

namespace Sys2Proof.Machine

/-! ## Tiles at a start (R280, R441) -/

/-- A tile runs a unit of a context; one that still wakes runs once its wake is over (R280). -/
def State.enterTile (s : State) (n ctx : Nat) : State :=
  let code := match s.fw.running with | some i => i.microcodeDigest | none => []
  s.modTile n (fun t => { t with held := some ctx, power := if t.waking then t.power else .run, microcode := code })

/-- A tile returns to the pool (R281). -/
def State.leaveTile (s : State) (n : Nat) : State :=
  s.modTile n (fun t => { t with held := none, power := if t.waking then t.power else .idle })

/-! ## Starting (R76, R191, R211, R229) -/

/-- Whether a step or program whose faults a tile keeps is still under way. -/
def State.scopeLives (s : State) (started : Option Nat) : FaultScope → Bool
  | .step id => s.steps.any (fun t => decide (t.id = id))
  | .program c => decide (started ≠ some c)

/-- The array faults of a program are counted from its start, and those of steps that are over are forgotten (R46). -/
def State.clearFaults (s : State) (started : Option Nat) (ctx : Nat) : State :=
  match s.ctx ctx with
  | some c => match c.running with
    | some r => eachDo r.tiles (fun n s => s.modTile n (fun t => { t with faults := t.faults.filter (s.scopeLives started) })) s
    | none => s
  | none => s

/-- A micro-batch of a step starts: the step leaves its wait with the first (R127); the generation it reads is recorded, and one recorded
before is read again (R76, R133, R384, R398). -/
def State.startMicro (s : State) (v n i : Nat) : State :=
  match s.findStep v n, s.var v with
  | some t, some w =>
    let s := if t.phase = Phase.waiting then (s.openStep t w).clearFaults none t.ctx else s
    let g := t.generations.getD i w.generation
    s.modStep v n (fun t =>
      { t with
        phase := .run, generations := if i < t.generations.length then t.generations else t.generations ++ [g],
        backAt := none, reading := w.copiesOf g, readExp := w.sExp, degraded := t.degraded || s.degradedCtx t.ctx })
  | _, _ => s

/-- A micro-batch of an evaluation starts: the first takes the generation all of them read (R204). -/
def State.startEval (s : State) (id i : Nat) : State :=
  match s.evals.find id with
  | some e =>
    match s.var e.variant with
    | some w =>
      let e : EvalRun := if i = 0 then { e with generation := w.generation, reading := w.copiesOf w.generation } else e
      { s with evals := s.evals.put id { e with degraded := e.degraded || s.degradedCtx e.ctx } }
    | none => s
  | none => s

/-- A variant takes a slot of a rank: in a set that has it, else in the first of that rank with a slot left, else in a set opened for it
(R40, R41, R210). -/
def addSlot (stat rank variant : Nat) (sets : List (Nat × List Nat)) : List (Nat × List Nat) :=
  if sets.any (fun x => decide (x.1 = rank) && x.2.contains variant) then sets
  else match sets.findIdx? (fun x => decide (x.1 = rank) && decide (x.2.length < slotCount stat rank)) with
    | some i => sets.modify i (fun x => (x.1, x.2 ++ [variant]))
    | none => sets ++ [(rank, [variant])]

/-- The ranks of a variant's adapters, in manifest order. -/
def Var.ranks (v : Var) : List Nat := ((v.tensors.filter (fun x => decide (x.info.kind = 0))).map (fun x => x.info.rank)).dedup

/-- The adapter column block sets of a parison: variants take slots in the order of their first row (R210). -/
def State.adapterSets (s : State) (rows : List Row) : List (Nat × List Nat) :=
  (rows.filterMap (fun r => (s.requests.find r.request).map (fun q => q.variant))).dedup.foldl (fun sets id =>
    match s.var id with
    | some v => v.ranks.foldl (fun sets r => addSlot (if s.baseFormat = 4 then 1 else 0) r id sets) sets
    | none => sets) []

/-- The rows of a parison as its first layer begins: the generation each reads, and its embedding; rows that run again read
what they read before (R67, R211, R384); and its adapter sets (R210). -/
def State.beginRows (s : State) (p : Parison) : Parison :=
  { p with sets := s.adapterSets p.rows, rows := p.rows.map (fun r =>
      match s.requests.find r.request with
      | some q =>
        match s.var q.variant with
        | some w =>
          if r.copies = [] then
            { r with generation := w.generation, copies := w.copiesOf w.generation, residual := Config.embed s.baseDigest r.token }
          else { r with residual := Config.embed s.baseDigest r.token }
        | none => r
      | none => r) }

/-- A program's next stretch: the one under way, or the next in the queue of its context (R282, R356). -/
def State.startProgram (s : State) (ctx : Nat) : State :=
  let fresh := match s.ctx ctx with | some c => c.prog.isNone | none => false
  (whenDo fresh (fun s => s.clearFaults (some ctx) ctx) s).modCtx ctx (fun c =>
    match c.prog, c.runQueue with
    | some p, _ => { c with prog := some { p with atBoundary := false } }
    | none, (t, n) :: rest =>
      let code := match c.programs.find n with | some x => x | none => ([], [])
      { c with
        prog := some { ticket := t, programNo := n, program := code.1, digest := code.2, index := 0, atBoundary := false,
                       openUpdates := [] },
        runQueue := rest }
    | none, [] => c)

/-- The moving rows a service-mode unit streams against each block: a parison's rows, a micro-batch's tokens; none where the spec gives
the unit's products no base weights from HBM. -/
def State.unitRows (s : State) (w : Work) : Option Nat :=
  match w with
  | .parison p => some p.rows.length
  | .micro v n i => (s.findStep v n).map (fun t => tokensOf (t.batches.getD i []))
  | .evalMicro e i => (s.evals.find e).map (fun e => tokensOf (e.batches.getD i []))
  | _ => none

/-- What a unit does as it starts. -/
def State.beginWork (s : State) (ctx : Nat) (w : Work) : State :=
  match w with
  | .micro v n i => (s.startMicro v n i).openTravel ctx
  | .evalMicro e i => (s.startEval e i).openTravel ctx
  | .parison _ => s
  | .program => s.startProgram ctx
  | .update _ _ => s
  | .stopped => s

/-- The unit as it runs. -/
def State.runningWork (s : State) (w : Work) : Work :=
  match w with
  | .parison p => .parison (s.beginRows p)
  | w => w

/-- The last 64 starts of serving parisons and micro-batches (R229). -/
def Ctx.noteStart (c : Ctx) (w : Work) : Ctx :=
  match w with
  | .parison _ => { c with starts := (false :: c.starts).take 64, closed := c.closed.tail }
  | .micro _ _ _ => { c with starts := (true :: c.starts).take 64 }
  | .evalMicro _ _ => { c with starts := (true :: c.starts).take 64 }
  | _ => c

/-- The count of units since the last snapshot; the 1,024th takes one (R295). -/
def Ctx.countUnit (c : Ctx) : Ctx := if c.unitsSince + 1 = 1024 then c.snap else { c with unitsSince := c.unitsSince + 1 }

/-- Whether every tile of a list is held for a context, and none of them runs (R281). -/
def State.allHeld (s : State) (ctx : Nat) (tiles : List Nat) : Bool :=
  let busy := s.runningTiles
  decide (tiles ≠ []) && tiles.all (fun n => !busy.contains n && decide ((s.tile n).held = some ctx))

/-- UNIT_START (R281): with every tile of its group held, a context starts its next unit. -/
def execUnitStart (ctx : Nat) (s : State) : Res :=
  match s.ctx ctx with
  | some c =>
    match s.nextWork ctx c with
    | some w =>
      let tiles := s.runTiles c
      if s.power.mode ≠ .active || s.fw.offline || !s.allHeld ctx tiles then .next s
      else
        let s := s.modCtx ctx (fun c => { (c.noteStart w).countUnit with running := some ⟨s.runningWork w, tiles⟩ })
        let s := eachDo tiles (fun n s => s.enterTile n ctx) s
        let s := match s.unitRows w with | some n => s.openFeeds ctx n tiles | none => s
        started (.next (s.beginWork ctx w))
    | none => .next s
  | none => .next s

/-! ## Ending (R68, R110, R126, R204, R205, R230, R281, R291) -/

/-- The G8 partials of a micro-batch's gradients that leave for the owner at a position, with the tensor of each. -/
def State.partialsFor (s : State) (t : TStep) (v : Var) (i : Nat) (grad : Nat → List Word) (p : Nat) : List (Nat × List Narrow) :=
  (v.indexed.filter (fun x => t.updateSet.contains x.1 && decide (v.ownerOf x.1 = p))).map
    (fun x => (x.1, s.partialOut t x.1 i x.2.info (grad x.1)))

/-- The statistics of those conversions, in the layers of their tensors (R73). -/
def State.partialStats (s : State) (t : TStep) (v : Var) (i : Nat) (grad : Nat → List Word) : List LayerStat :=
  let l := (v.indexed.filter (fun x => t.updateSet.contains x.1 && !s.ownsTensor v x.1)).map
    (fun x => (x.2.info.layer, g8Stat (grad x.1) (s.partialOut t x.1 i x.2.info (grad x.1))))
  if l = [] then [] else (List.range s.layers).map (fun k => ((l.filter (fun x => decide (x.1 = k))).map (fun x => x.2)).foldl addStat zeroStat)

/-- A micro-batch of a step ends: it has run forward and back, reading the sets held; gradients come to rest at the owners of the tensors
in the update set, here and over the ring; statistics, losses (R68, R106, R127). -/
def State.drainMicro (s : State) (t : TStep) (held : List StashEntry) (i : Nat) : State :=
  match s.var t.variant, s.base.shape with
  | some v, some b =>
    let o := (s.microIn b t v i).run (heldRows held)
    let s := s.setVar t.variant (v.mapTensors (fun k x =>
      if t.updateSet.contains k && s.ownsTensor v k then x.rest t.id (o.grad k) else x))
    let s := eachDo (s.otherOwners v) (fun p s =>
      s.ringSend p 3 t.ctx (msgLength 3) (.reduce t.variant (.grads t.number i
        ((s.partialsFor t v i o.grad p).map (fun x => (x.1, x.2.map (fun n => n.enc))))))) s
    (s.countF8 o.sats).modStep t.variant t.number (fun t =>
      { t with done := i + 1, stats := addStats (addStats t.stats o.stats) (s.partialStats t v i o.grad), losses := t.losses ++ o.losses })
  | _, _ => s

/-- The rounding state block and the derivative block of a tile are what the step sequencer wrote there last for a micro-batch: for which
of its operations is timing, so their bytes are free (R71, R98; DESIGN CHOICE, assumption log 155). -/
def State.leaveBlocks (s : State) (tiles : List Nat) : State :=
  eachDo tiles (fun n s =>
    let (k, s) := s.freeNat
    s.modTile n (fun t => { t with rounding := (List.range 32).map (Config.freeByte k), deriv := (List.range 32).map (fun i => Config.freeByte k (32 + i)) })) s

/-- A step whose stash was exhausted ends at the boundary on every member (R105, R107). -/
def State.endExhausted (s : State) (t : TStep) : State :=
  match s.var t.variant with
  | some v => (s.reduceAll v t.variant (.abandon t.number stStashExhausted)).endRecorded t stStashExhausted 0 .stashExhausted
  | none => s

/-- The boundary of a step's micro-batch: it drains, or the step ends as was asked (R28, R110, R190). -/
def State.endMicro (s : State) (v n i : Nat) (held : List StashEntry) : State :=
  match s.findStep v n with
  | some t =>
    match t.ending with
    | some e => if e.status = stStashExhausted then s.endExhausted t else s.abandonStep v n e.status
    | none => s.drainMicro t held i
  | none => s

/-- The parameters of an EVAL reply (R345). -/
def EvalRun.params (e : EvalRun) : List (Nat × Bytes) :=
  [p32 0x81 (pairSum e.losses).toNat, p64 0x82 e.tokens, p64 0x83 e.generation]

/-- A run of an evaluation is complete: its reply; a repeating one sends an intermediate reply, which carries OK
(R310), and waits for its next commit (R204, R205). -/
def State.finishEval (s : State) (id : Nat) : State :=
  match s.evals.find id with
  | some e =>
    if e.every = 0 then s.endEval id (okStatus e.degraded e.rerun) e.params
    else
      let s := s.interim e.ticket stOk e.params
      let e' : EvalRun := { e with active := false, commitsLeft := e.every, losses := [], done := 0, rerun := false, degraded := false }
      let s : State := { s with evals := s.evals.put id e' }
      s.unpin e.variant (holderId id)
  | none => s

/-- The boundary of an evaluation's micro-batch (R204, R205). -/
def State.endEvalMicro (s : State) (id i : Nat) : State :=
  match s.evals.find id with
  | some e =>
    match e.ending with
    | some x => s.endEval id x.status []
    | none =>
      let r := match s.var e.variant, s.base.shape with | some v, some b => (s.evalIn b id e v i).evaluate | _, _ => ([], 0)
      let e : EvalRun := { e with done := i + 1, losses := e.losses ++ r.1 }
      let s : State := State.countF8 { s with evals := s.evals.put id e } r.2
      if e.done = e.batches.length then s.finishEval id else s
  | none => s

/-- The end of an update unit: a step that must end as asked does (R28, R190). -/
def State.endUpdate (s : State) (v n : Nat) : State :=
  match s.findStep v n with
  | some t => match t.ending with
    | some e => if t.phase = Phase.flipped then s else s.abandonStep v n e.status
    | none => s
  | none => s

/-- Whether every operation of a program has run. -/
def ProgRun.over (p : ProgRun) : Bool := decide (progLen p.program ≤ p.index)

/-- The end of a program's stretch: one whose operations have all run ends with OK, one whose context ends stops there (R282,
R292, R356). -/
def State.endStretch (s : State) (ctx : Nat) : State :=
  if s.lifeEnds ctx then s.endProgram ctx stContextGone
  else match s.ctx ctx with
    | some c => match c.prog with
      | some p => if p.over then s.endProgram ctx stOk else s
      | none => s
    | none => s

/-- What the end of a unit brings. -/
def State.endWork (s : State) (ctx : Nat) (w : Work) (tiles : List Nat) (held : List StashEntry) : State :=
  match w with
  | .micro v n i => ((s.leaveBlocks tiles).endMicro v n i held).closeTravel ctx
  | .evalMicro e i => (s.endEvalMicro e i).closeTravel ctx
  | .update v n => s.endUpdate v n
  | .program => s.endStretch ctx
  | .parison _ => s
  | .stopped => s

/-- Whether a running unit has come to its end (R230, R282): a parison's last token is chosen, a micro-batch's backward pass has no set
left to wait for (R104) and its bundles are answered (R224), an update is done or waits
for a reader, a program is at a BOUNDARY or over. -/
def State.unitOver (s : State) (c : Ctx) (w : Work) (tiles : List Nat) : Bool :=
  match w with
  | .parison p => p.rows.all (fun r => decide (s.layers < r.layer))
  | .micro _ _ _ => c.stash.all (fun e => decide (e.place = .onTile) || decide (e.place = .boundary)) && s.passOver c
  | .evalMicro _ _ => s.passOver c
  | .update v n =>
    match s.findStep v n, s.var v with
    | some t, some x => (match t.layersLeft with | [] => true | l :: _ => s.layerHeld v x l)
    | _, _ => true
  | .program => (match c.prog with | some p => p.atBoundary || p.over | none => true) && tiles.all (fun n => decide ((s.tile n).queue = []))
  | .stopped => true

/-- A unit that held g tiles for n cc is charged (R281), and its tile-cc counted (R295). -/
def State.charge (s : State) (ctx n g : Nat) : State :=
  (s.modCtx ctx (fun c => { c with v := (c.v + n * g * 65536 / c.settings.weight) % 2 ^ 64 })).countTenant ctx tTileCc (n * g)

/-- UNIT_END (R281): v is charged, the tiles return to the pool, and what the unit brings happens. -/
def execUnitEnd (ctx cycles : Nat) (s : State) : Res :=
  match s.ctx ctx with
  | some c =>
    match c.running with
    | some r =>
      if !s.unitOver c r.work r.tiles then .next s
      else
        let s := s.charge ctx cycles r.tiles.length
        let s := (s.endFeeds ctx).modCtx ctx (fun c => { c with running := none, stash := c.stash.filter (fun e => decide (e.place = .spilled)) })
        let s := eachDo r.tiles (fun n s => s.leaveTile n) s
        let s := s.endWork ctx r.work r.tiles c.stash
        settled (.next s)
    | none => .next s
  | none => .next s

/-! ## The stash (R102 to R109) -/

/-- Bytes of the stash region a step runs with, on a tile: its context's, or its record's where it is replayed (R103, R398). -/
def TStep.regionBytes (t : TStep) : Nat := t.stash.region * 0x40000

/-- Bytes of the spill area a step runs with (R103, R398). -/
def TStep.spillBytes (t : TStep) : Nat := t.stash.spill * mib64

/-- Bytes of a tile that sets take, those whose spill is not yet written among them or not. -/
def tileShare (l : List StashEntry) (withSpilling : Bool) : Nat :=
  (l.map (fun e =>
    if e.place = .boundary then e.size.boundary
    else if e.place = .onTile || (withSpilling && decide (e.place = .spilling)) then e.size.share else 0)).sum

/-- The set on tile whose backward is read last: that of the lowest layer. -/
def lastRead (l : List StashEntry) : Option StashEntry :=
  match l.filter (fun e => decide (e.place = .onTile)) with
  | [] => none
  | x :: xs => some (xs.foldl (fun b y => if y.size.layer < b.size.layer then y else b) x)

/-- The place of the set of a layer changed. -/
def placeLayer (layer : Nat) (p : StashPlace) (l : List StashEntry) : List StashEntry :=
  l.map (fun e => if e.size.layer = layer then { e with place := p } else e)

/-- The sets without that of a layer. -/
def dropLayer (layer : Nat) (l : List StashEntry) : List StashEntry := l.filter (fun e => decide (e.size.layer ≠ layer))

/-- The loop of R104: sets are spilled until a share fits beside those on tile. What has been spilled by then, and whether the share fits:
if not, the layer is exhausted. `used` is the use of the spill area, `room` the bytes of the region. -/
def spillUntil (room area share : Nat) : Nat → Nat → List StashEntry → List StashEntry × Bool
  | 0, _, l => (l, false)
  | fuel + 1, used, l =>
    if tileShare l false + share ≤ room then (l, true)
    else match lastRead l with
      | none => (l, false)
      | some v =>
        if area < used + v.size.total then (l, false)
        else spillUntil room area share fuel (used + v.size.total) (placeLayer v.size.layer .spilling l)

/-- The step whose micro-batch a context runs, and the micro-batch. -/
def State.runningStep (s : State) (ctx : Nat) : Option (TStep × Nat) :=
  match s.ctx ctx with
  | some c => match c.running with
    | some ⟨.micro v n i, _⟩ => (s.findStep v n).map (fun t => (t, i))
    | _ => none
  | none => none

/-- A step ends with STASH_EXHAUSTED at this boundary; every set of it is discarded (R105). -/
def State.exhaust (s : State) (ctx : Nat) (t : TStep) : State :=
  State.modStep { s.modCtx ctx (fun c => { c with stash := [] }) with
      homeStash := s.homeStash.filter (fun h => !h.ofStep t.ctx t.variant t.number) } t.variant t.number (fun t =>
    { t with ending := some (t.ending.getD ⟨stStashExhausted⟩) })

/-- What recomputation keeps: the sets, the lowest layer of its range, and the working space on each tile (R105). -/
structure Recompute where
  kept : List StashEntry
  lowest : Nat
  work : Nat
  deriving DecidableEq, Repr

/-- Tile-held sets dropped, newest layer first, until the working space fits: the largest share of any set in the range and one boundary
(R105 steps 1 to 3). Of the lowest set dropped the boundary is kept; where none is dropped that of layer l lies in the working space.
None when it cannot be made (step 4). -/
def dropUntil (room reserved : Nat) : Nat → List StashEntry → StashEntry → Nat → Option Recompute
  | 0, _, _, _ => none
  | fuel + 1, l, low, largest =>
    let work := max reserved (largest + low.size.boundary)
    let kept := l ++ [low]
    let own := if low.place = .boundary then low.size.boundary else 0
    if tileShare l true + own + work ≤ room then some ⟨kept, low.size.layer, work⟩
    else match l.filter (fun e => decide (e.place = .onTile)) with
      | [] => none
      | x :: xs =>
        let v := xs.foldl (fun b y => if b.size.layer < y.size.layer then y else b) x
        dropUntil room reserved fuel (dropLayer v.size.layer l) { v with place := .boundary } (max largest v.size.share)

/-- The layer forwards of a range in the order they run: for each layer k from the top down to j, layers j to k (R106). -/
def recomputeRuns (j top : Nat) : List (Nat × Nat) := ((layersFrom j top).reverse).flatMap (fun k => (layersFrom j k).map (fun l => (k, l)))

/-- Exhaustion under SPILL_THEN_RECOMPUTE (R105, R106): the range from j to the top is recomputed in the backward pass. `rows` are those of
the set of layer l, of which the boundary alone is kept. -/
def State.recompute (s : State) (ctx : Nat) (c : Ctx) (t : TStep) (b : Nat) (z : StashSize) (rows : List RowSet) : State :=
  match dropUntil t.regionBytes t.stashWork (c.stash.length + 1) c.stash ⟨z, .waiting, rows⟩ (max z.share z.above) with
  | none => s.exhaust ctx t
  | some r =>
    let kept := r.kept.map (fun e => if e.place = .waiting then { e with place := .boundary, size := { e.size with boundary := 0 } } else e)
    (s.setCtx ctx { c with stash := kept }).modStep t.variant t.number (fun t =>
      { t with
        stashWork := r.work, recomputed := t.recomputed ++ [(b, r.lowest)],
        recomputeForwards := t.recomputeForwards + (recomputeRuns r.lowest (s.layers - 1)).length })

/-- exhausted(b, l) of R105, as the policy the step runs with decides. -/
def State.exhausted (s : State) (ctx : Nat) (c : Ctx) (t : TStep) (b : Nat) (z : StashSize) (rows : List RowSet) : State :=
  if t.stash.policy = 1 then s.exhaust ctx t else s.recompute ctx c t b z rows

/-- The lowest layer with a tensor the step updates: below it no set is held (R85). -/
def State.lowestLayer (s : State) (t : TStep) : Nat :=
  match s.var t.variant with
  | some v =>
    (match (v.indexed.filter (fun x => t.updateSet.contains x.1)).map (fun x => x.2.info.layer) with
     | l :: ls => ls.foldl min l
     | [] => s.layers)
  | none => s.layers

/-- What a layer's set holds as its forward pass ends (R102). -/
def State.layerRows (s : State) (t : TStep) (i layer : Nat) : List RowSet :=
  match s.var t.variant, s.base.shape with
  | some v, some b => (s.microIn b t v i).setOf layer
  | _, _ => []

/-- LAYER_FORWARD_END (R104): its experts having answered (R224), the layer's set is placed, older ones spilled; a home without room exhausts it, without spilling (R107). A
layer below the lowest trainable one holds none (R85); a micro-batch that recomputes takes no more sets. -/
def execLayerForwardEnd (ctx : Nat) (set : StashSize) (s : State) : Res :=
  match s.ctx ctx, s.runningStep ctx with
  | some c, some (t, i) =>
    if set.microBatch ≠ i || t.ending.isSome || t.recomputed.any (fun r => decide (r.1 = i)) || t.backAt.isSome ||
        c.stash.any (fun e => decide (set.layer ≤ e.size.layer) || decide (e.place = .waiting)) || s.layers ≤ set.layer ||
        set.layer < s.lowestLayer t || !s.forwardPast c set.layer then .next s
    else
      let rows := s.layerRows t i set.layer
      if !set.homesOk || t.homeFull.contains (i, set.layer) then .next (s.exhausted ctx c t i set rows)
      else
        let room := t.regionBytes - t.stashWork
        let r := spillUntil room t.spillBytes set.share (c.stash.length + 1) (s.spillUsed ctx c.stash) c.stash
        let used := if r.1.any (fun e => decide (e.place = .spilling)) then s.spillUsed ctx r.1 else 0
        let s := s.modStep t.variant t.number (fun t => { t with spillPeak := max t.spillPeak used })
        let c : Ctx := { c with stash := r.1 }
        if r.2 then
          let place := if tileShare r.1 true + set.share ≤ room then StashPlace.onTile else .waiting
          .next (s.setCtx ctx { c with stash := r.1 ++ [⟨set, place, rows⟩] })
        else .next (s.exhausted ctx c t i set rows)
  | _, _ => .next s

/-- A set that waits for space is placed once it fits. -/
def placeWaiting (room : Nat) (l : List StashEntry) : List StashEntry :=
  l.map (fun e => if e.place = .waiting && decide (tileShare l true + e.size.share ≤ room) then { e with place := .onTile } else e)

/-- SPILL_WRITE_COMPLETE (R104): the spilled set's tile space may be reused. -/
def execSpillWriteComplete (ctx microBatch layer : Nat) (s : State) : Res :=
  match s.ctx ctx, s.runningStep ctx with
  | some c, some (t, _) =>
    let l := c.stash.map (fun e =>
      if e.place = .spilling && e.size.microBatch = microBatch && e.size.layer = layer then { e with place := .spilled } else e)
    .next (s.setCtx ctx { c with stash := placeWaiting (t.regionBytes - t.stashWork) l })
  | _, _ => .next s

/-- Whether the forward pass of a micro-batch has reached the loss: its top layer's set is placed, or it recomputes. -/
def State.forwardOver (s : State) (c : Ctx) (t : TStep) (i : Nat) : Bool :=
  c.stash.any (fun e => decide (e.size.layer + 1 = s.layers)) || t.recomputed.any (fun r => decide (r.1 = i))

/-- Sets the backward pass has read, and the boundary of a range it has recomputed, are freed from the top until a share fits (R104,
R106). -/
def freeRead (room share above : Nat) : Nat → List StashEntry → Option (List StashEntry)
  | 0, _ => none
  | fuel + 1, l =>
    if tileShare l true + share ≤ room then some l
    else match l.filter (fun e => (decide (e.place = .onTile) || decide (e.place = .boundary)) && decide (above < e.size.layer)) with
      | [] => none
      | x :: xs => freeRead room share above fuel (dropLayer (xs.foldl (fun b y => if b.size.layer < y.size.layer then y else b) x).size.layer l)

/-- The lowest layer among the sets that are gone: how far the backward pass has come down. -/
def lowestGone (old new : List StashEntry) (start : Option Nat) : Option Nat :=
  (old.filter (fun e => new.all (fun x => decide (x.size.layer ≠ e.size.layer)))).foldl (fun b e =>
    some (match b with | some l => min l e.size.layer | none => e.size.layer)) start

/-- STASH_BRING_BACK (R104): the spilled set the backward pass reads next lands on tile once it fits, the sets of the layers
above it having been read, and its spill space is freed; a set of a higher layer that is still being spilled is read first. -/
def execStashBringBack (ctx : Nat) (s : State) : Res :=
  match s.ctx ctx, s.runningStep ctx with
  | some c, some (t, i) =>
    match c.stash.filter (fun e => decide (e.place = .spilled)) with
    | [] => .next s
    | x :: xs =>
      let e := xs.foldl (fun b y => if b.size.layer < y.size.layer then y else b) x
      if !s.forwardOver c t i ||
          c.stash.any (fun y => decide (e.size.layer < y.size.layer) && (decide (y.place = .spilling) || decide (y.place = .waiting))) then .next s
      else match freeRead (t.regionBytes - t.stashWork) e.size.share e.size.layer (c.stash.length + 1) c.stash with
        | none => .next s
        | some l =>
          let s := s.setCtx ctx { c with stash := placeLayer e.size.layer .onTile l }
          .next (s.modStep t.variant t.number (fun t => { t with backAt := lowestGone c.stash l t.backAt }))
  | _, _ => .next s

/-! ## Tile power (R441, R442) -/

/-- Whether a tile runs a unit or a bundle. -/
def State.tileRuns (s : State) (n : Nat) : Bool :=
  s.runningTiles.contains n ||
  s.bundles.any (fun x => match x.running with | some q => decide (n / 16 = q) | none => false)

/-- TILE_NAP_ENTRY (R441): a tile that is IDLE with nothing for it enters NAP. -/
def execTileNapEntry (tile : Nat) (s : State) : Res :=
  let t := s.tile tile
  if s.vacant tile || t.power ≠ .idle || t.queue ≠ [] || t.held.isSome || t.waking || s.tileRuns tile then .next s
  else .next (s.modTile tile (fun t => { t with power := .nap }))

/-- TILE_WAKE_COMPLETE (R441): the tile runs again; its stationary registers and marver buffers read zero. One that is held for another
context than it ran last is then zeroed (R280). -/
def execTileWakeComplete (tile : Nat) (s : State) : Res :=
  let t := s.tile tile
  if t.power = .nap && t.waking then
    .next (State.changeHeld tile (s.modTile tile (fun t =>
      { t with power := if s.tileRuns tile || t.queue ≠ [] then .run else .idle, waking := false, loaded := [], marver := [] })))
  else .next s

end Sys2Proof.Machine
end

