-- ==== Sys2Proof/Machine/Messages.lean ====
section
/-! DEFINITION. REDUCE and ANNOUNCE: the messages of the step transaction, and of contexts, expert tables and base model loads
between members (R73, R127 to R130, R176, R193, R217, R223, R273, R275, R279, R291, R294, R376, R400, R401). -/

namespace Sys2Proof.Machine

/-! ## REDUCE (R127 to R130, R390, R400) -/

/-- What a REDUCE message does here. -/
def State.takeReduce (s : State) (variant src : Nat) : ReduceMsg → State
  | .began n h => s.takeBegan variant n src h
  | .grads n i l => s.takeGrads variant n i l
  | .homeFull n i l => s.takeHomeFull variant n i l
  | .check n bad stats =>
    s.modStep variant n (fun t => if t.leader then { t with checks := t.checks.put src (bad, stats) } else t)
  | .checked n bad stats => s.takeChecked variant n bad stats
  | .copies n l => s.takeCopies variant n l
  | .vote n v l => s.takeVote variant n src v l
  | .flip n => s.takeFlip variant n
  | .abandon n _ => s.takeAbandon variant n
  | .lost n => s.loseStep variant n
  | .headerDone n =>
    (s.modStep variant n (fun t => if t.leader then { t with headers := t.headers ++ [src] } else t)).finishStep variant n
  | .digestsOf n l => s.takeDigests variant n src l
  | .digests n differ => s.takeDiffer variant n src differ
  | .fetch l => s.takeFetch variant src l
  | .fetched l => s.takeFetched variant l

/-- REDUCE (R241). -/
def execReduce (port : Nat) (frame : Frame) (s : State) : Res :=
  s.arrive 3 port frame (fun s =>
    match frame.payload with
    | .reduce variant m => settled (.next (s.takeReduce variant frame.src m))
    | _ => .next s)

/-! ## ANNOUNCE -/

/-- Whether an allocation and a stash region fit at a base on every tile of a group here (R279). -/
def State.fitsAt (s : State) (first size alloc stash base : Nat) : Bool :=
  let l := s.neighbours first size
  decide (base + alloc ≤ 32 - l.foldl (fun m c => max m c.settings.region) stash) &&
  l.all (fun c => decide (c.tileBase + c.settings.tileAlloc ≤ 32 - stash) && !overlaps base alloc c.tileBase c.settings.tileAlloc)

/-- The status with which this member refuses a presence, if it does (R176, R193, R273, R279). -/
def State.presenceRefusal (s : State) (n groupFirst base : Nat) (p : CreateParams) : Option Nat :=
  if s.ctxState n = .destroying then some stBusy
  else if (s.ctx n).isSome then some stTableFull
  else if s.grantTaken (p.variantGrant.getD (0, 0)) || s.slotTaken (p.slotGrant.getD []) then some stNotPermitted
  else if !s.fitsAt groupFirst (p.groupSize.getD 64) (p.tileAlloc.getD 8) (regionOf s.profile p) base then
    some stTableFull
  else none

/-- A context created elsewhere is given its presence here, and the home hears the answer (R273). -/
def State.placePresence (s : State) (src n inc : Nat) (uid : Bytes) (groupFirst base : Nat) (p : CreateParams) : State :=
  let reply (r : Option Nat) (s : State) : State := s.ringSend src 5 n (msgLength 5) (.announce (.placed r))
  match s.presenceRefusal n groupFirst base p with
  | some status => reply (some status) s
  | none =>
    match s.placeExtents (if s.transport then p.extents.getD [] else []) [] with
    | none => reply (some stBusy) s
    | some ext =>
      let st := settingsOf s.profile p groupFirst ext
      let (space, s) := s.needHbm st.hbmPages
      let x := newCtx false inc uid none (p.seed.getD 0) base st none
      match space with
      | some true => reply none (s.setCtx n { x with st := .active })
      | some false => (s.setCtx n x).waitHbm st.hbmPages (.presence n src)
      | none => reply (some stBusy) s

/-- The steps of a context that other members lead end here with its incarnation (R294). -/
def State.dropFollowed (s : State) (n : Nat) : State := { s with steps := s.steps.filter (fun t => t.leader || decide (t.ctx ≠ n)) }

/-- A presence goes with its context (R294 step 5). -/
def State.freePresence (s : State) (n : Nat) : State :=
  match s.ctx n with
  | some c => if c.home then s else (((s.dropFollowed n).clearCtx n).freeCtx n)
  | none => s

/-- A new incarnation of a context homed elsewhere: its bundles and stash values of the one before go (R223, R292). -/
def State.takeIncarnation (s : State) (n inc seed : Nat) : State :=
  match s.ctx n with
  | some c =>
    if c.home then s
    else (((s.dropFollowed n).clearCtx n).zeroCtx c).setCtx n { c with st := .active, incarnation := inc, seed := seed, running := none, stash := [], windows := [] }
  | none => s

/-- An expert table that another member announces, when its epoch is the newer (R217, R319). -/
def State.takeExperts (s : State) (epoch : Nat) (homes : List Nat) : State :=
  if newer 8 epoch s.ring.expertEpoch then
    s.takeExpertTable epoch (s.ring.experts.each (fun e x => if x.kind = 2 then s.rehome e x (homes.getD e x.home) epoch else x))
  else s

/-- The tensors of an expert newly attached take the derived copies in both slots (R195). -/
def Var.attachCopies (v : Var) (slots : List (Option Nat)) (copies : List WorkCopy) : Var :=
  let extras := v.extras.zipIdx.map (fun p => { p.1 with slot := slots.getD p.2 none })
  let isNew (x : Tensor) : Bool :=
    !v.takesPart x.info && extras.any (fun e => decide (e.decl.extraNo = x.info.source) && e.slot.isSome)
  { v.mapTensors (fun i x => match copies[i]? with | some c => if isNew x then { x with slot0 := c, slot1 := c } else x | none => x)
    with extras := extras }

/-- A part of a variant is placed on this member, which owns tensors of it or homes its extra experts: it takes its HBM, and answers
the home; one already here takes what was attached (R116, R183, R194). -/
def State.placePart (s : State) (src ctx id : Nat) (owners : List Nat) (slots : List (Option Nat)) (i : VariantImage) : State :=
  let reply (r : Option Nat) (s : State) : State := s.ringSend src 5 ctx (msgLength 5) (.announce (.partPlaced id r))
  match s.var id with
  | some v =>
    if v.home || v.ctx ≠ ctx then s
    else
      let v := v.attachCopies slots i.copies
      reply none ((s.setVar id v).enterSlots id v)
  | none =>
    let pages := Config.variantHbm i.manifest
    let (page, s) := s.freeNat
    let blank := s.blankVar ctx owners i.sExp.length page
    let v : Var := { (blank.place i) with
      home := false, curSlot := i.curSlot, dirty := false, hbmPages := pages, settings := { i.settings with learn := false },
      extras := i.experts.zipIdx.map (fun p => ⟨p.1, slots.getD p.2 none⟩) }
    let (space, s) := s.needHbm pages
    match space with
    | some true => reply none ((s.setVar id v).enterSlots id v)
    | some false => s.waitHbm pages (.part id src v)
    | none => reply (some stBusy) s

/-- A member has no space for its part: the load ends with its status (R183, R184). -/
def State.partRefused (s : State) (id : Nat) (refusal : Option Nat) : State :=
  match refusal with
  | some st => if s.varState id = .loading then s.failLoad id st (match s.var id with | some v => v.restoreLoses | none => false) else s
  | none => s

/-- A variant leaves this member: its part goes, its steps with it (R182); one that waits for space waits no longer. -/
def State.dropPart (s : State) (id : Nat) : State :=
  let s : State := { s with spaceWaits := s.spaceWaits.filter (fun w => match w.use with | .part v _ _ => decide (v ≠ id) | _ => true) }
  match s.var id with
  | some v =>
    if v.home then s
    else State.becomeFree { s with steps := s.steps.filter (fun t => decide (t.variant ≠ id)) } id
  | none => s

/-- A slot of this member is released: its expert table entry goes (R196). -/
def State.dropSlot (s : State) (id slot : Nat) : State :=
  let s := if slot / 64 = s.pos then s.clearSlot slot else s
  s.modVar id (fun v => { v with extras := v.extras.map (fun e => if e.slot = some slot then { e with slot := none } else e) })

/-- A context homed elsewhere takes a state: no unit of it starts unless it is ACTIVE, and the home of a suspended one is told when none
runs (R275, R291). -/
def State.takeCtxState (s : State) (src n code : Nat) : State :=
  match s.ctx n, ctxStateOf code with
  | some c, some st =>
    if c.home then s else s.setCtx n { c with st := st, awaitQuiet := if st = .suspended then [src] else c.awaitQuiet }
  | none, some .suspended => s.ringSend src 5 n (msgLength 5) (.announce .quiet)
  | _, _ => s

/-- What an ANNOUNCE message does here. A part that is placed is reported by LOAD_PART_PLACED. The home gathers the answers to a creation by CONTEXT_CREATE_COMPLETE. -/
def State.takeAnnounce (s : State) (src ctx : Nat) : AnnounceMsg → State
  | .incarnation inc seed => s.takeIncarnation ctx inc seed
  | .gone => s.freePresence ctx
  | .created inc uid groupFirst base p => s.placePresence src ctx inc uid groupFirst base p
  | .placed _ => s
  | .experts epoch homes => s.takeExperts epoch homes
  | .variant id owners slots i => s.placePart src ctx id owners slots i
  | .partPlaced id r => s.partRefused id r
  | .variantGone id => s.dropPart id
  | .slotGone id slot => s.dropSlot id slot
  | .state code => s.takeCtxState src ctx code
  | .quiet => s.modCtx ctx (fun c => if c.home then { c with awaitQuiet := c.awaitQuiet.filter (fun p => decide (p ≠ src)) } else c)
  | .baseLoad d => { s with base := { s.base with loading := s.base.loading.or (some d) } }

/-- ANNOUNCE (R241). -/
def execAnnounce (port : Nat) (frame : Frame) (s : State) : Res :=
  s.arrive 5 port frame (fun s =>
    match frame.payload with
    | .announce m => settled (.next (s.takeAnnounce frame.src frame.ctx m))
    | _ => .next s)

end Sys2Proof.Machine
end

