-- ==== Sys2Proof/Machine/Members.lean ====
section
/-! DEFINITION. Membership of the ring: roll calls, anchors, joining, leaving and departures (R217, R218, R244, R255 to R267,
R272, R360 to R362, R404). -/

namespace Sys2Proof.Machine

/-! ## The roll call (R255, R256) -/

/-- A VACANT entry. -/
def vacantEntry : RollEntry :=
  { serial := 0, state := 0, grade := 0, layer := 0, expertEpoch := 0, hbmCapacity := 0, hbmFree := 0, estateKeyId := [],
    westRate := 0, eastRate := 0 }

/-- The entry of a position in a roll call. -/
def rollAt (r : RollCall) (p : Nat) : RollEntry := r.entries.getD p vacantEntry

/-- This member's entry with a state (R256): free HBM in units of 64 MiB. -/
def State.ownEntry (s : State) (state : Nat) : RollEntry :=
  { serial := s.fuses.serial, state := state, grade := s.fuses.grade, layer := s.profile.layer, expertEpoch := s.ring.expertEpoch,
    hbmCapacity := hbmGiB s.fuses.grade, hbmFree := s.hbmFree / 1024, estateKeyId := s.estateKeyId,
    westRate := s.rateCode west, eastRate := s.rateCode east }

/-- The state this member announces: JOINING until a published table lists it, LEAVING once it leaves (R256, R262, R265). -/
def State.entryState (s : State) : Nat :=
  match s.ring.st with
  | .leaving => 3
  | .opening _ => 2
  | _ => if s.serialAt s.pos = s.fuses.serial then 1 else 2

/-- Whether this member takes part in roll calls: it is in the ring. -/
def State.inRing (s : State) : Bool :=
  s.board.bypassOpen && (match s.ring.st with | .member => true | .leaving => true | .opening _ => true | _ => false)

/-- Whether this member is the anchor. -/
def State.isAnchor (s : State) : Bool :=
  s.board.bypassOpen && (match s.ring.st with | .member => true | .leaving => true | _ => false) && decide (s.ring.anchor = s.pos)

/-- Whether a ring link carries traffic, now or after its hold. -/
def State.liveLink (s : State) (p : Nat) : Bool := decide ((s.link p).st = .up) || decide ((s.link p).st = .held)

/-- The positions that have joined: MEMBER now, and not the same member before (R255, R262). -/
def joinedIn (old new : RollCall) : List Nat :=
  (List.range 32).filter (fun p => decide ((rollAt new p).state = 1) &&
    !(decide ((rollAt old p).serial = (rollAt new p).serial) && (decide ((rollAt old p).state = 1) || decide ((rollAt old p).state = 3))))

/-- The positions whose member has left or departed (R255, R265, R266). -/
def departedIn (old new : RollCall) : List Nat :=
  (List.range 32).filter (fun p => (decide ((rollAt old p).state = 1) || decide ((rollAt old p).state = 3)) &&
    (decide ((rollAt new p).state = 0) || decide ((rollAt new p).serial ≠ (rollAt old p).serial)))

/-- A roll call with nothing in it. -/
def blankRoll : RollCall :=
  { rollSeq := 0, pass := 2, ringSize := 1, layer := 0, anchor := 0, ringEpoch := 0, baseDigest := List.replicate 48 0,
    entries := List.replicate 32 vacantEntry }

/-- The highest occupied position plus 1 (R255). -/
def sizeOf (l : List RollEntry) : Nat := ((List.range 32).filter (fun p => decide ((l.getD p vacantEntry).state ≠ 0))).foldl (fun _ p => p + 1) 1

/-! ## Taking a published table (R217, R218, R244, R255, R264 to R266, R404) -/

/-- NEIGHBOUR_LEFT for a neighbour whose position has become VACANT: LEAVE when it was leaving, else LOST (R265, R266, R272). -/
def State.neighbourDeparts (s : State) (old : RollEntry) : State :=
  eachDo [west, east] (fun p s =>
    match (s.port p).neighbour with
    | some d => if d.serial = old.serial then s.neighbourLeft p d (if old.state = 3 then 1 else 2) else s
    | none => s) s

/-- Extra-expert slots on a departed member are detached (R196, R404). -/
def State.detachAt (s : State) (p : Nat) : State :=
  { s with vars := s.vars.each (fun _ v =>
      { v with extras := v.extras.map (fun e => if e.slot.map (· / 64) = some p then { e with slot := none } else e),
               releasing := v.releasing.filter (fun r => decide (r.1 / 64 ≠ p)) }) }

/-- What a departed member held (R266, R404): presences homed on it, variants with an owner on it, slots on it, streams that
crossed it, and the pairs with its position (R244). -/
def State.memberDeparts (s : State) (p : Nat) (old : RollEntry) : State :=
  let s := s.neighbourDeparts old
  let homed := (s.ctxs.keep (fun _ c => !c.home && decide (leNat (c.uid.take 8) = old.serial))).keys
  let s := eachDo homed (fun n s => s.freePresence n) s
  let owned := (s.vars.keep (fun _ v => v.home && v.owners.contains p)).keys
  let s := eachDo owned (fun v s => s.loseVariant v) s
  let s := s.detachAt p
  let s := eachDo [west, east] (fun q s => if partnerPos (s.link q) = p then s.endRingStreams q (fun _ => true) else s) s
  s.modRing (fun r => { r with e2eTx := r.e2eTx.del p, e2eRx := (r.e2eRx.del p).del (bcastPair + p) })

/-- The pairs of a joiner restart; those of this member all do when it is the joiner (R244). -/
def State.restartPairs (s : State) (p : Nat) : State :=
  s.modRing (fun r =>
    if p = s.pos then { r with e2eTx := [], e2eRx := [] }
    else { r with e2eTx := r.e2eTx.del p, e2eRx := (r.e2eRx.del p).del (bcastPair + p) })

/-- The remaining member with the most free HBM, the lowest position on ties, among those with space (R217, R218): `free` is the free HBM
of each member, in bytes. -/
def roomiest (size : Nat) (free : List (Nat × Nat)) : Option Nat :=
  match free.filter (fun x => decide (size ≤ x.2) && decide (0 < x.2)) with
  | [] => none
  | x :: xs => some (xs.foldl (fun b y => if b.2 < y.2 then y else b) x).1

/-- New homes for experts in ascending number, each taking the free HBM it needs (R217, assumption log 164). -/
def newHomes (size : Nat) : List Nat → List (Nat × Nat) → List (Nat × Option Nat)
  | [], _ => []
  | e :: es, free =>
    let home := roomiest size free
    (e, home) :: newHomes size es (free.map (fun x => if some x.1 = home then (x.1, x.2 - size) else x))

/-- The free HBM each remaining member announces, in bytes, in ascending position (R256), less what moving experts will take. -/
def State.freeAt (s : State) (r : RollCall) (size : Nat) : List (Nat × Nat) :=
  ((List.range 32).filter (fun p => decide ((rollAt r p).state = 1))).map (fun p =>
    (p, (rollAt r p).hbmFree * 0x4000000 - (s.ring.moving.filter (fun m => decide (m.2 = p))).length * size))

/-- An expert no member has space for: every use that needs it ends (R218). -/
def State.loseExpert (s : State) (e : Nat) : State :=
  let s := s.modRing (fun r => { r with experts := r.experts.del e })
  let s := eachDo s.ctxs.keys (fun n s => eachDo (List.range s.layers) (fun l s => s.sendExpert n l e) s) s
  let s := s.eachStep (fun t => t.leader && (decide (t.phase = .waiting) || decide (t.phase = .run)))
    (fun v n s => s.endStepSoon v n stTaskAborted)
  s.raiseDegraded 2 e

/-- The routed experts homed on positions that are gone, in ascending number. -/
def State.expertsAt (s : State) (gone : List Nat) : List Nat :=
  ((s.ring.experts.keep (fun n x => decide (n < 512) && decide (x.kind = 2) && gone.contains x.home)).keys).filter
    (fun e => !s.moving e)

/-- A re-placement starts (R217): each routed expert whose home goes is given a new one, which reads it from the base model's image. -/
def State.replaceExperts (s : State) (r : RollCall) (gone : List Nat) : State :=
  let s := s.modRing (fun g => { g with moving := g.moving.filter (fun m => !gone.contains m.2) })
  let size := match s.base.shape with | some b => expertBytes b | none => 0
  let l := newHomes size (s.expertsAt gone) (s.freeAt r size)
  let s := s.modRing (fun g => { g with moving := g.moving ++ l.filterMap (fun x => x.2.map (fun p => (x.1, p))) })
  let s := match s.base.image with
    | some i => eachDo (l.filter (fun x => decide (x.2 = some s.pos))) (fun _ s => s.emit (.hostRead i 0)) s
    | none => s
  eachDo ((l.filter (fun x => x.2.isNone)).map (fun x => x.1)) (fun e s => s.loseExpert e) s

/-- Steps whose expert values stood at a departed home run again, and the micro-batches of them that run are stopped (R218). -/
def State.loseStashed (s : State) (had : Bool) : State :=
  if had then
    let busy := (s.ctxs.keep (fun _ c => match c.running with | some ⟨.micro _ _ _, _⟩ => true | _ => false)).keys
    (eachDo busy (fun n s => s.rerunUnit n) s).rerunSteps (fun t => decide (t.phase = .run))
  else s

/-- The joiner is a MEMBER: BYPASS_OPENED, and its RING_JOIN is answered (R262 step 8, R272, R360). -/
def State.becomeMember (s : State) : State :=
  let t := s.ring.joinTicket
  let s := s.modRing (fun r => { r with st := .member, joinTicket := none, joinImage := none, heard := none })
  let s := s.raiseFor evBypassOpened (causeOf t) [p32 0x90 s.ring.ringEpoch]
  match t with | some t => s.answerWith t stOk [p8 0x81 s.pos, p32 0x82 s.ring.ringEpoch] | none => s

/-- The contexts whose units await an answer that comes past a position (R266). -/
def State.crossedBy (s : State) (p : Nat) : List Nat :=
  (s.ctxs.keep (fun _ c => (s.awaitedHomes c).any (fun h =>
    decide (h ≠ p) && (s.walk (s.portTo h) (s.distance (s.portTo h) s.pos h)).contains p))).keys

/-- Every member takes the published table (R256), with the joins, leaves and departures it reports. -/
def State.takeTable (s : State) (r : RollCall) : State :=
  let old := s.ring.table.getD blankRoll
  let departed := (departedIn old r).filter (fun p => decide (p ≠ s.pos))
  let crossed := (departed.flatMap s.crossedBy).dedup
  let s := s.modRing (fun g =>
    { g with table := some r, ringEpoch := r.ringEpoch, anchor := r.anchor, rollSeq := r.rollSeq, collectOut := false, backoff := false })
  let s := eachDo departed (fun p s => s.memberDeparts p (rollAt old p)) s
  let s := eachDo crossed (fun c s => s.endAnswers c stLinkDown) s
  let s := eachDo (joinedIn old r) (fun p s => s.restartPairs p) s
  let had := decide (s.expertsAt departed ≠ [])
  let leaving := (List.range 32).filter (fun p => decide ((rollAt r p).state = 3))
  let s := (s.replaceExperts r (departed ++ leaving)).loseStashed had
  match s.ring.st with
  | .opening p => if (rollAt r p).state = 1 && decide ((rollAt r p).serial = s.fuses.serial) then s.becomeMember else s
  | _ => s

/-! ## The anchor (R255 to R257) -/

/-- The table the anchor publishes from a collected one: a member that was JOINING already becomes MEMBER, and the ring epoch
rises with each join, leave or departure (R255, R256, R262). -/
def State.publishedTable (s : State) (r : RollCall) : RollCall :=
  let old := s.ring.table.getD blankRoll
  let entries := (List.range 32).map (fun p =>
    let e := rollAt r p
    if e.state = 2 && decide ((rollAt old p).state = 2) && decide ((rollAt old p).serial = e.serial) then { e with state := 1 } else e)
  let q : RollCall := { r with pass := 2, entries := entries, ringSize := sizeOf entries, anchor := s.pos }
  { q with ringEpoch := (s.ring.ringEpoch + (joinedIn old q).length + (departedIn old q).length) % 2 ^ 32 }

/-- The anchor publishes (R256): it takes the table itself and broadcasts it. -/
def State.publish (s : State) (r : RollCall) : State :=
  let q := s.publishedTable r
  (s.takeTable q).ringBroadcast 4 0 2112 (.roll q)

/-- The anchor issues a roll call with the next roll_seq (R256): eastbound, or west of a break; alone it publishes at once. -/
def State.issueRoll (s : State) : State :=
  let r : RollCall :=
    { rollSeq := (s.ring.rollSeq + 1) % 2 ^ 32, pass := 1, ringSize := s.ringSize, layer := s.profile.layer, anchor := s.pos,
      ringEpoch := s.ring.ringEpoch, baseDigest := s.baseDigest,
      entries := (List.replicate 32 vacantEntry).set s.pos (s.ownEntry s.entryState) }
  let s := s.modRing (fun g => { g with rollSeq := r.rollSeq, collectOut := true, anchor := s.pos })
  if !s.liveLink east && !s.liveLink west then s.publish r
  else
    let (n, s) := s.nextE2e s.pos
    s.enqueue (if s.liveLink east then east else west) (s.newFrame 4 false s.pos 0 0 2112 n (.roll r))

/-- ROLL_CALL_TIMER (R256). -/
def execRollCallTimer (s : State) : Res := settled (.next (if s.isAnchor then s.issueRoll else s))

/-- COLLECT_PASS_TIMEOUT (R256, R267): issued again with the next roll_seq. -/
def execCollectPassTimeout (s : State) : Res := settled (.next (if s.isAnchor && s.ring.collectOut then s.issueRoll else s))

/-- ANCHOR_LOST (R257): the wait by serial begins. -/
def execAnchorLost (s : State) : Res :=
  match s.ring.st with
  | .member => .next (if s.ring.anchor = s.pos then s else s.modRing (fun r => { r with backoff := true }))
  | _ => .next s

/-- NO_RING_TIMEOUT (R262): a joiner that heard no roll call waits by its serial. -/
def execNoRingTimeout (s : State) : Res :=
  if s.ring.st = .listening && s.ring.heard.isNone then .next (s.modRing (fun r => { r with backoff := true })) else .next s

/-- The bypass begins to open for a position (R260, R262 step 7). -/
def State.openBypass (s : State) (p : Nat) : State :=
  (s.modRing (fun r => { r with st := .opening p, backoff := false })).modBoard (fun b => { b with bypassMoving := some true })

/-- ANCHOR_BACKOFF_EXPIRY (R257, R262): a member issues a roll call as anchor, keeping its position; a joiner opens its bypass
to become anchor at position 0. -/
def execAnchorBackoffExpiry (s : State) : Res :=
  if !s.ring.backoff then .next s
  else match s.ring.st with
    | .member => settled (.next ((s.modRing (fun r => { r with backoff := false, anchor := s.pos })).issueRoll))
    | .listening => .next (s.openBypass 0)
    | _ => .next s

/-! ## ROLL_CALL_COLLECT (R256, R257, R262, R264) -/

/-- The position a joiner takes (R262 step 4): the first VACANT one going east from P before Q, else the ring size when Q is
position 0. -/
def chooseIn (r : RollCall) (p q : Nat) : Option Nat :=
  let n := r.ringSize
  match ((List.range ((q + n - p % n - 1) % n)).map (fun i => (p + 1 + i) % n)).find? (fun x => decide ((rollAt r x).state = 0)) with
  | some x => some x
  | none => if q = 0 && n < 32 then some n else none

/-- A collect pass goes on: out of the other port, or back where the ring is broken (R256, R264). -/
def State.passOn (s : State) (p : Nat) (f : Frame) : State :=
  s.enqueue (if s.liveLink (otherPort p) then otherPort p else p) { f with hops := (f.hops + 1) % 32 }

/-- A member writes its entry and passes the roll call on (R256). -/
def State.writeEntry (s : State) (p : Nat) (f : Frame) (r : RollCall) : State :=
  let q : RollCall := { r with entries := r.entries.set s.pos (s.ownEntry s.entryState) }
  (s.modRing (fun g => { g with backoff := false })).passOn p { f with payload := .roll q }

/-- An anchor yields to one of lower serial (R257); at the same position it takes another by step 4 of R262. -/
def State.yieldAnchor (s : State) (r : RollCall) : State :=
  s.modRing (fun g =>
    { g with
      collectOut := false, anchor := r.anchor,
      position := if r.anchor = s.pos then some ((chooseIn r r.anchor r.anchor).getD s.pos) else g.position })

/-- The anchor's own pass comes back: from the west it has seen every member; from the east, on a chain, the members west of
here are still to come (R256, R264). -/
def State.passReturns (s : State) (p : Nat) (f : Frame) (r : RollCall) : State :=
  if !s.ring.collectOut || decide (r.rollSeq ≠ s.ring.rollSeq) then s
  else if p = east && s.liveLink west then s.enqueue west { f with hops := 0 }
  else s.publish r

/-- Why this module may not be in a ring: 1 layer, 2 base digest, 3 estate (R21, R263). -/
def State.ringMismatch (s : State) (r : RollCall) : Option Nat :=
  if r.layer ≠ s.profile.layer then some 1
  else if s.baseDigest ≠ r.baseDigest then some 2
  else if r.entries.any (fun e => decide (e.state ≠ 0) && decide (e.estateKeyId ≠ s.estateKeyId)) then some 3
  else none

/-- An anchor of lower serial whose ring this module may not be in: it is not followed, the refusal is counted, and the module goes out of
the ring (R21, R263, DEDUCED, assumption log 158). -/
def State.refuseYield (s : State) : State :=
  ((s.countError cJoinRefusals 1).modRing (fun r => { r with st := .closing, collectOut := false })).modBoard
    (fun b => { b with bypassMoving := some false })

/-- What a collect pass does at a member of the ring. -/
def State.takeCollect (s : State) (p : Nat) (f : Frame) (r : RollCall) : State :=
  let other := (rollAt r r.anchor).serial
  if s.isAnchor then
    if other = s.fuses.serial then s.passReturns p f r
    else if other < s.fuses.serial then
      if (s.ringMismatch r).isSome then s.refuseYield else (s.yieldAnchor r).writeEntry p f r
    else s
  else s.writeEntry p f r

/-- ROLL_CALL_COLLECT (R256). -/
def execRollCallCollect (port : Nat) (frame : Frame) (s : State) : Res :=
  match frame.payload with
  | .roll r =>
    if !s.ringPort port || decide (frame.msgType ≠ 4) || frame.bcast || decide (r.pass ≠ 1) then .next s
    else
      let s := s.tap port frame
      let (ok, s) := s.accept port frame
      if !ok then .next s
      else
        let s := if frame.dst = s.pos then s.freeLocal port frame else s.freePassing port ⟨frame, s.sliceFor port frame⟩
        settled (.next (if s.inRing then s.takeCollect port frame r else s))
  | _ => .next s

/-! ## ROLL_CALL_PUBLISH, and what a joiner hears (R256, R262, R263, R361) -/

/-- Whether the ring carries a base model that this module has not loaded (R361). -/
def State.needsBase (s : State) (r : RollCall) : Bool :=
  s.base.shape.isNone && decide (r.baseDigest ≠ List.replicate 48 0)

/-- Why a joiner is not admitted (R263, R360): 1 layer, 2 base digest, 3 estate, 4 already listed, 5 no position. -/
def State.joinCause (s : State) (r : RollCall) (p q : Nat) : Option Nat :=
  if r.layer ≠ s.profile.layer then some 1
  else if s.base.shape.isSome && decide (s.baseDigest ≠ r.baseDigest) then some 2
  else if s.needsBase r && s.ring.joinTicket.isSome && s.ring.joinImage.isNone then some 2
  else if r.entries.any (fun e => decide (e.state ≠ 0) && decide (e.estateKeyId ≠ s.estateKeyId)) then some 3
  else if r.entries.any (fun e => decide (e.state ≠ 0) && decide (e.serial = s.fuses.serial)) then some 4
  else if (chooseIn r p q).isNone then some 5
  else none

/-- A refusal is counted, and the RING_JOIN answered with its cause (R262 step 3, R360). -/
def State.refuseJoin (s : State) (cause : Nat) : State :=
  (s.countError cJoinRefusals 1).failJoin stNotPermitted [p8 0x83 cause]

/-- The base model's shared layers are read from the image given with RING_JOIN (R262 step 5, R375). -/
def State.beginJoinLoad (s : State) (r : RollCall) : State :=
  if s.needsBase r && s.base.loading.isNone && s.ring.joinImage.isSome then
    { s with base := { s.base with loading := some r.baseDigest, image := s.ring.joinImage } }
  else s

/-- Steps 2 to 5 of R262: with both neighbours and the ring known, the joiner is admitted to a position or refused. -/
def State.tryAdmit (s : State) : State :=
  match s.ring.heard, s.ring.hearWest, s.ring.hearEast with
  | some r, some p, some q =>
    match s.joinCause r p q with
    | some cause => s.refuseJoin cause
    | none =>
      let quiet := match s.ring.st with | .admitted _ => s.ring.quietPasses | _ => 0
      (s.modRing (fun g => { g with st := .admitted ((chooseIn r p q).getD 0), quietPasses := quiet })).beginJoinLoad r
  | _, _, _ => s

/-- A published roll call heard on a tap (R262 steps 2 to 6). -/
def State.hearRoll (s : State) (p : Nat) (f : Frame) (r : RollCall) : State :=
  let quiet := !r.entries.any (fun e => decide (e.state = 2) || decide (e.state = 3))
  let s := (s.tap p f).modRing (fun g =>
    { g with
      heard := some r, backoff := false, lastEpochHeard := some r.ringEpoch,
      quietPasses := if !quiet then 0 else if g.lastEpochHeard = some r.ringEpoch then g.quietPasses + 1 else 1 })
  s.tryAdmit

/-- Whether the module listens on its taps. -/
def State.listens (s : State) : Bool :=
  !s.board.bypassOpen && (match s.ring.st with | .listening => true | .admitted _ => true | _ => false)

/-- ROLL_CALL_PUBLISH (R256). An anchor of lower serial does not follow another (R257). -/
def execRollCallPublish (port : Nat) (frame : Frame) (s : State) : Res :=
  match frame.payload with
  | .roll r =>
    if !s.ringPort port || !frame.bcast || decide (frame.msgType ≠ 4) || decide (r.pass ≠ 2) then .next s
    else if s.listens then settled (.next (if frame.fecOk then s.hearRoll port frame r else s))
    else s.arrive 4 port frame (fun s =>
      if !s.inRing || (s.isAnchor && decide (s.fuses.serial < (rollAt r r.anchor).serial)) then .next s
      else started (.next (s.takeTable r)))
  | _ => .next s

/-! ## Joining and leaving (R262, R265, R267, R360 to R362) -/

/-- Whether the base model is as the ring's (R262 step 5). -/
def State.baseReady (s : State) : Bool :=
  match s.ring.heard with
  | some r => !s.needsBase r
  | none => true

/-- Why a joiner that was admitted may not join after all: what R263 asks must hold still, the base model loaded since among it (R21). -/
def State.admittedCause (s : State) : Option Nat :=
  match s.ring.heard, s.ring.hearWest, s.ring.hearEast with
  | some r, some p, some q => s.joinCause r p q
  | _, _, _ => none

/-- JOIN_QUIET_PASSES (R262 steps 6 and 7). -/
def execJoinQuietPasses (s : State) : Res :=
  match s.ring.st with
  | .admitted p =>
    if 2 ≤ s.ring.quietPasses && s.baseReady && s.board.bypassMoving.isNone then
      match s.admittedCause with
      | some cause => .next (s.refuseJoin cause)
      | none => .next (s.openBypass p)
    else .next s
  | _ => .next s

/-- The first member of a ring: anchor at position 0, its table its own (R255, R262). -/
def State.foundRing (s : State) : State :=
  let s := s.modRing (fun r =>
    { r with position := some 0, anchor := 0, ringEpoch := (r.ringEpoch + 1) % 2 ^ 32, rollSeq := (r.rollSeq + 1) % 2 ^ 32,
             e2eTx := [], e2eRx := [] })
  let t : RollCall :=
    { rollSeq := s.ring.rollSeq, pass := 2, ringSize := 1, layer := s.profile.layer, anchor := 0, ringEpoch := s.ring.ringEpoch,
      baseDigest := s.baseDigest, entries := (List.replicate 32 vacantEntry).set 0 (s.ownEntry 1) }
  (s.modRing (fun r => { r with table := some t })).becomeMember

/-- The switches are open: the joiner is at its position, or has founded a ring (R260, R262). -/
def State.bypassOpened (s : State) : State :=
  let s := s.modBoard (fun b => { b with bypassOpen := true, bypassMoving := none })
  match s.ring.st with
  | .opening p =>
    match s.ring.heard with
    | none => s.foundRing
    | some r => s.modRing (fun g => { g with position := some p, table := some r, anchor := r.anchor, ringEpoch := r.ringEpoch })
  | _ => s

/-- The module is out of the ring: no position, no table, its links dark. -/
def State.outOfRing (s : State) : State :=
  { s with
    links := s.links.each (fun _ l => { Link.reset with stored := l.stored, keys := l.keys, lanes := l.lanes, taps := l.taps }),
    ring := { s.ring with
      st := .out, position := none, table := none, heard := none, collectOut := false, backoff := false, quietPasses := 0,
      moving := [], joinTicket := none, leaveTicket := none, joinImage := none, hearWest := none, hearEast := none } }

/-- The switches are closed. After RING_LEAVE: BYPASS_CLOSED, and the command is answered (R265 step 4, R272, R362). -/
def State.bypassClosed (s : State) : State :=
  let s := s.modBoard (fun b => { b with bypassOpen := false, bypassMoving := none })
  match s.ring.st with
  | .closing =>
    let t := s.ring.leaveTicket
    let e := (s.ring.ringEpoch + 1) % 2 ^ 32
    let s := (s.outOfRing).modRing (fun r => { r with ringEpoch := e })
    let s := s.raiseFor evBypassClosed (causeOf t) [p32 0x90 e]
    match t with | some t => s.answerWith t stOk [p32 0x81 e] | none => s
  | .listening => s
  | .admitted _ => s
  | _ => s.outOfRing

/-- BYPASS_SETTLED (R260, R470). -/
def execBypassSettled (s : State) : Res :=
  match s.board.bypassMoving with
  | some true => settled (.next s.bypassOpened)
  | some false => settled (.next s.bypassClosed)
  | none => .next s

/-- Whether nothing of this module's waits on a ring port (R265 step 2). -/
def State.portDrained (s : State) (p : Nat) : Bool :=
  let l := s.link p
  decide (l.sendQueue = []) && decide (l.replay = []) && decide (l.localPool = []) && decide (l.passing = [])

/-- LEAVE_DRAINED (R265 step 3): listed as LEAVING, its experts re-placed, its queues empty. -/
def execLeaveDrained (s : State) : Res :=
  let listed := match s.entryAt s.pos with | some e => decide (e.state = 3) | none => false
  if s.ring.st = .leaving && listed && s.ring.moving = [] && s.portDrained west && s.portDrained east && s.bundles = [] then
    .next ((s.modRing (fun r => { r with st := .closing })).modBoard (fun b => { b with bypassMoving := some false }))
  else .next s

/-- The join procedure begins: loopback training and listening (R262). -/
def State.beginJoin (s : State) (t : Option Ticket) (image : Option Region) : State :=
  let s := eachDo [west, east] (fun p s => s.modLink p (fun l => { l with stored := true })) s
  s.modRing (fun r =>
    { r with st := .listening, joinTicket := t, joinImage := image, heard := none, hearWest := none, hearEast := none,
             quietPasses := 0, lastEpochHeard := none, backoff := false })

/-- RING_JOIN (R262, R267, R360, R361): it takes up a join that start-up left waiting for a base image. -/
def execRingJoin (c : Cmd) (baseImage : Option Region) (s : State) : Res :=
  gaffer opRingJoin c (fun t s =>
    if (match baseImage with | some r => !r.aligned | none => false) then .next (s.answer t stNotPermitted)
    else if !s.ringRoles then .next (s.answerWith t stNotPermitted [p8 0x83 6])
    else match s.ring.st with
      | .member => .next (s.answerWith t stOk [p8 0x81 s.pos, p32 0x82 s.ring.ringEpoch])
      | .out => .next (if s.board.bypassMoving.isNone && !s.board.bypassOpen then s.beginJoin (some t) baseImage else s.answer t stBusy)
      | .listening | .admitted _ =>
        if s.ring.joinTicket.isSome then .next (s.answer t stBusy)
        else settled (.next ((s.modRing (fun r => { r with joinTicket := some t, joinImage := baseImage })).tryAdmit))
      | _ => .next (s.answer t stBusy)) s

/-- Whether a RING_LEAVE must wait: a context is homed here, or a variant has a part here that is not ABSENT (R265). -/
def State.mayLeave (s : State) : Bool :=
  !s.ctxs.vals.any (fun x => x.home) && !s.vars.vals.any (fun v => decide (v.st ≠ .absent) && decide (v.st ≠ .free))

/-- RING_LEAVE (R265, R267, R362). -/
def execRingLeave (c : Cmd) (s : State) : Res :=
  gaffer opRingLeave c (fun t s =>
    if s.ring.st = .member && s.mayLeave then .next (s.modRing (fun r => { r with st := .leaving, leaveTicket := some t }))
    else .next (s.answer t stBusy)) s

end Sys2Proof.Machine
end

