-- ==== Sys2Proof/Machine/Base.lean ====
section
/-! DEFINITION. The base model on this member: BASE_LOAD, its completion, and where the routed experts have their homes (R215 to R217,
R375, R376). -/

namespace Sys2Proof.Machine

/-! ## Placement (R216) -/

/-- The HBM capacity of each position in a roll call; a VACANT one has none. -/
def capsIn (r : RollCall) : List Nat :=
  (List.range (max r.ringSize 1)).map (fun p => if (rollAt r p).state = 0 then 0 else (rollAt r p).hbmCapacity)

/-- One more to each position with capacity, in ascending position, until none is left. -/
def spread : Nat → List (Nat × Nat) → List Nat
  | _, [] => []
  | left, (cap, q) :: t => if 0 < cap && 0 < left then (q + 1) :: spread (left - 1) t else q :: spread left t

/-- The number of routed experts each position homes. -/
def quotas (experts : Nat) (caps : List Nat) : List Nat :=
  let base := caps.map (fun c => experts * c / caps.sum)
  spread (experts - base.sum) (caps.zip base)

/-- The next position from `p` on that holds fewer than its quota. -/
def nextHome (quota held : List Nat) : Nat → Nat → Nat
  | 0, p => p
  | fuel + 1, p =>
    if held.getD p 0 = quota.getD p 0 then nextHome quota held fuel ((p + 1) % max quota.length 1) else p

/-- The homes of experts dealt round the ring. -/
def dealHomes (quota : List Nat) : Nat → Nat → List Nat → List Nat
  | 0, _, _ => []
  | n + 1, p, held =>
    let h := nextHome quota held quota.length p
    h :: dealHomes quota n ((h + 1) % max quota.length 1) (held.set h (held.getD h 0 + 1))

/-- The computed placement (R216). -/
def computedHomes (experts : Nat) (caps : List Nat) : List Nat :=
  let q := quotas experts caps
  dealHomes q experts 0 (q.map (fun _ => 0))

/-- The capacities the placement is computed from: the roll call's; a joiner's, of the ring it heard; alone, its own. -/
def State.placementCaps (s : State) : List Nat :=
  match s.ring.table, s.ring.heard with
  | some r, _ => capsIn r
  | none, some r => capsIn r
  | none, none => [hbmGiB s.fuses.grade]

/-- The homes of the routed experts: those a placement names, else the computed ones (R216). -/
def State.homesOf (s : State) (b : BaseShape) : List Nat := s.base.placement.getD (computedHomes b.routed s.placementCaps)

/-- Whether a placement gives each routed expert one home among the members (R216). -/
def State.placementOk (s : State) (b : BaseShape) : Bool :=
  match s.base.placement with
  | some l => decide (l.length = b.routed) && l.all (fun p => decide (0 < s.placementCaps.getD p 0))
  | none => true

/-- This member's position as the table names it: a joiner's is the one it is admitted to. -/
def State.loadPos (s : State) : Nat := match s.ring.st with | .admitted p => p | _ => s.pos

/-- Whether a join waits for this load (R262 step 5). -/
def State.joinLoads (s : State) : Bool :=
  match s.ring.st with | .admitted _ => decide (s.base.tickets = []) && s.ring.joinImage.isSome | _ => false

/-- The epoch of the expert table after a load: 0, or for a joiner the ring's (R217, R256). -/
def State.loadEpoch (s : State) : Nat :=
  match s.ring.heard with
  | some r => if s.joinLoads then (rollAt r r.anchor).expertEpoch else 0
  | none => 0

/-- The expert table entry of a base expert (R215): the page of its weights is the module's own choice, and free. -/
def State.baseEntry (s : State) (e home kind : Nat) : ExpertEntry :=
  { kind := kind, isLocal := decide (home = s.loadPos), home := home, ctx := 0, variant := 0, extraNo := 0, expert := e,
    weightsPage := if home = s.loadPos then (Config.freeWord s.freeCount e).toNat else 0, epoch := s.loadEpoch }

/-- The expert table of a base model (R215, R216). -/
def State.baseTable (s : State) (b : BaseShape) : Tab ExpertEntry :=
  (s.homesOf b).zipIdx.map (fun x => (x.2, s.baseEntry x.2 x.1 2)) ++
  (List.range b.shared).map (fun i => (b.routed + i, s.baseEntry (b.routed + i) s.loadPos 1))

/-! ## BASE_LOAD (R375, R376) -/

/-- A load begins on this member: the first to take it announces the digest (R376). -/
def State.beginBaseLoad (s : State) (t : Ticket) (image : Region) (digest : Bytes) (placement : Option (List Nat))
    (range : Option (Nat × Nat)) : State :=
  let first := s.base.loading.isNone
  let base : Base :=
    { s.base with loading := some digest, tickets := [t], image := some image, placement := placement, range := range }
  let s : State := { s with base := base }
  let s := if first then s.ringBroadcast 5 0xFFFF (msgLength 5) (.announce (.baseLoad digest)) else s
  s.emit (.hostRead image 0)

/-- BASE_LOAD (R375): BUSY with any context, or beside a load of another digest; one of the same digest joins the load under way. -/
def execBaseLoad (c : Cmd) (image : Region) (digest : Bytes) (placement : Option (List Nat)) (range : Option (Nat × Nat))
    (s : State) : Res :=
  gaffer opBaseLoad c (fun t s =>
    if s.ctxs ≠ [] then .next (s.answer t stBusy)
    else match s.base.loading with
      | none => if image.aligned then .next (s.beginBaseLoad t image digest placement range) else .next (s.answer t stNotPermitted)
      | some d =>
        if d ≠ digest then .next (s.answer t stBusy)
        else if s.base.tickets = [] then
          if image.aligned then .next (s.beginBaseLoad t image digest placement range) else .next (s.answer t stNotPermitted)
        else .next { s with base := { s.base with tickets := s.base.tickets ++ [t] } }) s

/-! ## BASE_LOAD_COMPLETE (R376) -/

/-- A load ends without a base model. -/
def State.failBaseLoad (s : State) (status : Nat) : State :=
  let ts := s.base.tickets
  let join := s.joinLoads
  let s : State := { s with base := { s.base with loading := none, tickets := [], placement := none, range := none } }
  let s := s.answerAll ts status
  if join then s.refuseJoin 2 else s

/-- Bytes of the range to place: what the load names, else the whole image (R376). -/
def State.baseRange (s : State) : Nat :=
  match s.base.range with
  | some r => r.2
  | none => (match s.base.image with | some i => i.pages * 65536 | none => 0)

/-- The base extent of transport mode, where it fits: the lowest place clear of every other extent (assumption log 31). -/
def State.placeBaseExtent (s : State) : Option (Nat × Nat) :=
  let size := (s.baseRange + mib64 - 1) / mib64 * mib64
  let used := s.ctxs.vals.flatMap (fun c => c.settings.extents)
  let all := (hbmBase, 65536 * moduleAreaPages) :: (used ++ s.hbmRetired.map (fun p => (hbmBase + 65536 * p, 65536)))
  (gapAt all size (hbmEnd s.fuses.grade) (all.length + 1) hbmBase).map (fun a => (a, size))

/-- The pages a base model takes here, and its extent; none when it does not fit. -/
def State.fitBase (s : State) (b : BaseShape) : Option (Nat × Option (Nat × Nat)) :=
  if s.transport then
    match s.placeBaseExtent with
    | some x => if x.2 / 65536 ≤ s.hbmFree + s.base.pages then some (x.2 / 65536, some x) else none
    | none => none
  else if b.sharePages ≤ s.hbmFree + s.base.pages then some (b.sharePages, none)
  else none

/-- The base model is placed: it replaces any before it, its expert table begins, and every BASE_LOAD is answered (R217,
R375, R376). -/
def State.placeBase (s : State) (b : BaseShape) (pages : Nat) (extent : Option (Nat × Nat)) : State :=
  let ts := s.base.tickets
  let table := if s.transport then [] else s.baseTable b
  let mem := match s.base.extent with | some x => zeroRange s.mem x.1 x.2 | none => s.mem
  let mem := match extent with | some x => writeBytes mem x.1 (b.rangeBytes.take s.baseRange) | none => mem
  let base : Base :=
    { s.base with
      shape := some b, loading := none, tickets := [], placement := none, range := none, extent := extent, pages := pages }
  let s : State :=
    { s with base := base, mem := mem, hbmFree := s.hbmFree + s.base.pages - pages, freeCount := s.freeCount + 1,
             ring := { s.ring with experts := table, expertEpoch := s.loadEpoch, moving := [] } }
  eachDo ts (fun t s => s.answerWith t stOk ([p8 0x81 0] ++ (match extent with | some x => [p64 0x82 x.1] | none => []))) s

/-- BASE_LOAD_COMPLETE (R376): every member has its share, or this one's reading or checks have failed. -/
def execBaseLoadComplete (result : ReadResult BaseShape) (s : State) : Res :=
  match s.base.loading with
  | none => .next s
  | some d =>
    if s.base.tickets = [] && !s.joinLoads then .next s
    else match result with
      | .data b =>
        if b.digest ≠ d || !s.placementOk b then settled (.next (s.failBaseLoad stNotPermitted))
        else match s.fitBase b with
          | none => settled (.next (s.failBaseLoad stNotPermitted))
          | some (pages, extent) => settled (.next (s.placeBase b pages extent))
      | .error => settled (.next (s.failBaseLoad stStreamStall))
      | .stalled => settled (.next (s.failBaseLoad stStreamStall))

end Sys2Proof.Machine
end

