-- ==== Sys2Proof/Machine/Fabric.lean ====
section
/-! DEFINITION. Fabric ports: receive buffers and pause, congestion, connections, errors, inbound RDMA and the status window
(R154 to R156, R234 to R237, R254, R279, R308). -/

namespace Sys2Proof.Machine

/-! ## Receiving (R234 to R236) -/

/-- The two lossless priorities (R235). -/
def State.lossless (s : State) (k : Nat) : Bool := decide (k = s.profile.cmdPriority) || decide (k = s.profile.bulkPriority)

/-- Whether a fabric port takes a frame: of 64 to 9,216 bytes, one tag at most, and supported (R234). -/
def frameOk (f : RoceFrame) : Bool := decide (64 ≤ f.length) && decide (f.length ≤ 9216) && decide (f.tags ≤ 1) && f.supported

/-- The priority of a frame: its tag's PCP, or its DSCP under the profile's map (R234). -/
def State.priorityOf (s : State) (f : RoceFrame) : Nat := if f.tags = 0 then s.profile.dscp.getD (f.dscp % 64) 0 else f.priority

/-- Whether a frame finds room: each lossless priority has 1 MiB (R235). -/
def State.rxRoom (s : State) (p : Nat) (f : RoceFrame) : Bool :=
  !s.lossless (s.priorityOf f) || decide ((s.port p).used (s.priorityOf f) + f.length ≤ 1048576)

/-- XOFF for a priority when 768 KiB are in use (R235). -/
def State.sendXoff (s : State) (p k : Nat) : State :=
  if 786432 ≤ (s.port p).used k && !(s.port p).xoffSent.contains k then
    (s.modPort p (fun q => { q with xoffSent := q.xoffSent ++ [k] })).emit (.pfc p k true)
  else s

/-- A frame of a lossless priority for a live queue pair enters its receive buffer. -/
def State.bufferFrame (s : State) (p : Nat) (f : RoceFrame) : State :=
  match s.qps.find f.qp with
  | some q =>
    if q.port = p && q.st ≠ .error && s.lossless (s.priorityOf f) then
      (s.modPort p (fun k => { k with rx := k.rx ++ [⟨s.priorityOf f, f.qp, f.length⟩] })).sendXoff p (s.priorityOf f)
    else s
  | none => s

/-- A CNP for a packet marked CE of a live queue pair (R236). -/
def State.answerCe (s : State) (f : RoceFrame) : State :=
  match s.qps.find f.qp with
  | some q => if f.ce && q.st ≠ .error then s.emit (.cnp f.qp) else s
  | none => s

/-- ROCE_PACKET_RECEIVE (R234). -/
def execRocePacketReceive (port : Nat) (frame : RoceFrame) (s : State) : Res :=
  if !s.fabric port || !(s.port port).up then .next s
  else if !frameOk frame || !s.rxRoom port frame then .next (s.countError cEthDropped 1)
  else .next (((s.bufferFrame port frame).answerCe frame).wakeTrigger)

/-! ## Congestion (R236) -/

/-- The line rate, its lowest, and its step, in bits per second (R236). -/
def fullRate : Nat := 800000000000
def leastRate : Nat := 100000000
def rateStep : Nat := 5000000000

/-- Change a queue pair that is not in the error state. -/
def State.modLive (s : State) (qp : Nat) (f : Qp → Qp) : State := s.modQp qp (fun q => if q.st = .error then q else f q)

/-- CNP_RECEIVE (R236): 3/4 of the rate, in whole bits per second. -/
def execCnpReceive (qp : Nat) (s : State) : Res :=
  .next (s.modLive qp (fun q => { q with target := q.rate, rate := max (q.rate * 3 / 4) leastRate, rises := 0 }))

/-- CNP_RATE_TIMER (R236): 55 µs without a CNP. -/
def execCnpRateTimer (qp : Nat) (s : State) : Res :=
  .next (s.modLive qp (fun q =>
    let target := if 5 < q.rises + 1 then min (q.target + rateStep) fullRate else q.target
    { q with rises := q.rises + 1, target := target, rate := (q.rate + target) / 2 }))

/-! ## Pause (R235) -/

/-- Replies that waited for a pause to end leave, on every session of a port (R235, R288). -/
def State.flushPort (s : State) (p : Nat) : State :=
  eachDo s.sessions (fun x s =>
    match s.qps.find x.2.qp with
    | some q => if q.port = p then flush x.1 x.2.egress s else s
    | none => s) s
where
  /-- The replies at the front of one session's queue leave. -/
  flush (n : Nat) : List Egress → State → State
    | .reply r :: rest, s => flush n rest (s.emit (.packet r))
    | l, s => s.modSession n (fun ss => { ss with egress := l })

/-- PFC_FRAME_RECEIVE (R235): pauses or resumes one of the two lossless priorities; the fabric cycles paused are counted. Every
other priority is ignored. -/
def execPfcFrameReceive (port priority : Nat) (pause : Bool) (pausedCycles : Nat) (s : State) : Res :=
  if !s.fabric port || !(s.port port).up || !s.lossless priority then .next s
  else
    let was := (s.port port).pausedBy.contains priority
    let s := if was then s.countPerf cPauseFc pausedCycles else s
    let s := s.modPort port (fun q =>
      { q with pausedBy := if pause then (if was then q.pausedBy else q.pausedBy ++ [priority]) else q.pausedBy.filter (fun k => decide (k ≠ priority)) })
    thenReset (settled (.next (if !pause && decide (priority = s.profile.cmdPriority) then s.flushPort port else s)))

/-! ## Connections, errors and ports (R234, R237, R254, R308) -/

/-- A queue pair just connected (R236, R303). -/
def newQp (port : Nat) : Qp := { port := port, st := .hello, minor := 0, inbox := [], rate := fullRate, target := fullRate, rises := 0 }

/-- CM_CONNECT (R234): the host establishes a queue pair, 4,096 at most over all fabric ports. -/
def execCmConnect (port qp : Nat) (s : State) : Res :=
  let live := (s.qps.vals.filter (fun q => decide (q.st ≠ .error))).length
  let taken := match s.qps.find qp with | some q => decide (q.st ≠ .error) | none => false
  if !s.fabric port || !(s.port port).up || taken || decide (4096 ≤ live) then .next s
  else .next (({ s with qps := s.qps.put qp (newQp port) }.emit (.connected qp port)).wakeTrigger)

/-- A queue pair enters the error state: what it received goes, and its session closes (R308). -/
def State.qpError (s : State) (qp : Nat) : State :=
  match s.qps.find qp with
  | some q =>
    let s := match q.st with | .session n => s.closeSession n false .error | _ => s
    (s.drainQp qp).modQp qp (fun q => { q with st := .error, inbox := [] })
  | none => s

/-- TRANSPORT_ERROR (R308). -/
def execTransportError (qp : Nat) (s : State) : Res := thenReset (settled (.next (s.qpError qp)))

/-- A fabric port goes down (R237): every queue pair on it is in error, its buffers and pauses are gone. -/
def State.fabricDown (s : State) (p : Nat) : State :=
  let s := eachDo (s.qps.keep (fun _ q => decide (q.port = p))).keys (fun k s => s.qpError k) s
  s.modPort p (fun q => { q with up := false, neighbour := none, rx := [], xoffSent := [], pausedBy := [] })

/-- FABRIC_PORT_DOWN (R237). -/
def execFabricPortDown (port : Nat) (s : State) : Res :=
  if s.fabric port && (s.port port).up then thenReset (settled (.next (s.fabricDown port))) else .next s

/-- Whether the ports train: from start-up step 7 on (R459). -/
def State.portsRun (s : State) : Bool :=
  match s.power.mode with | .starting n => decide (7 ≤ n) | .active => true | .quiet => true | .dormant => true | _ => false

/-- FABRIC_PORT_LINK_UP (R233, R254): the port trains, comes up, and sends its LLDPDU. -/
def execFabricPortLinkUp (port : Nat) (s : State) : Res :=
  if s.fabric port && s.portsRun && !(s.port port).up then
    .next ((s.modPort port (fun q => { q with up := true })).sendLldp port)
  else .next s

/-! ## The status window (R156) -/

/-- The first bytes of the status window. -/
def State.statusHead (s : State) : Bytes :=
  leBytes 8 1 ++ leBytes 1 s.fuses.grade ++ leBytes 1 s.profileNo ++ leBytes 1 s.profile.layer ++ [0] ++
  leBytes 2 s.sparesLeft ++ leBytes 2 0 ++ leBytes 8 s.intakeRounds

/-- The 16 bytes of a context in the status window. -/
def State.statusCtx (s : State) (n : Nat) : Bytes :=
  let size := match s.ctx n with | some c => c.settings.groupSize | none => 0
  let open' := (s.streams.vals.filter (fun x => decide (x.ctx = n) && x.holdsSlot)).length
  leBytes 1 (s.ctxState n).code ++ [0] ++ leBytes 2 size ++ leBytes 4 (s.incarnation n) ++ leBytes 2 open' ++ leBytes 6 0

/-- The first 12 bytes of a stream engine in the status window. -/
def State.statusEngine (s : State) (e : Nat) : Bytes :=
  leBytes 2 (s.onEngine e).length ++ leBytes 2 (s.creditsHeld e 0 none) ++ leBytes 2 (s.creditsHeld e 1 none) ++
  leBytes 2 (s.creditsHeld e 2 none) ++ leBytes 4 (s.stalls.getOr e Counter.zero).value

/-- One byte of the status window. -/
def State.statusByte (s : State) (o : Nat) : Byte :=
  if o < 0x18 then s.statusHead.getD o 0
  else if 0x1000 ≤ o && o < 0x5000 then (s.statusCtx ((o - 0x1000) / 16)).getD (o % 16) 0
  else if 0x5000 ≤ o && o < 0x5C00 then (s.statusEngine ((o - 0x5000) / 64)).getD (o % 64) 0
  else 0

/-- The module address of the status window, and its size (R153). -/
def statusBase : Nat := 0xF000000000
def statusSize : Nat := 0x10000

/-! ## INBOUND_RDMA_ACCESS (R154 to R156, R279) -/

/-- Whether a queue pair may read the status window under a key: it carries the operator session the key was given to. -/
def State.statusAllowed (s : State) (q : Qp) (rkey : Nat) : Bool :=
  match q.st with
  | .session n => (match s.sessions.find n with
    | some ss => !ss.role.isTenant && decide (ss.statusKey = rkey)
    | none => false)
  | _ => false

/-- Whether a queue pair may act on a context: a tenant session on its own context only (R8, R9); the key of a window is what lets any
other pair through (DEDUCED, assumption log 150). -/
def State.pairActs (s : State) (q : Qp) (ctx : Nat) : Bool :=
  match q.st with
  | .session n =>
    (match s.sessions.find n with
     | some ss => (match ss.role with | .operator => true | .tenant c => decide (c = ctx))
     | none => true)
  | _ => true

/-- The inbound window a remote key names among those of the contexts a queue pair may act on: its context, base and length (R8, R9,
R154). -/
def State.inboundWindow (s : State) (q : Qp) (rkey : Nat) : Option (Nat × Nat × Nat) :=
  (s.ctxs.keep (fun k _ => s.pairActs q k)).findSome? (fun p => p.2.windows.findSome? (fun w =>
    match w.2 with | .inbound a n k => if k = rkey then some (p.1, a, n) else none | _ => none))

/-- An access refused: a remote access error NAK, and the queue pair is in error (R154). -/
def State.nakAccess (s : State) (qp : Nat) : State := (s.emit (.nak qp .remoteAccess)).qpError qp

/-- The range of an access. -/
def rdmaBytes : RdmaOp → Nat
  | .read n => n
  | .write b => b.length

/-- Tiles in NAP wake for an inbound access to their banks (R441). -/
def State.wakeRange (s : State) (a n : Nat) : State :=
  if a < 256 * tileBytes && 0 < n then
    eachDo ((List.range ((a + n - 1) / tileBytes + 1 - a / tileBytes)).map (a / tileBytes + ·)) (fun t s =>
      if (s.tile t).power = .nap then s.modTile t (fun x => { x with waking := true }) else s) s
  else s

/-- An access within a context's own range is served (R154, R155). -/
def State.serveAccess (s : State) (qp a : Nat) : RdmaOp → State
  | .read n => (s.wakeRange a n).emit (.rdmaReply qp (readBytes s.mem a n))
  | .write b => { s.wakeRange a b.length with mem := writeBytes s.mem a b }

/-- What the lines an inbound READ of a context met mean: counted, or the tile or page lost (R146, R149). -/
def State.accessLine (s : State) (ctx a : Nat) (line : HbmOutcome) : State :=
  if a < 256 * tileBytes then s.bankLine (a / tileBytes) line
  else match line with
    | .crcMismatch => s
    | _ => s.hbmLine a (.extent ctx) line

/-- An access within range: a READ whose line is lost is not answered (DESIGN CHOICE, assumption log 151); a WRITE to an input of a queued
operation is undefined (R47). -/
def State.doAccess (s : State) (qp ctx a : Nat) (op : RdmaOp) (line : HbmOutcome) : Res :=
  match op, line with
  | .read _, .uncorrectable => settled (.next (s.accessLine ctx a line))
  | .read _, _ => .next ((s.accessLine ctx a line).serveAccess qp a op)
  | .write b, _ => if s.spoilsInputs ((List.range b.length).map (a + ·)) then .fault .overlap else .next (s.serveAccess qp a op)

/-- INBOUND_RDMA_ACCESS (R154): of the status window, or of an INBOUND window under its key; anything else is NAKed, and a message of over
2^31 bytes is unsupported, dropped and counted (R234). `line` is what a READ's
lines met. -/
def execInboundRdmaAccess (qp rkey address : Nat) (op : RdmaOp) (s : State) (line : HbmOutcome := .clean) : Res :=
  match s.qps.find qp with
  | none => .next s
  | some q =>
    if q.st = .error then .next s
    else if 2 ^ 31 < rdmaBytes op then .next ((s.drainQp qp).countError cEthDropped 1)
    else
      let n := rdmaBytes op
      let s := (s.drainQp qp).wakeTrigger
      if statusBase ≤ address && address < statusBase + statusSize then
        match op with
        | .read n =>
          if s.statusAllowed q rkey && decide (address + n ≤ statusBase + statusSize) then
            .next (s.emit (.rdmaReply qp ((List.range n).map (fun i => s.statusByte (address - statusBase + i)))))
          else settled (.next (s.nakAccess qp))
        | .write _ => settled (.next (s.nakAccess qp))
      else match s.inboundWindow q rkey with
        | some (k, a, len) =>
          match s.ctx k with
          | some c =>
            if decide (a ≤ address) && decide (address + n ≤ a + len) && s.ownRange c address n true then
              s.doAccess qp k address op line
            else settled (.next (s.nakAccess qp))
          | none => settled (.next (s.nakAccess qp))
        | none => settled (.next (s.nakAccess qp))

end Sys2Proof.Machine
end

