-- ==== Sys2Proof/Machine/Sessions.lean ====
section
/-! DEFINITION. The session group (R303 to R308, R326 to R330) and the sending of events (R287 to R289, R483). -/

namespace Sys2Proof.Machine

/-! ## HELLO (R303, R326) -/

/-- The highest minor offered for major 1; none when no offer names it. -/
def offeredMinor (offers : List (Nat × Nat)) : Option Nat :=
  match (offers.filter (fun o => decide (o.1 = 1))).map (fun o => o.2) with
  | [] => none
  | m :: ms => some (ms.foldl max m)

/-- The parameters of a HELLO answered OK. -/
def State.helloParams (s : State) (minor : Nat) : List (Nat × Bytes) :=
  [p16 0x81 1, p16 0x82 minor, p32 0x83 1048576, p64 0x84 s.fuses.serial]

/-- HELLO on a queue pair (R303): past the HELLO state the same answer, and nothing changes. -/
def State.greet (s : State) (c : Cmd) (q : Qp) (offers : List (Nat × Nat)) : State :=
  if q.st ≠ .hello then s.replyBare c opHello stOk (s.helloParams q.minor)
  else match offeredMinor offers with
    | none => s.replyBare c opHello stBadVersion [p16 0x81 1]
    | some m =>
      let n := min m s.fwMinor
      (s.modQp c.qp (fun q => { q with st := .openState, minor := n })).replyBare c opHello stOk (s.helloParams n)

/-- HELLO (R303). One offer at least is required (R302); a ninth is refused (R323). -/
def execHello (c : Cmd) (offers : List (Nat × Nat)) (s : State) : Res :=
  match s.reaches c.qp with
  | none => .next s
  | some q =>
    match q.st with
    | .session _ => gaffer opHello c (fun t s =>
        if offers = [] then .fault .malformedBody
        else if 8 < offers.length then .next (s.answer t stNotPermitted)
        else .next (s.answerWith t stOk (s.helloParams q.minor))) s
    | _ =>
      if offers = [] then .fault .malformedBody
      else if 8 < offers.length then .next (s.replyBare c opHello stNotPermitted [])
      else .next (s.greet c q offers)

/-! ## OPEN_SESSION (R306, R327) -/

/-- Whether a key matches a slot (R304). -/
def KeySlot.accepts (k : KeySlot) (key : Bytes) : Bool := decide (sha384 (k.salt ++ key) = k.digest)

/-- The digests an OPEN_SESSION is compared with: those of its role, and for a tenant of a context that is ACTIVE,
SUSPENDED or RESETTING (R306). -/
def State.keysFor (s : State) (role ctx : Nat) : List KeySlot :=
  if role = 0 then s.flash.operatorKeys.vals
  else match s.ctx ctx with
    | some x => if x.st = .active || x.st = .suspended || x.st = .resetting then x.keys.vals else []
    | none => []

/-- A session as it opens. -/
def newSession (serial qp : Nat) (role : Role) : Session :=
  { serial := serial, qp := qp, role := role, awaiting := [], egress := [], eventSeq := 0, dropped := 0, reportSeq := 0,
    statusKey := match role with | .operator => Config.rkey serial % 2 ^ 32 | .tenant _ => 0 }

/-- READY as a module event (R313). -/
def readyEvent : Event := { code := evReady, ctx := none, incarnation := 0, causeSeq := 0, step := 0, variant := 0, params := [] }

/-- The parameters of an OPEN_SESSION answered OK (R327). -/
def State.openParams (s : State) (n ctx : Nat) (ss : Session) : List (Nat × Bytes) :=
  [p16 0x81 n] ++ (match ss.role with
    | .operator => [p8 0x82 0, p32 0x85 ss.statusKey]
    | .tenant _ => [p8 0x82 1, p16 0x83 ctx, p32 0x84 (s.incarnation ctx)])

/-- A session opens on a queue pair in the OPEN state (R306, R313). -/
def State.openOn (s : State) (c : Cmd) (role : Nat) (key : Bytes) : State :=
  if !(s.keysFor role c.ctx).any (fun k => k.accepts key) then
    (s.countError cAuthFailures 1).replyBare c opOpenSession stAuthFail []
  else match s.sessions.lowestFree 1024 with
    | none => s.replyBare c opOpenSession stBusy []
    | some n =>
      let (serial, s) := s.fresh
      let ss := newSession serial c.qp (if role = 0 then .operator else .tenant c.ctx)
      let s := s.modQp c.qp (fun q => { q with st := .session n })
      let s := s.replyBare c opOpenSession stOk (s.openParams n c.ctx ss)
      let first := if role = 0 && s.power.ready then ss.push readyEvent else ss
      { s with sessions := s.sessions.put n first }

/-- OPEN_SESSION (R306): checked by the first four general checks, then by its own rule alone (R484). -/
def execOpenSession (c : Cmd) (role : Nat) (key : Bytes) (s : State) : Res :=
  match s.reaches c.qp with
  | none => .next s
  | some q =>
    match q.st with
    | .session n =>
      match s.sessions.find n with
      | some ss =>
        if ss.awaits c.seq then .fault .duplicateSequence
        else .next (s.refuse (ticketOf c opOpenSession n ss.serial) stNotPermitted)
      | none => .next (s.replyBare c opOpenSession stNoSession [])
    | .openState =>
      if 1 < role then .next (s.replyBare c opOpenSession stNotPermitted [])
      else .next (s.openOn c role key)
    | _ => .next (s.replyBare c opOpenSession stNoSession [])

/-! ## CLOSE_SESSION (R308, R328) -/

/-- CLOSE_SESSION's work: OK as the session's last packet; the queue pair goes back to the OPEN state (R308). -/
def takeCloseSession (c : Cmd) (s : State) : Res :=
  gaffer opCloseSession c (fun t s => settled (.next ((s.answer t stOk).closeSession t.session true .openState))) s

/-- CLOSE_SESSION (R328). -/
def execCloseSession (c : Cmd) (s : State) : Res := thenReset (takeCloseSession c s)

/-! ## KEY_ADD, KEY_REMOVE (R304, R305, R329, R330) -/

/-- A key command acts on the header context for the tenant role only (R307). -/
def keySpec (op role : Nat) : OpSpec := { specOf op with onCtx := decide (role = 1) }

/-- KEY_ADD: the lowest free slot of the role or context (R305). -/
def execKeyAdd (c : Cmd) (role : Nat) (salt digest : Bytes) (s : State) : Res :=
  gafferWith (keySpec opKeyAdd role) c (fun t _ s =>
    if 1 < role then .next (s.answer t stNotPermitted)
    else if role = 0 then
      match s.flash.operatorKeys.lowestFree 8 with
      | none => .next (s.answer t stTableFull)
      | some n =>
        let s := s.modFlash (fun f => { f with operatorKeys := f.operatorKeys.put n ⟨salt, digest⟩ })
        .next (s.answerWith t stOk [p8 0x81 n])
    else
      match s.ctx c.ctx with
      | none => .next (s.answer t stContextGone)
      | some x =>
        match x.keys.lowestFree 4 with
        | none => .next (s.answer t stTableFull)
        | some n =>
          let s := s.setCtx c.ctx { x with keys := x.keys.put n ⟨salt, digest⟩ }
          .next (s.answerWith t stOk [p8 0x81 n])) s

/-- KEY_REMOVE: the last filled operator slot is kept (R305). -/
def execKeyRemove (c : Cmd) (role slot : Nat) (s : State) : Res :=
  gafferWith (keySpec opKeyRemove role) c (fun t _ s =>
    if 1 < role || (if role = 0 then 8 else 4) ≤ slot then .next (s.answer t stNotPermitted)
    else if role = 0 then
      if s.flash.operatorKeys.keys = [slot] then .next (s.answer t stNotPermitted)
      else .next ((s.modFlash (fun f => { f with operatorKeys := f.operatorKeys.del slot })).answer t stOk)
    else .next ((s.modCtx c.ctx (fun x => { x with keys := x.keys.del slot })).answer t stOk)) s

/-! ## EVENT_PACKET_SEND (R287, R289, R483) -/

/-- The EVENT packet of an event (R287, R298, R483). -/
def eventPacket (qp minor eventSeq dropped : Nat) (e : Event) : Packet :=
  { qp := qp, minor := minor, opcode := 0x80FF, final := true, seq := 0, ctx := e.ctx.getD 0xFFFF, variant := e.variant,
    status := none,
    params := [p16 0x81 e.code, p32 0x82 e.incarnation, p32 0x83 eventSeq, p32 0x84 e.causeSeq, p64 0x85 e.step,
               p32 0x86 dropped] ++ e.params }

/-- EVENT_PACKET_SEND (R289): the next event of a session leaves with its number and the count of events lost, and the
replies behind it follow (R288). Nothing leaves while the port is paused on the command priority (R235). -/
def execEventPacketSend (session : Nat) (s : State) : Res :=
  match s.sessions.find session with
  | some ss =>
    if s.paused ss.qp s.profile.cmdPriority then .next s
    else match ss.egress with
    | .event e :: rest =>
      let n := (ss.eventSeq + 1) % 2 ^ 32
      let s := s.emit (.packet (eventPacket ss.qp (s.minorOf ss.qp) n (ss.dropped % 2 ^ 32) e))
      let s := s.modSession session (fun ss => { ss with eventSeq := n, dropped := 0 })
      thenReset (settled (.next (s.flushReplies session rest)))
    | _ => .next s
  | none => .next s

end Sys2Proof.Machine
end

