-- ==== Sys2Proof/Machine/Device.lean ====
section
/-! DEFINITION. What the operator and tenants read of the module: QUERY, COUNTERS, POWER_STATUS and fault records (R363 to R368,
R374, R405 to R408, R436). -/

namespace Sys2Proof.Machine

/-! ## QUERY (R363, R364) -/

/-- QUERY acts on the header context for target CONTEXT, and names a variant for target VARIANT (R307, R363). -/
def querySpec (target : Nat) : OpSpec := { specOf opQuery with onCtx := decide (target = 1), named := decide (target = 2) }

/-- The reply of target MODULE. -/
def State.moduleParams (s : State) : List (Nat × Bytes) :=
  [p64 0x81 s.fuses.serial, p8 0x82 s.fuses.grade, (0x83, (Config.vendorOui ++ List.replicate 3 0).take 3),
   (0x84, leBytes 2 1 ++ leBytes 2 s.fwMinor ++ leBytes 4 (match s.fw.running with | some i => i.build | none => 0)),
   p32 0x85 s.flash.bootCount, p8 0x86 s.profileNo, p8 0x87 s.profile.layer, p16 0x88 s.sparesLeft, p16 0x89 s.ctxs.length,
   (0x8A, s.estateKeyId)]

/-- The 24 bytes of a region (R324). -/
def regionTlv (r : Region) : Bytes := leBytes 4 r.qpn ++ leBytes 4 r.rkey ++ leBytes 8 r.address ++ leBytes 4 r.pages ++ leBytes 4 0

/-- The 256 bytes of a slot grant (R331). -/
def grantBytes (l : List Nat) : Bytes :=
  (List.range 256).map (fun i => BitVec.ofNat 8 (((List.range 8).map (fun k => if l.contains (8 * i + k) then 2 ^ k else 0)).sum))

/-- The settings of a context, in the types of CONTEXT_CREATE (R331, R364). -/
def Ctx.settingsParams (c : Ctx) : List (Nat × Bytes) :=
  let t := c.settings
  [p16 1 t.groupSize, p16 2 t.groupFirst, p8 3 t.tileAlloc, p16 4 t.weight,
   (5, leBytes 1 t.caps.read ++ leBytes 1 t.caps.write ++ leBytes 1 t.caps.remote ++ [0]), p8 6 t.ringWeight,
   (7, flagByte t.watch), (8, leBytes 1 t.stash.region ++ leBytes 1 t.stash.policy ++ leBytes 2 t.stash.spill),
   (9, leBytes 4 t.parison.fillRows ++ leBytes 4 t.parison.prefillChunk ++ leBytes 2 t.parison.holdLimit ++
       leBytes 1 t.parison.trainShare ++ [0]),
   p16 0xA t.parkLimit, (0xB, leBytes 4 t.variantFirst ++ leBytes 4 t.variantCount), (0xC, grantBytes t.slotGrant)] ++
  (match t.pageStore with | some r => [(0xD, regionTlv r)] | none => []) ++
  [p64 0xE c.seed, p32 0xF t.sampleQueue, (0x10, leBytes 1 t.replicaPolicy ++ [0] ++ leBytes 2 t.digestInterval)] ++
  (if t.extents = [] then [] else [(0x11, t.extents.flatMap (fun x => leBytes 4 (x.2 / mib64)))])

/-- The reply of target CONTEXT. -/
def State.contextParams (s : State) (n : Nat) : List (Nat × Bytes) :=
  match s.ctx n with
  | some c => [p8 0x90 c.st.code, p32 0x91 c.incarnation, (0x92, c.uid), p32 0x93 (c.tileBase * 0x40000)] ++ c.settingsParams
  | none => []

/-- The 2,112 bytes of a roll call (R256). -/
def rollBytes (r : RollCall) : Bytes :=
  leBytes 4 r.rollSeq ++ leBytes 1 r.pass ++ leBytes 1 r.ringSize ++ leBytes 1 r.layer ++ leBytes 1 r.anchor ++
  leBytes 4 r.ringEpoch ++ leBytes 4 0 ++ slice r.baseDigest 0 48 ++
  (List.range 32).flatMap (fun p =>
    let e := rollAt r p
    leBytes 8 e.serial ++ leBytes 1 e.state ++ leBytes 1 e.grade ++ leBytes 1 e.layer ++ leBytes 1 e.expertEpoch ++
    leBytes 4 e.hbmCapacity ++ leBytes 4 e.hbmFree ++ slice e.estateKeyId 0 8 ++ leBytes 1 e.westRate ++ leBytes 1 e.eastRate ++
    List.replicate 34 0)

/-- The code of a link's state (R364). -/
def LinkState.code : LinkState → Nat
  | .up => 0
  | .held => 1
  | .down => 2
  | .dark => 3

/-- The 4-byte record of a ring link. -/
def State.linkRecord (s : State) (p : Nat) : Bytes :=
  leBytes 1 p ++ leBytes 1 (s.link p).st.code ++ leBytes 1 (s.link p).rate ++ flagByte s.board.bypassOpen

/-- Whether a byte of a roll call is Rsv0 (R256). -/
def rollReserved (i : Nat) : Bool := (decide (12 ≤ i) && decide (i < 16)) || (decide (64 ≤ i) && decide (30 ≤ i % 64))

/-- The last published roll call; before the first the spec states no bytes, and they are free (assumption log 30), those of Rsv0 fields
zero (R14). -/
def State.rollParam (s : State) : Bytes :=
  match s.ring.table with
  | some r => rollBytes r
  | none => (List.range 2112).map (fun i => if rollReserved i then 0 else Config.freeByte s.freeCount i)

/-- The reply of target RING. -/
def State.ringParams (s : State) : List (Nat × Bytes) :=
  [p8 0xB0 (if s.ringRoles then s.ring.position.getD 0xFF else 0), p8 0xB1 s.ringSize, p32 0xB2 s.ring.ringEpoch, p8 0xB3 s.ring.anchor,
   (0xB4, s.linkRecord west ++ s.linkRecord east), (0xB5, s.rollParam)]

/-- What target BASE says of a base model. -/
def shapeParams (b : BaseShape) (epoch : Nat) : List (Nat × Bytes) :=
  [(0xC0, b.digest), p8 0xC1 b.format, p16 0xC2 b.layers, p32 0xC3 b.dModel,
   (0xC4, leBytes 2 b.routed ++ leBytes 2 b.shared ++ leBytes 1 b.routerK ++ flagByte b.renormalise), p32 0xC5 b.lengthLimit,
   p8 0xC6 epoch, (0xC7, b.layerMap.flatMap (fun m => leBytes 1 m.1 ++ leBytes 1 m.2.1 ++ leBytes 2 0 ++ leBytes 4 m.2.2.1 ++ leBytes 4 m.2.2.2)),
   (0xC8, b.baseGradients.flatMap (fun n => leBytes 1 n))]

/-- The reply of target BASE; with none loaded, what the spec does not state of it is free (assumption log 30). -/
def State.baseParams (s : State) : List (Nat × Bytes) :=
  match s.base.shape with
  | some b => shapeParams b s.ring.expertEpoch
  | none =>
    let w (i : Nat) : Nat := (Config.freeWord s.freeCount i).toNat
    [(0xC0, List.replicate 48 0), p8 0xC1 (w 0), p16 0xC2 0, p32 0xC3 (w 1), (0xC4, leBytes 4 0 ++ leBytes 2 (w 2)), p32 0xC5 (w 3),
     p8 0xC6 s.ring.expertEpoch, (0xC7, []), (0xC8, [])]

/-- The reply of QUERY, by target. -/
def State.queryParams (s : State) (t : Ticket) (target : Nat) (tenant : Bool) : List (Nat × Bytes) :=
  if target = 0 then s.moduleParams
  else if target = 1 then s.contextParams t.ctx
  else if target = 2 then [(0xA0, s.entryBytes t.variant tenant)]
  else if target = 3 then s.ringParams
  else s.baseParams

/-- Whether QUERY may name a target: a tenant CONTEXT, VARIANT and BASE only, VARIANT in service mode only (R363, R364). -/
def State.queryAllowed (s : State) (target : Nat) (tenant : Bool) : Bool :=
  decide (target ≤ 4) && !(tenant && (decide (target = 0) || decide (target = 3))) && !(s.transport && decide (target = 2))

/-- QUERY (R363). -/
def execQuery (c : Cmd) (target : Nat) (s : State) : Res :=
  gafferWith (querySpec target) c (fun t ss s =>
    if s.queryAllowed target ss.role.isTenant then
      .next ({ s with freeCount := s.freeCount + 1 }.answerWith t stOk (s.queryParams t target ss.role.isTenant))
    else .next (s.answer t stNotPermitted)) s

/-! ## COUNTERS (R366, R367) -/

/-- COUNTERS acts on the header context for scope CONTEXT (R307). -/
def countersSpec (scope : Nat) : OpSpec := { specOf opCounters with onCtx := decide (scope = 1) }

/-- A 16-byte record of a counter. -/
def counterRecord (id klass value : Nat) (sat wrap : Bool) : Bytes :=
  leBytes 2 id ++ leBytes 1 klass ++ leBytes 1 (flagAt sat 0 + flagAt wrap 1) ++ leBytes 4 0 ++ leBytes 8 value

/-- The class of a module counter (R367). -/
def counterClass (id : Nat) : Nat := if id = cF8Saturations || id = cPauseFc then 1 else 0

/-- The ids of the module counters (R367). -/
def moduleCounterIds : List Nat := (List.range 17).map (· + 1)

/-- The records of the module scope. -/
def State.moduleCounters (s : State) : Bytes :=
  moduleCounterIds.flatMap (fun id =>
    let k := s.counters.getOr id Counter.zero
    counterRecord id (counterClass id) k.value k.sat k.wrap)

/-- The records of the context scope: the tenant snapshot (R295). -/
def State.contextCounters (s : State) (n : Nat) : Bytes :=
  match s.ctx n with
  | some c => c.snapshot.zipIdx.flatMap (fun x => counterRecord (0x0100 + x.2) 2 x.1 (decide (x.1 = 0xFFFFFFFFF000)) false)
  | none => []

/-- The records of a scope. -/
def State.counterRecords (s : State) (scope ctx : Nat) : Bytes := if scope = 0 then s.moduleCounters else s.contextCounters ctx

/-- Every error counter of a scope reads zero, with SAT clear: the module's, and those of the stream engines (R366, R405). A context has
none. -/
def State.clearErrors (s : State) (scope : Nat) : State :=
  if scope = 0 then
    { s with counters := s.counters.each (fun id k => if counterClass id = 0 then Counter.zero else k),
             stalls := s.stalls.each (fun _ _ => Counter.zero) }
  else s

/-- COUNTERS (R366). -/
def execCounters (c : Cmd) (scope : Nat) (s : State) : Res :=
  gafferWith (countersSpec scope) c (fun t ss s =>
    if 1 < scope || (decide (scope = 0) && ss.role.isTenant) then .next (s.answer t stNotPermitted)
    else .next (s.answerWith t stOk [(0x81, s.counterRecords scope t.ctx)])) s

/-- COUNTERS with CLEAR (R366): the values first, then the clear. -/
def execCountersClear (c : Cmd) (scope : Nat) (s : State) : Res :=
  gafferWith (countersSpec scope) c (fun t ss s =>
    if 1 < scope || ss.role.isTenant then .next (s.answer t stNotPermitted)
    else .next ((s.answerWith t stOk [(0x81, s.counterRecords scope t.ctx)]).clearErrors scope)) s

/-! ## POWER_STATUS (R368, R436) -/

/-- The code of a module power state (R368). -/
def Mode.powerCode : Mode → Nat
  | .quiet => 1
  | .dormant => 2
  | _ => 0

/-- The temperature of the hottest die; before any reading it is free (assumption log 30). -/
def State.hottest (s : State) : Byte :=
  match (s.power.temps.filter (fun x => decide (x.1 < 0x20))).map (fun x => x.2) with
  | [] => Config.freeByte s.freeCount 0
  | t :: ts => ofS8 (ts.foldl max t)

/-- POWER_STATUS (R368). -/
def execPowerStatus (c : Cmd) (s : State) : Res :=
  gaffer opPowerStatus c (fun t s =>
    .next ({ s with freeCount := s.freeCount + 1 }.answerWith t stOk
      [p16 0x81 s.power.reported, p16 0x82 s.board.input, p8 0x83 s.power.mode.powerCode, (0x84, [s.hottest])])) s

/-! ## FAULT_RECORD_READ (R374) -/

/-- FAULT_RECORD_READ (R374): newest first; reading clears none. -/
def execFaultRecordRead (c : Cmd) (first count : Nat) (s : State) : Res :=
  gaffer opFaultRecordRead c (fun t s =>
    if 63 < first || count = 0 || 64 < count then .next (s.answer t stNotPermitted)
    else .next (s.answerWith t stOk [(0x81, ((s.flash.faults.drop first).take count).flatMap FaultRecord.encode)])) s

end Sys2Proof.Machine
end

