-- ==== Sys2Proof/Machine/Firmware.lean ====
section
/-! DEFINITION. Profiles, firmware images and attestation: SELECT_PROFILE, FW_STAGE, FW_ACTIVATE and ATTEST (R369 to R372, R410,
R414 to R420, R430 to R435, R456, R457). -/

namespace Sys2Proof.Machine

/-! ## Profiles (R456, R457) -/

/-- Whether the ports of a profile are as R457 asks, on a grade. -/
def portsOk (grade : Nat) (l : List Nat) : Bool :=
  let role (p : Nat) : Nat := l.getD p 0
  ((decide (role 2 = 2) && decide (role 3 = 3)) || (decide (role 2 = 0) && decide (role 3 = 0))) &&
  [0, 1, 4, 5].all (fun p => decide (role p = 0) || (decide (p < portCount grade) && decide (role p = 1)))

/-- Whether the split's shares are multiples of 5 that sum to 100 (R457). -/
def splitOk (c : Caps) : Bool :=
  decide (c.read % 5 = 0) && decide (c.write % 5 = 0) && decide (c.remote % 5 = 0) && decide (c.read + c.write + c.remote = 100)

/-- Whether a profile is usable on a grade (R456, R457). -/
def profileOk (grade : Nat) (f : Profile) : Bool :=
  decide (f.layer ≤ 1) && decide (f.sparePolicy ≤ 1) && portsOk grade f.ports && splitOk f.split && decide (f.expertTiles ≤ 4) &&
  decide (f.bulkPriority ≤ 7) && decide (f.cmdPriority ≤ 7) && decide (f.cmdPriority ≠ f.bulkPriority) &&
  decide (f.cmdPriority ≠ 6) && decide (f.bulkPriority ≠ 6) && decide (f.resumable ≤ 64) && weightOk 65535 f.weight &&
  capsOk f.caps && weightOk 255 f.ringWeight && decide (1250 ≤ f.maxCoreMhz) && decide (f.maxCoreMhz ≤ 1450) &&
  decide (f.maxCoreMhz % 25 = 0) && decide (800 ≤ f.powerCap) && decide (f.powerCap ≤ tdp grade)

/-- Profile `n` of an image, when it is usable. -/
def imageProfile (grade n : Nat) (i : Image) : Option Profile :=
  match i.profiles.getD n none with
  | some f => if profileOk grade f then some f else none
  | none => none

/-- The digest of profile `n` of an image (R415). -/
def imageProfileDigest (i : Image) (n : Nat) : Bytes := i.profileDigests.getD n []

/-- SELECT_PROFILE's work (R369, R457): the selection, and with RESET a warm reset once the reply has left. -/
def takeSelectProfile (c : Cmd) (profile : Nat) (reset : Bool) (s : State) : Res :=
  gaffer opSelectProfile c (fun t s =>
    match s.fw.running with
    | none => .next (s.answer t stNotPermitted)
    | some i =>
      if (imageProfile s.fuses.grade profile i).isNone then .next (s.answer t stNotPermitted)
      else
        let s : State := { s with selected := some profile }
        let s := s.answerWith t stOk [(0x81, imageProfileDigest i profile)]
        .next (if reset then s.modPower (fun p => { p with resetAfter := some t.session }) else s)) s

/-- SELECT_PROFILE (R369). -/
def execSelectProfile (c : Cmd) (profile : Nat) (s : State) : Res := takeSelectProfile c profile false s

/-- SELECT_PROFILE with RESET (R369). -/
def execSelectProfileReset (c : Cmd) (profile : Nat) (s : State) : Res := thenReset (takeSelectProfile c profile true s)

/-! ## Firmware images (R415, R416) -/

/-- Whether an image is valid (R415). -/
def State.imageOk (s : State) (i : Image) : Bool :=
  i.signatureOk && decide (i.generation = 1) && decide (s.fuses.securityVersion ≤ i.securityVersion) && i.componentsOk

/-- The image in the active slot, and in the other. -/
def Flash.activeSlot (f : Flash) : Option Image := if f.activeB then f.slotB else f.slotA
def Flash.otherSlot (f : Flash) : Option Image := if f.activeB then f.slotA else f.slotB

/-- Write the slot that is not active. -/
def Flash.putOther (f : Flash) (i : Option Image) : Flash := if f.activeB then { f with slotA := i } else { f with slotB := i }

/-- FW_STAGE (R370, R419): the read begins, and the inactive slot holds no staged image. -/
def execFwStage (c : Cmd) (image : Region) (s : State) : Res :=
  gaffer opFwStage c (fun t s =>
    if !image.aligned then .next (s.answer t stNotPermitted)
    else
      let s := s.modFlash (fun f => { f.putOther none with staged := false })
      .next ((s.modFw (fun f => { f with stageTickets := f.stageTickets ++ [t] })).emit (.hostRead image 0))) s

/-- FW_STAGE_CHECK_DONE (R370, R419): a valid image is staged, FW_STAGED raised and FW_STAGE answered. While another FW_STAGE waits
for its image the slot holds no staged one. A region that cannot be read is a stall. -/
def execFwStageCheckDone (image : ReadResult Image) (s : State) : Res :=
  if !s.gafferUp then .next s
  else match s.fw.stageTickets with
  | [] => .next s
  | t :: rest =>
    let s := s.modFw (fun f => { f with stageTickets := rest })
    match image with
    | .data i =>
      if s.imageOk i then
        let s := s.modFlash (fun f => { f.putOther (some i) with staged := decide (rest = []) })
        .next ((s.raiseFor evFwStaged t.seq [(0x90, i.digest)]).answerWith t stOk [(0x81, i.digest)])
      else .next ((s.modFlash (fun f => f.putOther (some i))).answer t stNotPermitted)
    | .error => .next (s.answer t stStreamStall)
    | .stalled => .next (s.answer t stStreamStall)

/-! ## FW_ACTIVATE (R371, R420) -/

/-- FW_ACTIVATE's work: the staged image is checked again, becomes active, and runs; the gaffer goes offline. -/
def takeFwActivate (c : Cmd) (s : State) : Res :=
  gaffer opFwActivate c (fun t s =>
    match s.flash.otherSlot with
    | none => .next (s.answer t stNotPermitted)
    | some i =>
      if !s.flash.staged then .next (s.answer t stNotPermitted)
      else if !s.imageOk i then .next ((s.modFlash (fun f => { f with staged := false })).answer t stNotPermitted)
      else
        let was := s.flash.activeB
        let s := s.modFlash (fun f => { f with activeB := !f.activeB, staged := false })
        .next (s.modFw (fun f => { f with running := some i, switched := true, previousB := was, activateTicket := some t }))) s

/-- The gaffer goes offline when its round has been applied (R420 step 2). -/
def State.goOffline (s : State) : State := if s.fw.activateTicket.isSome then s.modFw (fun f => { f with offline := true }) else s

/-- FW_ACTIVATE (R371). -/
def execFwActivate (c : Cmd) (s : State) : Res := (takeFwActivate c s).bind (fun s => .next s.goOffline)

/-- FW_ACTIVATE_TIMEOUT (R420): the previous slot is active again and its image runs; the slot left holds no staged image. -/
def execFwActivateTimeout (s : State) : Res :=
  if s.fw.offline && s.fw.switched then
    let b := s.fw.previousB
    let s := s.modFlash (fun f => { f with activeB := b, staged := false })
    .next (s.modFw (fun f => { f with running := s.flash.activeSlot, switched := false }))
  else .next s

/-- The digests of the running image (R371). -/
def State.runningDigests (s : State) : Bytes :=
  slice Config.bootRomDigest 0 48 ++ (match s.fw.running with
    | some i => i.rotDigest ++ i.gafferDigest ++ i.microcodeDigest
    | none => List.replicate 144 0)

/-! ## The report (R430 to R435) -/

/-- The tensors a digest covers: all but those of extra experts that are not attached (R432). -/
def Var.digested (v : Var) : List Tensor :=
  v.tensors.filter (fun t => decide (t.info.kind < 2) ||
    v.extras.any (fun e => decide (e.decl.extraNo = t.info.source) && e.slot.isSome))

/-- The digest of a variant (R432). -/
def Var.digest (v : Var) : Bytes :=
  let l := v.digested
  sha384 (leBytes 8 v.generation ++ leBytes 4 l.length ++ l.flatMap (fun t => sha384 (Config.copyBytes (v.curCopy t))))

/-- A variant record (R431). -/
def variantRecord (id : Nat) (v : Var) : Bytes :=
  leBytes 4 id ++ leBytes 1 v.st.code ++ leBytes 3 0 ++ leBytes 8 v.stepCounter ++ leBytes 8 v.generation ++ v.digest

/-- A program record (R431). -/
def programRecord (n : Nat) (digest : Bytes) : Bytes := leBytes 1 n ++ leBytes 7 0 ++ digest

/-- Whether a context in a state lists its variants and programs (R434). -/
def CtxState.listed : CtxState → Bool
  | .active => true
  | .suspended => true
  | _ => false

/-- The RESIDENT variants of a context, in ascending ID (R433). -/
def State.residents (s : State) (n : Nat) : List (Nat × Var) :=
  s.vars.filter (fun p => decide (p.2.ctx = n) && decide (p.2.st = .resident))

/-- The record of one context, with its variant records while `room` lasts (R431, R433, R434), and the room left. -/
def State.contextRecord (s : State) (n room : Nat) : Bytes × Nat :=
  match s.ctx n with
  | none => (leBytes 2 n ++ List.replicate 30 0, room)
  | some c =>
    let due := if c.st.listed && !s.transport then s.residents n else []
    let shown := due.take room
    let programs := if c.st.listed && s.transport then c.programs else []
    let omitted := due.length - shown.length
    let flags := flagAt (decide (0 < omitted)) 0 + flagAt (decide (c.st = .suspended) && decide (c.halted ≠ [])) 1
    (leBytes 2 n ++ leBytes 1 c.st.code ++ leBytes 1 flags ++ leBytes 4 c.incarnation ++ c.uid ++ leBytes 2 shown.length ++
      leBytes 2 programs.length ++ leBytes 4 omitted ++ shown.flatMap (fun p => variantRecord p.1 p.2) ++
      programs.flatMap (fun p => programRecord p.1 p.2.2), room - shown.length)

/-- The records of the contexts named, in the order named (R430, R433). -/
def State.contextRecords (s : State) : List Nat → Nat → Bytes
  | [], _ => []
  | n :: ns, room => let (b, r) := s.contextRecord n room; b ++ s.contextRecords ns r

/-- The digest of the staged image; zero when none is staged (R430). -/
def State.stagedDigest (s : State) : Bytes :=
  match s.flash.otherSlot with
  | some i => if s.flash.staged then i.digest else List.replicate 48 0
  | none => List.replicate 48 0

/-- The fixed part of a report, from its fifth byte on (R430). -/
def State.reportFixed (s : State) (seq : Nat) (nonce : Bytes) (contexts : Nat) : Bytes :=
  leBytes 8 s.fuses.serial ++ s.fuses.identityKeyHash ++ leBytes 4 s.flash.bootCount ++ leBytes 4 seq ++ nonce ++ s.runningDigests ++
  s.stagedDigest ++ leBytes 4 (match s.fw.running with | some i => i.build | none => 0) ++ leBytes 4 s.fuses.securityVersion ++
  leBytes 1 s.fuses.grade ++ leBytes 1 s.profileNo ++ leBytes 1 s.profile.layer ++ [0] ++
  (match s.fw.running with | some i => imageProfileDigest i s.profileNo | none => List.replicate 48 0) ++ s.baseDigest ++
  s.estateKeyId ++ leBytes 2 contexts ++ leBytes 2 0

/-- An attestation report (R430): fixed part, context records, signature. -/
def State.report (s : State) (seq : Nat) (nonce : Bytes) (contexts : List Nat) : Bytes :=
  let rest := s.reportFixed seq nonce contexts.length ++ s.contextRecords contexts 8192
  let body := leBytes 2 1 ++ leBytes 2 (flagAt s.flash.staged 0 + flagAt s.fw.fallback 1) ++ leBytes 4 (rest.length + 8 + 96) ++ rest
  body ++ slice (Config.sign body) 0 96

/-- An ATTEST is answered: the session's report sequence advances (R372, R430). -/
def State.answerAttest (s : State) (t : Ticket) (nonce : Bytes) (contexts : List Nat) : State :=
  match s.sessions.find t.session with
  | some ss =>
    if s.live t then
      let n := ss.reportSeq + 1
      (s.modSession t.session (fun ss => { ss with reportSeq := n })).answerWith t stOk [(0x81, s.report n nonce contexts)]
    else s
  | none => s

/-- The contexts an ATTEST reports, if its session may name them (R372, R435). -/
def attestContexts (ss : Session) (contexts : Option (List Nat)) : Option (List Nat) :=
  match ss.role, contexts with
  | .operator, none => some []
  | .operator, some l => if l.length ≤ 64 && l.all (fun n => decide (n < 1024)) then some l else none
  | .tenant n, none => some [n]
  | .tenant n, some l => if l.length ≤ 64 && l.all (fun m => decide (m = n)) then some l else none

/-- ATTEST (R372): held while FW_ACTIVATE is under way (R420, R434). -/
def execAttest (c : Cmd) (nonce : Bytes) (contexts : Option (List Nat)) (s : State) : Res :=
  gafferWith (specOf opAttest) c (fun t ss s =>
    match attestContexts ss contexts with
    | none => .next (s.answer t stNotPermitted)
    | some l =>
      if s.fw.activateTicket.isSome then .next (s.modFw (fun f => { f with heldAttests := f.heldAttests ++ [(t, nonce, l)] }))
      else .next (s.answerAttest t nonce l)) s

/-! ## GAFFER_RETURN (R420 steps 6 and 7) -/

/-- Bits are burned until the fused security version is the running image's (R410, R420). -/
def State.burn (s : State) : State :=
  match s.fw.running with
  | some i => { s with fuses := { s.fuses with securityVersion := max s.fuses.securityVersion i.securityVersion } }
  | none => s

/-- GAFFER_RETURN (R420): FW_ACTIVATE is answered, then the ATTESTs held, and the security version is burned. -/
def execGafferReturn (s : State) : Res :=
  if !s.fw.offline then .next s
  else
    let ticket := s.fw.activateTicket
    let held := s.fw.heldAttests
    let new := s.fw.switched
    let s := s.modFw (fun f => { f with offline := false, switched := false, activateTicket := none, heldAttests := [] })
    let s := match ticket with | some t => s.answerWith t stOk [(0x81, s.runningDigests)] | none => s
    let s := eachDo held (fun h s => s.answerAttest h.1 h.2.1 h.2.2) s
    settled (.next (if new then s.burn else s))

end Sys2Proof.Machine
end

