-- ==== Sys2Proof/Machine/Board.lean ====
section
/-! DEFINITION. Start-up, the pins and the board management bus: power-on to READY, warm resets, loss of input, random numbers, and
the registers the board reads and writes (R377 to R380, R413, R417, R418, R451 to R454, R457, R459 to R461, R465, R468 to R473). -/

namespace Sys2Proof.Machine

/-! ## Outputs (R470) -/

/-- What the module's output pins show: PGOOD high, nFAULT low, BYP_STAT high and AUX_3V3 on. -/
structure Outputs where
  aux3v3 : Bool
  pgood : Bool
  nfaultLow : Bool
  bypStat : Bool
  deriving DecidableEq, Repr

/-- The output pins (R470). BYP_STAT is a contact on the latch itself. -/
def State.outputs (s : State) : Outputs :=
  ⟨decide (s.power.mode ≠ .unpowered), s.board.pgood, s.board.nfaultLow, s.board.bypassOpen⟩

/-! ## Start-up steps (R459, R460) -/

/-- Start-up goes on with a step. -/
def State.toStep (s : State) (n : Nat) : State := s.modPower (fun p => { p with mode := .starting n, step := n })

/-- Step 1 has ended: start-up goes on, or waits there while nRST is low (R469). -/
def State.endStep1 (s : State) : State :=
  if s.board.nrstLow then s.modPower (fun p => { p with stepOneDone := true }) else s.toStep 2

/-- The image the boot ROM chooses, and whether it is the other slot's (R417). -/
def State.bootImage (s : State) : Option (Image × Bool) :=
  match s.flash.activeSlot.filter s.imageOk, s.flash.otherSlot.filter s.imageOk with
  | some i, _ => some (i, false)
  | none, some i => some (i, true)
  | none, none => none

/-- The boot count at its limit (R418). -/
def bootLimit : Nat := 0xFFFFFFFF

/-- POWER_LOSS of the run before (R408, R461). -/
def State.recordPowerLoss (s : State) : State :=
  if s.flash.powerLost then (s.record (blankRecord fkPowerLoss 3)).modFlash (fun f => { f with powerLost := false }) else s

/-- Step 2 (R413, R417, R418): the image chosen runs, the boot count advances, the DRBG is seeded. -/
def State.boot (s : State) (i : Image) (other : Bool) : State :=
  let s := if other then s.modFlash (fun f => { f with activeB := !f.activeB, staged := false }) else s
  let s := s.modFlash (fun f => { f with bootCount := f.bootCount + 1 })
  let s := s.modFw (fun f => { f with running := some i, fallback := other })
  { s with drbgSeedAt := s.drbgRequests }.recordPowerLoss

/-- Step 2 ends: an image runs, or the module fails. -/
def State.endStep2 (s : State) : State :=
  match s.bootImage with
  | none => s.enterFailed
  | some (i, other) => if bootLimit ≤ s.flash.bootCount then s.enterFailed else (s.boot i other).toStep 3

/-- The profile that start-up wants (R452, R457, R468): the one selected, at power-on the straps', else the one in force. -/
def State.wantedProfile (s : State) : Nat :=
  match s.selected with | some n => n | none => if s.power.cold then s.board.straps else s.profileNo

/-- The profile start-up takes: the wanted one, else the lowest-numbered usable (R457). -/
def State.chosenProfile (s : State) : Option (Nat × Profile) :=
  match s.fw.running with
  | none => none
  | some i => (s.wantedProfile :: List.range 4).findSome? (fun n => (imageProfile s.fuses.grade n i).map (fun f => (n, f)))

/-- Step 4 ends (R457, R459): the profile is in force and every core clock runs at 1.25 GHz. -/
def State.endStep4 (s : State) : State :=
  match s.chosenProfile with
  | none => s.enterFailed
  | some (n, f) =>
    ({ s with profile := f, profileNo := n }.modPower (fun p => { p with cold := false, quads := (List.range 16).map (fun q => (q, Quadrant.reset)) })).toStep 5

/-- Step 5 ends (R150, R459): the module area is built, and the rest of HBM is free. -/
def State.endStep5 (s : State) : State :=
  { s with hbmFree := hbmPages s.fuses.grade - moduleAreaPages - s.hbmRetired.length }.toStep 6

/-- Whether a physical tile is eligible (R379, R382). -/
def State.eligible (s : State) (readable : Bool) (q i : Nat) : Bool :=
  if s.profile.sparePolicy = 1 then !s.power.retiredNow.contains (q, i) else !readable || !s.flash.retired.contains (q, i)

/-- The tiles of a quadrant that can serve, in ascending index (R378). -/
def State.serving (s : State) (readable : Bool) (failed : List (Nat × Nat)) (q : Nat) : List Nat :=
  (List.range 17).filter (fun i => s.eligible readable q i && !failed.contains (q, i))

/-- The spare map (R378, R380): logical tiles to indices, and the spare of each quadrant. -/
def State.spareMap (s : State) (readable : Bool) (failed : List (Nat × Nat)) : Tab Nat × Tab Nat :=
  let q (k : Nat) : List Nat := s.serving readable failed k
  ((List.range 16).flatMap (fun k => ((q k).take 16).zipIdx.map (fun x => (16 * k + x.2, x.1))),
   (List.range 16).flatMap (fun k => ((q k).drop 16).take 1 |>.map (fun i => (k, i))))

/-- A tile in service as start-up leaves it. -/
def State.startedTile (s : State) : Tile :=
  { Tile.reset with power := .idle, microcode := match s.fw.running with | some i => i.microcodeDigest | none => [] }

/-- A failed tile is recorded and listed (R381, R408). -/
def State.failTile (s : State) (x : Nat × Nat) : State :=
  (s.record { blankRecord fkSelftestFail 2 with die := x.1 / 4, quadrant := x.1 % 4, index := x.2 }).listTile x.1 x.2

/-- Step 6 ends (R377 to R380, R459): the spare map is built, and PGOOD rises. -/
def State.endStep6 (s : State) (failed : List (Nat × Nat)) (readable : Bool) : State :=
  let (phys, spares) := s.spareMap readable failed
  let s := if readable then s else
    let (o, s) := s.freeOutcome
    s.record (blankRecord fkRetiredList o)
  let s := eachDo failed (fun x s => s.failTile x) s
  let s : State := { s with phys := phys, spares := spares, tiles := phys.map (fun p => (p.1, s.startedTile)) }
  (s.modBoard (fun b => { b with pgood := true })).toStep 7

/-- Step 7 ends (R231, R233, R254, R262, R459): fabric ports are up, ring ports have trained in loopback, and the join begins. -/
def State.endStep7 (s : State) (failed : List Nat) : State :=
  let ok (p : Nat) : Bool := !failed.contains p
  let s := s.toStep 8
  let up := (List.range (portCount s.fuses.grade)).filter (fun p => s.fabric p && ok p)
  let s := eachDo up (fun p s => (s.modPort p (fun q => { q with up := true })).sendLldp p) s
  if s.ringRoles then
    let bad := [west, east].filter (fun p => !ok p)
    let s := s.countError cCaneTrainingFailures bad.length
    if bad = [] then s.beginJoin none none else eachDo bad (fun p s => s.modLink p (fun l => { l with st := .down })) s
  else s

/-- The lowest vacant tile. -/
def State.firstVacant (s : State) : Nat := ((List.range 256).find? s.vacant).getD 0

/-- Start-up is over (R313, R380, R459): READY is sent, the module is ACTIVE, and DEGRADED tells of vacant tiles. -/
def State.finishStart (s : State) : State :=
  let s := s.modPower (fun p => { p with mode := .active, ready := true, step := 9 })
  let s := s.raise readyEvent
  if 0 < s.vacantCount then s.raiseDegraded 1 s.firstVacant else s

/-- Whether the join of start-up stands as a result says. -/
def State.joinEnded (s : State) (r : StepResult) : Bool :=
  match s.ring.st, r with
  | .opening _, _ => false
  | .member, .notJoined => false
  | .member, _ => true
  | _, .joined => false
  | _, _ => true

/-- STARTUP_STEP_COMPLETE (R459, R460): a step ends and the next begins, or its failure has its outcome. A result that another step
gives is not this step's end. -/
def execStartupStepComplete (result : StepResult) (s : State) : Res :=
  match s.power.mode, result with
  | .starting 1, .done => .next s.endStep1
  | .starting 2, .done => .next s.endStep2
  | .starting 2, .noBootSlot => .next s.enterFailed
  | .starting 3, .done => .next (s.toStep 4)
  | .starting 4, .done => .next s.endStep4
  | .starting 5, .done => .next s.endStep5
  | .starting 5, .hbmTraining => .next s.enterFailed
  | .starting 6, .done => .next (s.endStep6 [] true)
  | .starting 6, .selfTest failed readable =>
    .next (s.endStep6 (failed.filter (fun x => decide (x.1 < 16) && decide (x.2 < 17))) readable)
  | .starting 7, .done => .next (s.endStep7 [])
  | .starting 7, .ports failed => .next (s.endStep7 failed)
  | .starting 8, r => if s.joinEnded r then settled (.next s.finishStart) else .next s
  | _, _ => .next s

/-! ## Resets and power (R451, R453, R461, R465, R468, R469) -/

/-- NRST_ASSERT (R453, R469): a warm reset, in every state but before step 2 and in one under way. -/
def execNrstAssert (s : State) : Res :=
  let s := s.modBoard (fun b => { b with nrstLow := true })
  match s.power.mode with
  | .unpowered => .next s
  | .starting 1 => .next s
  | .warmReset _ => .next s
  | _ => .next (s.warmReset true)

/-- NRST_RELEASE (R451, R469): start-up goes on with step 2. -/
def execNrstRelease (s : State) : Res :=
  let s := s.modBoard (fun b => { b with nrstLow := false })
  match s.power.mode with
  | .warmReset true => .next (s.toStep 2)
  | .starting 1 => .next (if s.power.stepOneDone then s.toStep 2 else s)
  | _ => .next s

/-- PROFILE_RESET_RELEASE (R451): the reset ends, or goes on while nRST is low. -/
def execProfileResetRelease (s : State) : Res :=
  match s.power.mode with
  | .warmReset false => .next (if s.board.nrstLow then s.modPower (fun p => { p with mode := .warmReset true }) else s.toStep 2)
  | _ => .next s

/-- INPUT_LOSS (R461). -/
def execInputLoss (s : State) : Res := .next (if s.power.mode = .unpowered then s else s.loseInput)

/-- OVERVOLTAGE (R465): the input switch opens, which counts as loss of input. -/
def execOvervoltage (s : State) : Res := .next (if s.power.mode = .unpowered then s else s.loseInput)

/-- POWER_ON (R459, R461): the input has been back within 40 to 60 V. -/
def execPowerOn (decivolts : Nat) (s : State) : Res :=
  if s.power.mode = .unpowered && decide (400 ≤ decivolts) && decide (decivolts ≤ 600) then
    .next ((s.modBoard (fun b => { b with input := decivolts })).toStep 1)
  else .next s

/-- STRAP_SAMPLE (R468): once, within step 1. -/
def execStrapSample (straps : Nat) (s : State) : Res :=
  match s.power.mode with
  | .starting 1 => .next (if straps < 4 && !s.power.stepOneDone then s.modBoard (fun b => { b with straps := straps }) else s)
  | _ => .next s

/-! ## Random numbers (R413) -/

/-- Whether the root of trust has been started. -/
def State.rotStarted (s : State) : Bool :=
  match s.power.mode with | .starting n => decide (2 ≤ n) | .active => true | .quiet => true | .dormant => true | _ => false

/-- ENTROPY_HEALTH_FAIL (R413, R454). -/
def execEntropyHealthFail (s : State) : Res := .next (if s.rotStarted then s.enterFailed else s)

/-- DRBG_RESEED (R413): after every 2^20 requests. -/
def execDrbgReseed (s : State) : Res :=
  .next (if s.rotStarted && decide (s.drbgSeedAt + 2 ^ 20 ≤ s.drbgRequests) then { s with drbgSeedAt := s.drbgRequests } else s)

/-! ## Board management bus (R471 to R473) -/

/-- Whether the module acknowledges its address (R471). -/
def State.busUp (s : State) : Bool :=
  match s.power.mode with | .unpowered => false | .warmReset _ => false | .starting 1 => s.power.stepOneDone | _ => true

/-- Write fr_index: values above 63 read back as 63 (R472). -/
def State.writeFrIndex (s : State) (v : Nat) : State := s.modBoard (fun b => { b with frIndex := min v 63 })

/-- FR_INDEX_WRITE (R472). -/
def execFrIndexWrite (value : Nat) (s : State) : Res := .next (if s.busUp then s.writeFrIndex value else s)

/-- The address of fr_index. -/
def frIndexAddress : Nat := 0x34

/-- BMB_REGISTER_WRITE (R472): acknowledged and ignored, at every address but fr_index's. -/
def execBmbRegisterWrite (address value : Nat) (s : State) : Res :=
  .next (if address = frIndexAddress && s.busUp then s.writeFrIndex value else s)

/-- The state code of the board registers (R472). -/
def Mode.boardCode : Mode → Nat
  | .active => 0
  | .quiet => 1
  | .dormant => 2
  | .failed => 4
  | _ => 3

/-- The temperature byte of a sensor: 0x80 where the grade has no such part, free before its first reading (assumption log 30). -/
def State.tempByte (s : State) (source : Nat) (present : Bool) : Byte :=
  if !present then 0x80
  else match s.power.temps.find source with
    | some t => ofS8 t
    | none => Config.freeByte s.freeCount source

/-- The temperatures block (R472). -/
def State.tempBytes (s : State) : Bytes :=
  (List.range 4).map (fun d => s.tempByte d true) ++
  (List.range 3).map (fun n => s.tempByte (0x10 + n) (decide (n < ioDies s.fuses.grade))) ++ [0] ++
  (List.range 8).map (fun n => s.tempByte (0x20 + n) (decide (n < stackCount s.fuses.grade)))

/-- The profile register: 0xFF before step 4 (R472). -/
def State.profileReg (s : State) : Nat := match s.power.mode with | .starting n => if n < 4 then 0xFF else s.profileNo | _ => s.profileNo

/-- The board management registers, from address 0 on (R472). -/
def State.boardRegs (s : State) : Bytes :=
  leBytes 8 1 ++ leBytes 8 s.fuses.serial ++ leBytes 1 s.fuses.grade ++ leBytes 1 s.profileReg ++ leBytes 1 s.power.mode.boardCode ++
  leBytes 1 s.power.step ++ leBytes 2 s.power.reported ++ leBytes 2 s.board.input ++ leBytes 1 s.power.level ++ [0] ++
  leBytes 2 s.sparesLeft ++ leBytes 4 s.flash.bootCount ++ s.tempBytes ++ leBytes 4 s.flash.recordSeq ++ leBytes 1 s.board.frIndex ++
  List.replicate 11 0 ++
  (match s.flash.faults[s.board.frIndex]? with | some r => r.encode | none => List.replicate 64 0)

/-- One byte the board reads: reserved addresses read zero (R472). -/
def State.boardByte (s : State) (a : Nat) : Byte := s.boardRegs.getD a 0

end Sys2Proof.Machine
end

