-- ==== Sys2Proof/Machine/Tiles.lean ====
section
/-! DEFINITION. The commands of a tile's array: operations in queue order, their completion, array and bank faults, and the
marver's fills (R35, R44 to R55, R73, R76, R94 to R100, R146, R381). -/

namespace Sys2Proof.Machine

/-- Whether a tile can run the operation at the front of its queue (R441, R453). -/
def State.tileReady (s : State) (n : Nat) : Bool :=
  let t := s.tile n
  !s.vacant n && !t.waking && (decide (t.power = .run) || decide (t.power = .idle))

/-- A tile's power after an operation: IDLE when nothing is left and no unit holds it (R441). -/
def State.restTile (s : State) (n : Nat) : State :=
  s.modTile n (fun t => { t with power := if t.queue = [] && !s.tileRuns n then .idle else .run })

/-- Operations leave the queue with a completion code each (R52). -/
def State.complete (s : State) (n count code : Nat) : State :=
  (s.modTile n (fun t =>
    { t with queue := t.queue.drop count, completions := t.completions ++ List.replicate count code })).restTile n

/-! ## Array faults (R45, R46, R381) -/

/-- The step or RUN_PROGRAM that a counted fault on a tile falls in, if any (R46). -/
def State.faultScope (s : State) (n : Nat) : Option FaultScope :=
  s.ctxs.findSome? (fun p => match p.2.running with
    | some r =>
      if r.tiles.contains n then
        match r.work with
        | .micro v k _ => (s.findStep v k).map (fun t => FaultScope.step t.id)
        | .update v k => (s.findStep v k).map (fun t => FaultScope.step t.id)
        | .program => some (.program p.1)
        | _ => none
      else none
    | none => none)

/-- A counted fault: counted and recorded; the second within one step or program retires the tile. Answers whether it
did. -/
def State.arrayFault (s : State) (n : Nat) : Bool × State :=
  let s := s.countError cArrayFaults 1
  match s.faultScope n with
  | some k =>
    if (s.tile n).faults.contains k then (true, s.retireTile n 1 0 (s.tileRecord n fkArrayFault 2))
    else (false, (s.record (s.tileRecord n fkArrayFault 1)).modTile n (fun t => { t with faults := t.faults ++ [k] }))
  | none => (false, s.record (s.tileRecord n fkArrayFault 1))

/-- A single-bit error in a stationary register is corrected in place and counted; it has no other effect (R45). -/
def State.registerCorrected (s : State) (n : Nat) : State :=
  s.modTile n (fun t => { t with regCorrected := t.regCorrected.addError 1 })

/-- The class of a fault for the problems on the array (R45): a half-local one of a problem that runs full width is shared; one in a
half that holds no problem is `idle`. -/
inductive FaultClass where
  | none | idle | half (h : Nat) | shared
  deriving DecidableEq, Repr

/-- How an event falls on the operations on the array. A half-local fault in a half that no problem occupies is counted, and no
problem ends by it (DESIGN CHOICE: R45 names only the problem of the half; assumption log 147). -/
def faultClass (ops : List QueueOp) (e : ArrayEvent) : FaultClass :=
  let full := ops.any (fun o => decide (aoHalf o.desc = 0))
  let onHalf (h : Nat) : FaultClass :=
    if full then .shared else if ops.any (fun o => decide (aoHalf o.desc = h)) then .half h else .idle
  match e with
  | .halfLower => onHalf 1
  | .halfUpper => onHalf 2
  | .shared => .shared
  | _ => .none

/-! ## MATMUL -/

/-- The block an operation streams against. -/
def State.blockFor (s : State) (n : Nat) (d : Bytes) : Loaded :=
  match (if aoReuse d then loadedFor (s.tile n).loaded d else none) with
  | some l => l
  | none => loadBlock (s.arrayIn n) d

/-- The statistics and flags of an operation's outputs count in the set of the step its rounding block names (R73, R76); F8
saturations in the module's counter (R65). -/
def State.noteOutputs (s : State) (n : Nat) (vals : List OutValue) : State :=
  let blk := (s.tile n).rounding
  let stat := (vals.map (fun v => v.stat)).foldl addStat zeroStat
  let sats := (vals.filter (fun v => v.sat8)).length
  let s := s.modTile n (fun t =>
    { t with sets := t.sets.modify (rbStep blk % 3) (fun set => markLayer set (rbLayer blk) (fun l => addStat l stat)) })
  s.countF8 sats

/-- Writes to a tile's memory. -/
def State.tileWrites (s : State) (n : Nat) (ws : List (Nat × Bytes)) : State :=
  { s with mem := ws.foldl (fun m w => writeBytes m (tileAddr n w.1) w.2) s.mem }

/-- The result of one MATMUL lands: its writes and its statistics. -/
def State.matmulResult (s : State) (n : Nat) (x : ArrayIn) (l : Loaded) (d : Bytes) : State :=
  let rows := matmulRows x l d
  (s.tileWrites n (matmulWrites x d rows)).noteOutputs n (rowValues rows)

/-- The operations on the array complete, but one whose half failed: its destination is not valid. In service mode the
sequencer issues that one again, unpaired (R46). -/
def State.finishMatmul (s : State) (n : Nat) (ops : List QueueOp) (bad : Option Nat) (code : Nat) : State :=
  let x := s.arrayIn n
  let blocks := ops.map (fun o => s.blockFor n o.desc)
  let failed (o : QueueOp) : Bool := bad = some (aoHalf o.desc)
  let s := eachDo (ops.zip blocks) (fun p s => if failed p.1 then s.spoil n p.1.desc else s.matmulResult n x p.2 p.1.desc) s
  let s := s.modTile n (fun t =>
    { t with
      loaded := if ops.all (fun o => aoReuse o.desc) then t.loaded else blocks,
      marver := t.marver.filter (fun b => !ops.any (fun o =>
        decide (addrKey b.descAddr = addrKey (aoStat o.desc)) || decide (addrKey b.descAddr = addrKey (aoMov o.desc)))),
      queue := (if s.transport then [] else (ops.filter (fun o => failed o && !o.retried)).map (fun o => { o with retried := true })) ++
        t.queue.drop ops.length,
      completions := t.completions ++ ops.map (fun o => if failed o then 2 else code) })
  s.restTile n

/-- What an event means for the banks and registers a tile reads, beside its work: corrected errors are counted (R45, R146). -/
def State.noteEvent (s : State) (n : Nat) (e : ArrayEvent) : State :=
  match e with
  | .corrected => s.registerCorrected n
  | .sramSingle => s.sramSingle n
  | _ => s

/-- The operations on the array end as an event lets them. -/
def State.runMatmul (s : State) (n : Nat) (ops : List QueueOp) (e : ArrayEvent) : State :=
  if e = .sramDouble then s.sramDouble n
  else
    let s := s.noteEvent n e
    match faultClass ops e with
    | .none => s.finishMatmul n ops none 0
    | .idle =>
      let (gone, s) := s.arrayFault n
      if gone then s else s.finishMatmul n ops none 0
    | .half h =>
      let (gone, s) := s.arrayFault n
      if gone then s else s.finishMatmul n ops (some h) 0
    | .shared =>
      let (gone, s) := s.arrayFault n
      if gone then s else s.finishMatmul n ops none 1

/-- An event of the array while a service-mode unit runs on the tile: the sequencer's own operations are not in the queue, and
the sequencer or the array runs again what the event spoilt (R46). -/
def State.unitEvent (s : State) (n : Nat) (e : ArrayEvent) : State :=
  match e with
  | .sramDouble => s.sramDouble n
  | .halfLower => (s.arrayFault n).2
  | .halfUpper => (s.arrayFault n).2
  | .shared => (s.arrayFault n).2
  | _ => (s.noteEvent n e).consumeFeed n

/-- The front operation of a tile's queue touches memory that is not its context's: it is refused before it starts, and the program
ends with NOT_PERMITTED (R9, R279). -/
def State.refuseOperation (s : State) (n : Nat) (q : QueueOp) : State :=
  (s.complete n 1 4).endProgram q.ctx stNotPermitted

/-- MATMUL (R35): the operation at the front of the tile's queue. -/
def execMatmul (tile : Nat) (event : ArrayEvent) (s : State) : Res :=
  if !s.tileReady tile then .next s
  else match (s.tile tile).queue with
    | [] => if s.transport || !s.tileRuns tile then .next s else started (.next (s.unitEvent tile event))
    | q :: rest =>
      if aoOp q.desc ≠ 1 then .next s
      else
        let ops := onArray (s.arrayIn tile) (q :: rest)
        match ops.find? (fun o => !s.operationOwned tile o) with
        | some o => started (.next (s.refuseOperation tile o))
        | none => match ops.findSome? (fun o => matmulFault (s.arrayIn tile) (s.tile tile).loaded o.desc) with
        | some f => .fault f
        | none => started (.next (s.runMatmul tile ops event))

/-! ## ELEMENTWISE (R55) -/

/-- The result of an ELEMENTWISE lands. -/
def State.ewResult (s : State) (n : Nat) (d : Bytes) : State :=
  let rows := (List.range (aoRows d)).map (ewRow (s.arrayIn n) d)
  let vals := rows.flatMap (fun r => r)
  (s.tileWrites n [(offsetOf (aoDst d), vals.flatMap (fun v => v.bytes))]).noteOutputs n vals

/-- An ELEMENTWISE ends as an event lets it: it runs full width, so every counted fault is shared. -/
def State.runEw (s : State) (n : Nat) (q : QueueOp) (e : ArrayEvent) : State :=
  if e = .sramDouble then s.sramDouble n
  else
    let s := s.noteEvent n e
    if e = .halfLower || e = .halfUpper || e = .shared then
      let (gone, s) := s.arrayFault n
      if gone then s else (s.ewResult n q.desc).complete n 1 1
    else (s.ewResult n q.desc).complete n 1 0

/-- ELEMENTWISE (R55). -/
def execElementwise (tile : Nat) (event : ArrayEvent) (s : State) : Res :=
  if !s.tileReady tile then .next s
  else match (s.tile tile).queue with
    | [] => if s.transport || !s.tileRuns tile then .next s else started (.next (s.unitEvent tile event))
    | q :: _ =>
      if aoOp q.desc ≠ 2 then .next s
      else if !s.operationOwned tile q then started (.next (s.refuseOperation tile q))
      else match ewFault (s.arrayIn tile) q.desc with
        | some f => .fault f
        | none => started (.next (s.runEw tile q event))

/-! ## NOP (R49, R51) -/

/-- NOP (R49): it completes. An operation with a reserved code is undefined (R51). -/
def execNop (tile : Nat) (s : State) : Res :=
  if !s.tileReady tile then .next s
  else match (s.tile tile).queue with
    | [] => .next s
    | q :: _ =>
      if 3 ≤ aoOp q.desc || reservedCodes q.desc then .fault .reservedCode
      else if aoOp q.desc ≠ 0 then .next s
      else started (.next (s.complete tile 1 0))

/-! ## MARVER_FILL (R96) -/

/-- The first operation of a queue with a piece left to fill, and its place: none while an earlier one has still to write what the
operation reads (R53, R96). -/
def nextFill (x : ArrayIn) : List QueueOp → List (Nat × Nat) → Nat → Option (Nat × QueueOp)
  | [], _, _ => none
  | q :: qs, written, i =>
    if marverOk x q.desc && decide (q.marverDone < marverPieces x q.desc) then
      if regionsMeet (aoInputs x q.desc) written then none else some (i, q)
    else nextFill x qs (written ++ aoOutputs x q.desc) (i + 1)

/-- MARVER_FILL (R96): a free buffer is filled for the earliest queued operation that uses a buffered mode; `line` is what reading its
sources met (R146). -/
def execMarverFill (tile : Nat) (s : State) (line : HbmOutcome := .clean) : Res :=
  let t := s.tile tile
  if !s.tileReady tile || 2 ≤ t.marver.length then .next s
  else match nextFill (s.arrayIn tile) t.queue [] 0 with
    | some (i, q) =>
      if !s.operationOwned tile q then .next s
      else if line = .uncorrectable then started (.next (s.sramDouble tile))
      else
        let s := s.bankLine tile line
        .next (s.modTile tile (fun t =>
          { t with
            marver := t.marver ++ [marverFilled (s.arrayIn tile) q.desc q.marverDone],
            queue := t.queue.modify i (fun q => { q with marverDone := q.marverDone + 1 }) }))
    | none => .next s

end Sys2Proof.Machine
end

