-- ==== Sys2Proof/Machine/Transfers.lean ====
section
/-! DEFINITION. Transfers of a stream: their issue by kind, page faults, and their landing (R22, R68, R69, R145, R160 to R173,
R426 to R429). -/

namespace Sys2Proof.Machine

/-- A stream that runs, of a kind, while the module has its memory. -/
def State.runningOf (s : State) (id kind : Nat) : Option Strm :=
  match s.strm id with
  | some x => if x.st = .running && decide (x.kind = kind) && s.hbmUp then some x else none
  | none => none

/-- Whether a stream may issue: transfers are left, and it holds fewer outstanding than its credits (R160). The page kinds move
one page at a time. -/
def Strm.mayIssue (x : Strm) : Bool :=
  decide (x.issued < x.total) &&
  (if x.kind = 5 || x.kind = 6 then decide (x.outstanding = []) else decide (x.outstanding.length < x.credits))

/-- A transfer is issued, with the bytes it carries. -/
def State.issue (s : State) (id : Nat) (data : Bytes) : State :=
  s.modStrm id (fun x => { x with issued := x.issued + 1, outstanding := x.outstanding ++ [(x.issued, data)] })

/-- A stream access wakes a tile in NAP (R441). -/
def State.touchTile (s : State) (n : Nat) : State :=
  if (s.tile n).power = .nap then s.modTile n (fun t => { t with waking := true }) else s

/-- Whether the tile at an end sleeps. -/
def State.endSleeps (s : State) (kind w : Nat) : Bool :=
  decide (kind = epTile) && decide ((s.tile (endTile w)).power = .nap)

/-! ## Host windows (R155, R171) -/

/-- Offsets in its window of the 256 bytes of transfer `i` at a host end. -/
def hostAt (d : Bytes) (w stride i : Nat) : List Nat :=
  (List.range 256).map (fun j =>
    if strideKind d then stridedAt (winOffset w) stride (sdRowBytes d) (256 * i + j) else winOffset w + 256 * i + j)

/-- The window of a host end: its region and absent pages. -/
def State.hostWindow (s : State) (ctx w : Nat) : Option (Region × List Nat) :=
  match s.ctx ctx with
  | some c => match c.windows.find (winNo w) with
    | some (.outbound r a) => some (r, a)
    | _ => none
  | none => none

/-- The first absent page that some bytes of a window lie in. -/
def State.absentPage (s : State) (ctx w : Nat) (offsets : List Nat) : Option Nat :=
  match s.hostWindow ctx w with
  | some (_, a) => (offsets.map (· / 65536)).find? (fun p => a.contains p)
  | none => none

/-- The pages a transfer touches at a host end: a whole page for the page kinds. -/
def hostTouch (x : Strm) (w stride i : Nat) : List Nat :=
  if x.kind = 5 || x.kind = 6 then [winOffset w + 65536 * i] else hostAt x.desc w stride i

/-- The window and page a transfer would fault on. -/
def State.pageFault (s : State) (x : Strm) (i : Nat) : Option (Nat × Nat) :=
  let side (kind w stride : Nat) : Option (Nat × Nat) :=
    if kind = epHost then (s.absentPage x.ctx w (hostTouch x w stride i)).map (fun p => (winNo w, p)) else none
  match side (sdSrcKind x.desc) (sdSrc x.desc) (sdSrcStride x.desc) with
  | some f => some f
  | none => side (sdDstKind x.desc) (sdDst x.desc) (sdDstStride x.desc)

/-- The halt parameter (R356). -/
def haltParam (slot window page : Nat) : Nat × Bytes := (0x83, leBytes 1 slot ++ leBytes 1 window ++ leBytes 2 0 ++ leBytes 4 page)

/-- A stream halts with its position saved; whom it serves hears of it (R171, R356, R358). -/
def State.haltStrm (s : State) (id : Nat) (x : Strm) (window page : Nat) : State :=
  let s := s.modStrm id (fun x => { x with st := .halted window page, later := none })
  match x.use, x.later with
  | .command t, _ => s.answerWith t stHalted [p32 0x82 x.position, haltParam 0 window page]
  | .program n, some t => s.answerWith t stHalted [p32 0x82 x.position, haltParam n window page]
  | .program n, none =>
    (match s.ctx x.ctx with
     | some c => (match c.prog with | some p => s.interim p.ticket stHalted [haltParam n window page] | none => s)
     | none => s)
  | _, _ => s

/-- The task of a larger group is aborted: a program with every stream of it, every tile of the group stopped; a command's
stream by itself (R171). -/
def State.abortTask (s : State) (id : Nat) (x : Strm) : State :=
  match x.use with
  | .program _ =>
    let mine (y : Strm) : Bool := decide (y.ctx = x.ctx) && !y.discard && (match y.use with | .program _ => true | _ => false) &&
      (match y.st with | .ended _ => false | _ => true)
    let s := eachDo (s.streamsFor mine) (fun k s => s.failStrm k stTaskAborted) s
    let group := match s.ctx x.ctx with | some c => c.settings.group | none => []
    let s := eachDo (group.filter (fun n => !s.vacant n)) (fun n s => s.stopTile n) s
    s.endProgram x.ctx stTaskAborted
  | _ => s.failStrm id stTaskAborted

/-- A page fault: halted when the group is no larger than the profile's threshold, else aborted (R171). -/
def State.takePageFault (s : State) (id : Nat) (x : Strm) (f : Nat × Nat) : State :=
  match s.ctx x.ctx with
  | some c => if c.settings.groupSize ≤ s.profile.resumable then s.haltStrm id x f.1 f.2 else s.abortTask id x
  | none => s

/-! ## Ring ends (R241, R246) -/

/-- Take up to `n` bytes of stream data of a context and tag from the frames of a local pool, oldest first: the bytes, the pool
left, and the frames used up. -/
def drainPool (ctx tag : Nat) : Nat → List Frame → Bytes × List Frame × List Frame
  | _, [] => ([], [], [])
  | 0, fs => ([], fs, [])
  | n, f :: fs =>
    match f.payload with
    | .stream b =>
      if f.msgType = 1 && decide (f.ctx = ctx) && decide (f.tag = tag) then
        if b.length ≤ n then
          let (d, l, u) := drainPool ctx tag (n - b.length) fs
          (b ++ d, l, f :: u)
        else (b.take n, { f with payload := .stream (b.drop n) } :: fs, [])
      else
        let (d, l, u) := drainPool ctx tag n fs
        (d, f :: l, u)
    | _ =>
      let (d, l, u) := drainPool ctx tag n fs
      (d, f :: l, u)

/-- Stream bytes waiting in a pool for a context and tag. -/
def pooled (ctx tag : Nat) (l : List Frame) : Nat := ((drainPool ctx tag (2 ^ 20) l).1).length

/-- The 256 bytes a ring source gives next, and the pool's credits freed; none while fewer have arrived. -/
def State.takeRing (s : State) (port ctx tag : Nat) : Option (Bytes × State) :=
  if pooled ctx tag (s.link port).localPool < 256 then none
  else
    let (d, l, used) := drainPool ctx tag 256 (s.link port).localPool
    let s := s.modLink port (fun k => { k with localPool := l })
    some (d, eachDo used (fun f s => s.freeLocal port f) s)

/-- One STREAM frame to the member across a ring port (R222, R241). -/
def State.sendRing (s : State) (port ctx tag : Nat) (data : Bytes) : State :=
  let dst := partnerPos (s.link port)
  let (n, s) := s.nextE2e dst
  s.enqueue port (s.newFrame 1 false dst ctx tag data.length n (.stream data))

/-- Whether a ring port can carry a stream. -/
def State.ringOpen (s : State) (port : Nat) : Bool :=
  s.onRing && (decide ((s.link port).st = .up) || decide ((s.link port).st = .held))

/-! ## COPY, STRIDED, ROTATE (R163, R165) -/

/-- The data of the next transfer from its source, when it is there; a host read is asked for and its data comes as it
lands. -/
def State.takeSource (s : State) (x : Strm) : Option (Bytes × State) :=
  let d := x.desc
  let i := x.issued
  if isLocal (sdSrcKind d) then some ((sdSrcAddrs d i).map (readByte s.mem), s)
  else if isRing (sdSrcKind d) then s.takeRing (sdSrcKind d) x.ctx (sdSrc d % 65536)
  else match s.hostWindow x.ctx (sdSrc d) with
    | some (r, _) => some ([], s.emit (.hostRead r ((hostAt d (sdSrc d) (sdSrcStride d) i).headD 0)))
    | none => none

/-- Whether a host end of a stream cannot be reached now (R235, R237). -/
def State.endBlocked (s : State) (x : Strm) : Bool :=
  let blocked (kind w : Nat) : Bool :=
    decide (kind = epHost) && (match s.hostWindow x.ctx w with | some (r, _) => s.hostBlocked r | none => false)
  blocked (sdSrcKind x.desc) (sdSrc x.desc) || blocked (sdDstKind x.desc) (sdDst x.desc)

/-- Pieces of a transfer to a host window: one, or one a line for strided rows. -/
def hostPieces (d : Bytes) (i : Nat) (data : Bytes) : List (Nat × Bytes) :=
  let at' := hostAt d (sdDst d) (sdDstStride d) i
  if strideKind d then (List.range 4).map (fun k => (at'.getD (64 * k) 0, slice data (64 * k) 64)) else [(at'.headD 0, data)]

/-- The data of a transfer goes out where its destination is not module memory. -/
def State.sendDest (s : State) (x : Strm) (data : Bytes) : State :=
  let d := x.desc
  if isRing (sdDstKind d) then s.sendRing (sdDstKind d) x.ctx (sdDst d % 65536) data
  else if sdDstKind d = epHost then
    match s.hostWindow x.ctx (sdDst d) with
    | some (r, _) => eachDo (hostPieces d x.issued data) (fun p s => s.emit (.hostWrite r p.1 p.2)) s
    | none => s
  else s

/-- The next transfer of a stream that moves 256-byte transfers. -/
def State.moveOne (s : State) (id : Nat) (x : Strm) : State :=
  let d := x.desc
  if !x.mayIssue then s
  else if s.endSleeps (sdSrcKind d) (sdSrc d) then s.touchTile (endTile (sdSrc d))
  else if isRing (sdDstKind d) && !s.ringOpen (sdDstKind d) then s
  else if s.endBlocked x then s
  else match s.pageFault x x.issued with
    | some f => s.takePageFault id x f
    | none => match s.takeSource x with
      | some (data, s) => (s.sendDest x data).issue id data
      | none => s

/-- The next transfer of a stream that feeds an array: the half the array computes on is not filled again before its operation is
over (R164). -/
def State.feedOne (s : State) (id : Nat) (x : Strm) : State :=
  if x.mayIssue && decide (x.issued < (x.consumed + 2) * feedHalf s.baseFormat) then s.issue id [] else s

/-- COPY (R163); the transfers of a service-mode stream that feeds an array are of this kind (R164). -/
def execCopy (id : Nat) (s : State) : Res :=
  match s.runningOf id 1 with
  | some x => started (.next (if x.desc = [] then s.feedOne id x else s.moveOne id x))
  | none => .next s

/-- STRIDED (R163). -/
def execStrided (id : Nat) (s : State) : Res :=
  match s.runningOf id 2 with | some x => started (.next (s.moveOne id x)) | none => .next s

/-- ROTATE (R165). -/
def execRotate (id : Nat) (s : State) : Res :=
  match s.runningOf id 4 with | some x => started (.next (s.moveOne id x)) | none => .next s

/-! ## REDUCE_HOP (R68, R69, R163) -/

/-- The counter of a hop: bytes 40 to 63 of the descriptor (R70, R163). -/
def hopCtr (seed : Nat) (d : Bytes) : RoundCtr := ⟨roundKey seed (sdVariant d), sdStep d, sdTail d⟩

/-- The element index of element `e` of transfer `i`: rows of a transfer's 256 elements, the stride between them. -/
def hopIndex (d : Bytes) (i e : Nat) : Nat := bits (sdRound d) 31 0 + i * bits (sdRound d) 63 40 + e

/-- The sums of a hop: each partial of the wire widened exactly, and the hop's own FP32 partial added. -/
def hopSums (wire : Bytes) (own : List Word) : List Word :=
  (List.range 256).map (fun e => fadd (toFP32 (ofG8 (wire.getD e 0).toNat)) (own.getD e 0#32))

/-- The converted sums of a hop. -/
def hopOut (seed : Nat) (d : Bytes) (i : Nat) (sums : List Word) : List Narrow :=
  sums.zipIdx.map (fun p =>
    toG8 (fscale p.1 (s8 (bits (sdRound d) 39 32))) (randomWord (hopCtr seed d) (hopIndex d i p.2)))

/-- The FP32 words of some bytes. -/
def wordsOf (b : Bytes) (n : Nat) : List Word := (List.range n).map (fun i => BitVec.ofNat 32 (field b (4 * i) 4))

/-- The wire's G8 partials and the hop's own FP32 partials of a transfer. A descriptor has one source address, and R163 names two
sources: the other one's bytes come with the step (DEDUCED, assumption log 24). -/
def State.hopInputs (s : State) (x : Strm) (partials : Bytes) : Option (Bytes × List Word × State) :=
  let d := x.desc
  if isRing (sdSrcKind d) then
    match s.takeRing (sdSrcKind d) x.ctx (sdSrc d % 65536) with
    | some (w, s) => some (w, wordsOf partials 256, s)
    | none => none
  else if isLocal (sdSrcKind d) then
    some (slice partials 0 256, readWords s.mem (modAddr (sdSrc d) + 1024 * x.issued) 256, s)
  else none

/-- The statistics of a hop's conversions, in the set of the step on a tile of the context (R73). -/
def State.noteHop (s : State) (x : Strm) (sums : List Word) (out : List Narrow) : State :=
  let d := x.desc
  let n := if sdSrcKind d = epTile then endTile (sdSrc d)
    else match s.ctx x.ctx with | some c => (s.runTiles c).headD 0 | none => 0
  let shift := s8 (bits (sdRound d) 39 32)
  let bad := sums.any nonFinite || out.any (fun o => o.bad)
  let stat : LayerStat :=
    { drained := out.length, sat := (out.filter (fun o => o.sat)).length,
      big := sums.any (fun w => bigFP (fscale w shift)), nonfinite := bad }
  if s.vacant n then s
  else s.modTile n (fun t =>
    { t with sets := t.sets.modify (sdStep d % 3) (fun set => markLayer set (bits (sdTail d) 51 44) (fun l => addStat l stat)) })

/-- The near-bank units test each gradient element as its last accumulation lands (R128). -/
def State.noteOwner (s : State) (x : Strm) (sums : List Word) : State :=
  let d := x.desc
  let n := endTile (sdDst d)
  if sdDstKind d ≠ epTile || s.vacant n || !sums.any nonFinite then s
  else s.modTile n (fun t =>
    { t with sets := t.sets.modify (sdStep d % 3) (fun set => markLayer set (bits (sdTail d) 51 44) (fun l => addStat l ⟨0, 0, false, true⟩)) })

/-- One transfer of a hop: sent on in G8, or kept in FP32 at the owner. -/
def State.hopOne (s : State) (id : Nat) (x : Strm) (partials : Bytes) : State :=
  let d := x.desc
  match s.hopInputs x partials with
  | none => s
  | some (wire, own, s) =>
    let sums := hopSums wire own
    if isLocal (sdDstKind d) then (s.noteOwner x sums).issue id (sums.flatMap (fun w => leBytes 4 w.toNat))
    else
      let seed := match s.ctx x.ctx with | some c => c.seed | none => 0
      let out := hopOut seed d x.issued sums
      let data := out.map (fun o => BitVec.ofNat 8 o.enc)
      ((s.noteHop x sums out).sendDest x data).issue id data

/-- REDUCE_HOP (R163). -/
def execReduceHop (id : Nat) (partials : Bytes) (s : State) : Res :=
  match s.runningOf id 3 with
  | some x =>
    let d := x.desc
    if !x.mayIssue then .next s
    else if s.endSleeps (sdSrcKind d) (sdSrc d) then .next (s.touchTile (endTile (sdSrc d)))
    else if isRing (sdDstKind d) && !s.ringOpen (sdDstKind d) then .next s
    else if !isLocal (sdDstKind d) && decide (2 ^ 32 ≤ hopIndex d x.issued 255) then .fault .elementIndex
    else match s.pageFault x x.issued with
      | some f => started (.next (s.takePageFault id x f))
      | none => started (.next (s.hopOne id x partials))
  | none => .next s

/-! ## PAGE_OUT (R22, R163, R426, R427) -/

/-- Pages of a store in use, without those a variant holds already. -/
def State.storeFull (s : State) (ctx v need : Nat) : Bool :=
  match s.ctx ctx, s.var v with
  | some c, some w => decide (c.settings.storeSize < s.storeUsed ctx - w.storePages + need)
  | _, _ => false

/-- The bytes of a transport page: 65,536 of its source; what a last part page does not fill is free (assumption log 25). -/
def State.pageBytes (s : State) (x : Strm) (i : Nat) : Bytes :=
  let n := min 65536 (256 * sdTransfers x.desc - 65536 * i)
  readBytes s.mem (modAddr (sdSrc x.desc) + 65536 * i) n ++ (List.range (65536 - n)).map (fun j => Config.freeByte s.freeCount j)

/-- The kind, variant, index and page_seq of page `i` of a stream (R426, R427, R429). -/
def pageFields (x : Strm) (i : Nat) : Nat × Nat × Nat × Nat :=
  match x.use with
  | .writeOut v => (1, v, i, x.baseSeq + i)
  | .exporting _ v _ _ _ => if i = 0 then (2, v, 0, x.baseSeq) else (3, v, i - 1, x.baseSeq + i)
  | .logPage v => (4, v, i, x.baseSeq + i)
  | _ => (5, 0, i, x.baseSeq + i)

/-- A page sealed under the page key of the running incarnation (R426). -/
def sealPage (ctx : Nat) (c : Ctx) (key : PageKey) (x : Strm) (i : Nat) (body : PageBody) : SealedPage :=
  let (kind, variant, index, seq) := pageFields x i
  { kind := kind, incarnation := c.incarnation, pageSeq := seq, variant := variant, pageIndex := index, pages := x.total, ctx := ctx,
    key := key, intact := true, body := body }

/-- Where page `i` of a stream goes in its region: a write-out at its place in the page store. -/
def State.pagePlace (s : State) (x : Strm) (i : Nat) : Nat :=
  match x.use with
  | .writeOut v => (match s.var v with | some w => w.storePage + i | none => i)
  | .load v => (match s.var v with | some w => w.storePage + i | none => i)
  | .logPage _ => Config.logPlace (x.baseSeq + i)
  | .command _ => winOffset (sdDst x.desc) / 65536 + i
  | .program _ => winOffset (sdDst x.desc) / 65536 + i
  | _ => i

/-- The host region of a page stream. -/
def State.pageRegion (s : State) (x : Strm) : Option Region :=
  if x.desc = [] then x.region
  else (s.hostWindow x.ctx (if x.kind = 5 then sdDst x.desc else sdSrc x.desc)).map (fun p => p.1)

/-- A write-out's first page: its place in the page store, and the first page_seq kept for its reader (R428). -/
def State.placeWriteOut (s : State) (x : Strm) : State :=
  match x.use with
  | .writeOut v =>
    if x.issued = 0 then
      let (page, s) := s.freeNat
      s.modVar v (fun w => { w with storePage := page, storePages := x.total, storeSeq := x.baseSeq })
    else s
  | _ => s

/-- Whether a write-out finds its page store full at its first page (R182). -/
def State.writeOutFull (s : State) (x : Strm) : Bool :=
  match x.use with | .writeOut v => decide (x.issued = 0) && s.storeFull x.ctx v x.total | _ => false

/-- The next page of a stream leaves, encrypted by the port engine. -/
def State.pageOutOne (s : State) (id : Nat) (x : Strm) : State :=
  match s.ctx x.ctx with
  | some c =>
    match c.pageKey with
    | some key =>
      let s := s.placeWriteOut x
      let body := if x.desc = [] then x.pages.getD x.issued .filler else .raw (s.pageBytes x x.issued)
      match s.pageRegion x with
      | some r =>
        let s := s.emit (.page r (s.pagePlace x x.issued) (sealPage x.ctx c key x x.issued body))
        { s with freeCount := s.freeCount + 1 }.issue id []
      | none => s
    | none => s
  | none => s

/-- Whether the host memory of a page stream cannot be reached now (R235, R237). -/
def State.storeBlocked (s : State) (x : Strm) : Bool :=
  match s.pageRegion x with | some r => s.hostBlocked r | none => false

/-- PAGE_OUT (R163). -/
def execPageOut (id : Nat) (s : State) : Res :=
  match s.runningOf id 5 with
  | some x =>
    if !x.mayIssue || s.storeBlocked x then .next s
    else if decide (x.desc ≠ []) && s.endSleeps (sdSrcKind x.desc) (sdSrc x.desc) then .next (s.touchTile (endTile (sdSrc x.desc)))
    else if s.writeOutFull x then started (.next (s.failStrm id stBusy))
    else match (if x.desc = [] then none else s.pageFault x x.issued) with
      | some f => started (.next (s.takePageFault id x f))
      | none => started (.next (s.pageOutOne id x))
  | none => .next s

/-! ## PAGE_IN (R163, R187, R428, R429) -/

/-- Whether an encrypted page is the one a reader expects under a key (R428). -/
def pageOpens (p : SealedPage) (key : PageKey) (kind variant ctx index : Nat) : Bool :=
  p.intact && decide (p.key = key) && decide (p.kind = kind) && decide (p.variant = variant) && decide (p.ctx = ctx) &&
  decide (p.pageIndex = index)

/-- Whether a data page of an image is the one its head names. -/
def pageOfImage (p : SealedPage) (h : ImageHead) (ctx i : Nat) : Bool :=
  pageOpens p ⟨h.uid, h.salt⟩ 3 h.variant ctx (i - 1) && decide (p.pageSeq = h.baseSeq + (i - 1))

/-- Whether a page that is read under the running incarnation is accepted: of a write-out, or of a transport stream. -/
def ownPage (x : Strm) (c : Ctx) (p : SealedPage) (i : Nat) : Bool :=
  match c.pageKey with
  | none => false
  | some key =>
    decide (p.incarnation = c.incarnation) &&
    (match x.use with
     | .load v => pageOpens p key 1 v x.ctx i && decide (p.pageSeq = x.baseSeq + i)
     | _ => pageOpens p key 5 0 x.ctx i && (match p.body with | .raw b => decide (b.length = 65536) | _ => false))

/-- What a reader of an image makes of a page: NOT_PERMITTED for a head of another UID, before anything is decrypted; a failed
authentication; or the page taken (R429). -/
inductive PageVerdict where
  | foreign | unauthentic | head (h : ImageHead) | taken
  deriving DecidableEq, Repr

/-- The verdict on page `i` of a stream. -/
def State.judgePage (s : State) (x : Strm) (c : Ctx) (p : SealedPage) : PageVerdict :=
  let i := x.issued
  match x.use with
  | .load _ => if ownPage x c p i then .taken else .unauthentic
  | .command _ => if ownPage x c p i then .taken else .unauthentic
  | .program _ => if ownPage x c p i then .taken else .unauthentic
  | _ =>
    match x.head with
    | some h => if pageOfImage p h x.ctx i then .taken else .unauthentic
    | none =>
      match p.body with
      | .head h =>
        if h.uid ≠ c.uid then .foreign
        else if h.wrapEstate = s.fuses.estateKey && pageOpens p ⟨h.uid, h.salt⟩ 2 h.variant x.ctx 0 then .head h
        else .unauthentic
      | _ => .unauthentic

/-- A stream that reads an image ends because of what it read: the status, and for a load whether the variant is LOST (R182,
R187). -/
def State.failRead (s : State) (id status : Nat) (authentication : Bool) : State :=
  match s.strm id with
  | some x =>
    match x.use with
    | .load v => s.failLoad v status authentication
    | _ => s.failStrm id status
  | none => s

/-- An authentic page is taken: its contents land with TRANSFER_LAND. -/
def State.takePage (s : State) (id : Nat) (p : SealedPage) : State :=
  let data := match p.body with | .raw b => b | _ => []
  (s.issue id data).modStrm id (fun x => if x.desc = [] then { x with pages := x.pages ++ [p.body] } else x)

/-- The image of a RESTORE is another context's: the restore ends with NOT_PERMITTED, and without effect the variant is again
what it was before (R311, R349, R429; assumption log 132). -/
def State.foreignRestore (s : State) (id : Nat) : State :=
  match s.var id with
  | some v =>
    match v.restore with
    | some r =>
      let s := (s.abandonAll (fun x => x.use = .restoring id)).answer r.ticket stNotPermitted
      if r.marked then (s.modVar id (fun v => { v with st := .resident, restore := none })).becomeResident id
      else
        let s := (s.releaseHbm id).modVar id (fun v =>
          { v with st := if r.fromAbsent then .absent else .lost, restore := none, waitSpace := false })
        if r.fromAbsent && s.park.any (fun p => decide (p.variant = id)) then s.wantLoad id
        else
          let s := s.modVar id (fun v => { v with evictTickets := [] })
          (s.endParked id stAdapterLoadFailed).answerAll v.evictTickets stOk
    | none => s
  | none => s

/-- A page as read. -/
def State.pageRead (s : State) (id : Nat) (x : Strm) (c : Ctx) (p : SealedPage) : State :=
  match s.judgePage x c p with
  | .taken => s.takePage id p
  | .head h => (s.takePage id p).modStrm id (fun x => { x with head := some h, total := 1 + h.dataPages })
  | .foreign =>
    match x.use with
    | .restoring v => s.foreignRestore v
    | _ => s.failRead id stNotPermitted false
  | .unauthentic => (s.countError cPagesAuthFailed 1).failRead id stAdapterLoadFailed true

/-- STREAM_STALL (R170): counted on its engine, and the stream ends. -/
def State.stallStrm (s : State) (id : Nat) : State :=
  match s.strm id with
  | some x =>
    let k := s.stalls.getOr x.engine Counter.zero
    let s : State := { s with stalls := s.stalls.put x.engine (k.addError 1) }
    (s.countError cStreamStalls 1).failStrm id stStreamStall
  | none => s

/-- PAGE_IN (R163): the next page is asked for and read; only an authentic one is taken. -/
def execPageIn (id : Nat) (page : ReadResult SealedPage) (s : State) : Res :=
  match s.runningOf id 6 with
  | some x =>
    if !x.mayIssue then .next s
    else match (if x.desc = [] then none else s.pageFault x x.issued), s.pageRegion x, s.ctx x.ctx with
      | some f, _, _ => started (.next (s.takePageFault id x f))
      | none, some r, some c =>
        let place := if x.desc = [] then s.pagePlace x x.issued else winOffset (sdSrc x.desc) / 65536 + x.issued
        let s := (s.emit (.pageRead r place)).drainQp r.qpn
        match page with
        | .data p => started (.next (s.pageRead id x c p))
        | .error => started (.next (s.failRead id stAdapterLoadFailed false))
        | .stalled => started (.next (s.stallStrm id))
      | none, _, _ => .next s
  | none => .next s

/-! ## The end of a stream of pages (R183, R197, R199, R349, R350, R393) -/

/-- The image in the pages read. -/
def Strm.image (x : Strm) : Option VariantImage :=
  x.pages.findSome? (fun b => match b with | .image i => some i | _ => none)

/-- The log records in the pages read. -/
def Strm.records (x : Strm) : List LogRecord := x.pages.flatMap (fun b => match b with | .log l => l | _ => [])

/-- An import's pages are all there: the variant is placed under its own ID, at generation 0 in both slots, dirty, its extra
experts detached (R199). The step of its last re-derivation is taken to be the image's step counter (DESIGN CHOICE, assumption log 162). -/
def State.finishImport (s : State) (t : Ticket) (v : Nat) (owners : List Nat) (i : VariantImage) : State :=
  let pages := Config.variantHbm i.manifest
  if s.varState v ≠ .free then s.answer t stNotPermitted
  else
    let (space, s) := s.needHbm pages
    match space with
    | none => s.answer t stBusy
    | some now =>
      let (page, s) := s.freeNat
      let blank := s.blankVar t.ctx owners i.sExp.length page
      let w : Var := blank.place i
      let w : Var := { w with
        generation := 0, largestGiven := i.stepCounter, lastDerive := i.stepCounter,
        extras := i.experts.map (fun e => ⟨e, none⟩), hbmPages := pages }
      if now then s.placeVar v w t [] else s.waitHbm pages (.variant v w t [])

/-- An export's pages are all written: it is answered and releases its pin; a checkpoint releases its records (R197, R393). -/
def State.finishExport (s : State) (id : Nat) (x : Strm) (t : Ticket) (v : Nat) (withLog : Option Bool) (step records : Nat) : State :=
  let s := if withLog.isSome then
      s.modVar v (fun w =>
        let done := w.completed.take records
        { w with log := w.log.filter (fun r => !done.contains r), logPagesHeld := 0 })
    else s
  let s := s.answerWith t stOk [p64 0x81 step, p32 0x82 x.total]
  s.unpin v (holderId id)

/-- A page stream of the module's own that is complete does its work; a write-out waits for its own step (R182). -/
def State.finishPages (s : State) (id : Nat) (x : Strm) : State :=
  match x.use with
  | .load v => (match x.image with
    | some i => (s.delStrm id).placeImage v i
    | none => s.failLoad v stAdapterLoadFailed true)
  | .restoring v => (match x.image with
    | some i => (s.delStrm id).placeRestored v i
    | none => s.failStrm id stAdapterLoadFailed)
  | .importing t v o => (match x.image with
    | some i => (s.delStrm id).finishImport t v o i
    | none => s.failStrm id stAdapterLoadFailed)
  | .exporting t v w step n => (s.delStrm id).finishExport id x t v w step n
  | .replayLog t _ first last => (s.delStrm id).startReplay t first last x.records
  | .logPage _ => s.delStrm id
  | .feed _ => s.delStrm id
  | _ => s

/-! ## TRANSFER_LAND (R160) -/

/-- What a landed transfer counts: the bytes of a context's stream, and pages of the page store (R295). -/
def State.countLand (s : State) (x : Strm) : State :=
  let s := s.countTenant x.ctx tStreamBytes (if x.kind = 5 || x.kind = 6 then 65536 else 256)
  match x.use with
  | .load _ => s.countTenant x.ctx tPagesIn 1
  | .writeOut _ => s.countTenant x.ctx tPagesOut 1
  | .logPage _ => s.countTenant x.ctx tPagesOut 1
  | _ => s

/-- Addresses at a local destination of a transfer's data. -/
def landAddrs (x : Strm) (i : Nat) : List Nat :=
  let d := x.desc
  if x.kind = 3 then (List.range 1024).map (fun j => modAddr (sdDst d) + 1024 * i + j)
  else if x.kind = 6 then
    (List.range (min 65536 (256 * sdTransfers d - 65536 * i))).map (fun j => modAddr (sdDst d) + 65536 * i + j)
  else sdDstAddrs d i

/-- A transfer's data is written at its destination. -/
def State.landData (s : State) (x : Strm) (i : Nat) (data : Bytes) : State :=
  if decide (x.desc ≠ []) && isLocal (sdDstKind x.desc) then
    { s with mem := ((landAddrs x i).zip data).foldl (fun m p => writeByte m p.1 p.2) s.mem }
  else s

/-- What reading the source's lines met (R146, R149, R152). -/
def State.landLine (s : State) (x : Strm) (i : Nat) (line : HbmOutcome) : State :=
  let a := (sdSrcAddrs x.desc i).headD 0
  if x.desc ≠ [] then
    if sdSrcKind x.desc = epTile then s.bankLine (endTile (sdSrc x.desc)) line
    else if sdSrcKind x.desc = epHbm then
      let base := match s.base.extent with | some e => decide (e.1 ≤ a) && decide (a < e.1 + e.2) | none => false
      match line with
      | .crcMismatch => s
      | _ => s.hbmLine a (if base then .baseModel else .extent x.ctx) line
    else s
  else match x.use with
    | .writeOut v => s.areaLine false (.committed v) line
    | .exporting _ v _ _ _ => s.areaLine false (.committed v) line
    | .logPage _ => (match line with | .crcMismatch => s | _ => s.areaLine true .moduleArea line)
    | .feed _ => (match line with | .crcMismatch => s | _ => s.areaLine false .baseModel line)
    | _ => s

/-- Whether a line read brought no data. -/
def lineLost (x : Strm) (line : HbmOutcome) : Bool :=
  match line with
  | .clean => false
  | .corrected => false
  | .uncorrectable => decide (x.desc = []) || isLocal (sdSrcKind x.desc)
  | .crcMismatch => decide (x.desc = []) && (match x.use with | .feed _ => false | _ => true)

/-- A transfer of the base model's page was lost: the page is read again from its image and the reading work waits; a step that read it
runs again as for a failed tile (R149). -/
def State.baseLost (s : State) (ctx : Nat) : State :=
  match s.ctx ctx with
  | some c => match c.running with
    | some ⟨.micro v n _, _⟩ => (s.rerunUnit ctx).loseStep v n
    | _ => s
  | none => s

/-- A transfer whose source line was lost takes its stream with it: an extent's ends the program that read it, or a command's stream,
with TASK_ABORTED, a read of committed state ends with ADAPTER_LOAD_FAILED (R149). A page of the base model is read again, and the
transfer waits. -/
def State.loseTransfer (s : State) (id : Nat) (x : Strm) (i : Nat) (line : HbmOutcome) : State :=
  let s := s.landLine x i line
  let a := (sdSrcAddrs x.desc i).headD 0
  let base := match s.base.extent with | some e => decide (x.desc ≠ []) && decide (e.1 ≤ a) && decide (a < e.1 + e.2) | none => false
  if base then s
  else match x.use with
    | .feed _ => s.baseLost x.ctx
    | .program _ => if sdSrcKind x.desc = epHbm then s.endProgram x.ctx stTaskAborted else s
    | _ =>
      match s.strm id with
      | some y => (match y.st with
        | .ended _ => s
        | _ => s.failStrm id (if x.desc = [] then stAdapterLoadFailed else stTaskAborted))
      | none => s

/-- A stream that drains: what lands is discarded; the last one zeroes its buffer and lets it go (R170). -/
def State.drainOne (s : State) (id : Nat) (x : Strm) (i : Nat) : State :=
  let left := x.outstanding.filter (fun p => decide (p.1 ≠ i))
  let s := s.modStrm id (fun x => { x with outstanding := left })
  if left ≠ [] then s
  else
    let s := s.zeroBuffer x.desc
    match x.use, (match s.ctx x.ctx with | some c => c.prog.isSome | none => false) with
    | .program _, true => s
    | _, _ => s.delStrm id

/-- A transfer lands: its data at the destination, its credit free (R160). A half of a feed that has landed whole starts its operation
(R164). -/
def State.landOne (s : State) (id : Nat) (x : Strm) (i : Nat) (data : Bytes) : State :=
  let s := (s.landData x i data).countLand x
  let half := feedHalf s.baseFormat
  let s := s.modStrm id (fun x =>
    { x with
      outstanding := x.outstanding.filter (fun p => decide (p.1 ≠ i)), landed := x.landed ++ [i],
      halves := match x.use with | .feed _ => firstGap (x.landed ++ [i]) / half | _ => x.halves })
  match s.strm id with
  | some y => if y.desc = [] && y.allLanded then s.finishPages id y else s
  | none => s

/-- What came from a host window leaves the port's receive buffer (R235). -/
def State.drainHost (s : State) (x : Strm) : State :=
  if sdSrcKind x.desc = epHost && decide (x.desc ≠ []) then
    match s.hostWindow x.ctx (sdSrc x.desc) with | some (r, _) => s.drainQp r.qpn | none => s
  else s

/-- TRANSFER_LAND (R160): transfer `index` of a stream lands, or its write is acknowledged. A host source's data come with it. -/
def execTransferLand (id index : Nat) (bytes : Bytes) (line : HbmOutcome) (s : State) : Res :=
  match s.strm id with
  | some x =>
    match x.outstanding.find? (fun p => decide (p.1 = index)) with
    | none => .next s
    | some p =>
      if !s.hbmUp then .next s
      else if !x.discard && !lineLost x line && decide (x.desc ≠ []) && isLocal (sdDstKind x.desc) && s.spoilsInputs (landAddrs x index) then
        .fault .overlap
      else if x.discard then started (.next (s.drainOne id x index))
      else if decide (x.desc ≠ []) && s.endSleeps (sdDstKind x.desc) (sdDst x.desc) then .next (s.touchTile (endTile (sdDst x.desc)))
      else if lineLost x line then started (.next (s.loseTransfer id x index line))
      else
        let data := if decide (x.desc ≠ []) && decide (x.kind ≠ 6) && decide (sdSrcKind x.desc = epHost) then slice bytes 0 256 else p.2
        started (.next (((s.landLine x index line).drainHost x).landOne id x index data))
  | none => .next s

end Sys2Proof.Machine
end

