-- ==== Sys2Proof/Machine/Streams.lean ====
section
/-! DEFINITION. Streams opened, resumed, closed and stalled (R154, R157, R162, R167, R168, R170 to R172, R284, R357 to R359,
R455). -/

namespace Sys2Proof.Machine

/-- Landings of a descriptor's stream: transfers, or pages of 256. -/
def sdLandings (d : Bytes) : Nat := if sdKind d = 5 || sdKind d = 6 then (sdTransfers d + 255) / 256 else sdTransfers d

/-- A stream of a descriptor, waiting to open. -/
def State.strmOf (s : State) (ctx id : Nat) (c : Ctx) (use : StreamUse) (d : Bytes) : Strm :=
  newStrm ctx id use (sdKind d) (s.engineFor c.settings d) d (sdLandings d)

/-- Whether an open finds no slot: its engine is full, or the context's cap leaves no room (R157, R284). -/
def State.noSlot (s : State) (x : Strm) (c : Ctx) : Bool :=
  decide (16 ≤ (s.onEngine x.engine).length) || !s.capFits c.settings.caps x

/-- A waiting stream opens when all it needs can be reserved; a PAGE_OUT then takes its block of page_seq values, and a
STREAM_OPEN hears of it (R167, R358, R427). -/
def State.openStrm (s : State) (k : Nat) : State :=
  match s.strm k with
  | some x =>
    if x.st = .waiting && s.canOpen x then
      let base := match s.ctx x.ctx with | some c => c.pageSeq | none => 0
      let n := if x.kind = 5 then x.total else 0
      let s := (s.modStrm k (fun x => { x with st := .running, baseSeq := base })).modCtx x.ctx (fun c => { c with pageSeq := c.pageSeq + n })
      match x.use with
      | .command t => s.interim t stOk [p32 0x81 x.id]
      | _ => s
    else s
  | none => s

/-- STREAM_OPEN's work: the checks before any byte moves, then the open, or the wait for what it needs. -/
def State.beginStream (s : State) (t : Ticket) (c : Ctx) (d : Bytes) : State :=
  if !s.ownsEnds c d || sdUnchecked d then s.answer t stNotPermitted
  else
    let x := s.strmOf t.ctx c.nextStream c (.command t) d
    if s.noSlot x c then s.answer t stBusy
    else
      let s := s.modCtx t.ctx (fun c => { c with nextStream := c.nextStream % (2 ^ 32 - 1) + 1 })
      let (k, s) := s.addStrm x
      s.openStrm k

/-- STREAM_OPEN (R358). A descriptor outside R162 is undefined. -/
def execStreamOpen (c : Cmd) (descriptor : Bytes) (s : State) : Res :=
  gaffer opStreamOpen c (fun t s =>
    match s.ctx c.ctx with
    | none => .next (s.answer t stContextGone)
    | some x =>
      if !sdValid s.profile.split descriptor then .fault .streamDescriptor
      else started (.next (s.beginStream t x descriptor))) s

/-- STREAM_RESERVE (R167): a waiting stream opens once its buffers and credits can be reserved whole. -/
def execStreamReserve (id : Nat) (s : State) : Res :=
  match s.strm id with
  | some x =>
    match s.ctx x.ctx with
    | some c => if decide (x.desc ≠ []) && s.noSlot x c then .next s else started (.next (s.openStrm id))
    | none => .next s
  | none => .next s

/-- The streams of a context that go by an id. -/
def State.streamsById (s : State) (ctx id : Nat) (p : StreamState → Bool) : List Nat :=
  s.streamsFor (fun x => decide (x.ctx = ctx) && decide (x.id = id) && decide (x.desc ≠ []) && !x.discard && p x.st)

/-- Whether a stream is halted. -/
def StreamState.isHalted : StreamState → Bool
  | .halted _ _ => true
  | _ => false

/-- Whether a stream is open or halted. -/
def StreamState.isOpen : StreamState → Bool
  | .running => true
  | .halted _ _ => true
  | _ => false

/-- A halted stream runs on, for the command that resumed it (R172, R358). -/
def Strm.resume (x : Strm) (t : Ticket) : Strm :=
  match x.use with
  | .command _ => { x with st := .running, use := .command t }
  | _ => { x with st := .running, later := some t }

/-- STREAM_OPEN with resume (R172, R358). -/
def execStreamOpenResume (c : Cmd) (id : Nat) (s : State) : Res :=
  gaffer opStreamOpen c (fun t s =>
    match s.streamsById c.ctx id StreamState.isHalted with
    | [] => .next (s.answer t stNotPermitted)
    | k :: _ => started (.next (s.modStrm k (fun x => x.resume t)))) s

/-- Whether an operation in a tile's queue reads the buffer of a stream (R455). -/
def State.bufferRead (s : State) (x : Strm) : Bool :=
  decide (sdDstKind x.desc = epTile) &&
  (let n := endTile (sdDst x.desc)
   let lo := modAddr (sdDst x.desc) % tileBytes
   (s.tile n).queue.any (fun q => (aoInputs (s.arrayIn n) q.desc).any (fun r => overlaps r.1 r.2 lo (256 * sdBufUnits x.desc))))

/-- STREAM_CLOSE (R359): always OK. Closed while an operation still reads its buffer, what follows is undefined (R455). -/
def execStreamClose (c : Cmd) (id : Nat) (s : State) : Res :=
  gaffer opStreamClose c (fun t s =>
    match s.streamsById c.ctx id StreamState.isOpen with
    | [] => .next (s.answer t stOk)
    | k :: _ =>
      if (match s.strm k with | some x => s.bufferRead x | none => false) then .fault .resetOrder
      else started (.next ((s.failStrm k stTaskAborted).answer t stOk))) s

/-- Whether a stream can stall: that of a unit's answers while an answer of another member is awaited (R224). -/
def State.mayStall (s : State) (x : Strm) : Bool :=
  decide (x.use ≠ .answers) || (match s.ctx x.ctx with | some c => decide (s.awaitedHomes c ≠ []) | none => false)

/-- STREAM_STALL (R170): a stream that runs has completed no transfer within its limit. -/
def execStreamStall (id : Nat) (s : State) : Res :=
  match s.strm id with
  | some x => if x.st = .running && s.hbmUp && s.mayStall x then started (.next (s.stallStrm id)) else .next s
  | none => .next s

end Sys2Proof.Machine
end

