-- ==== Sys2Proof/Machine/Power.lean ====
section
/-! DEFINITION. Power: stalled crossings, sleep and wake, the adaptive loops, power windows and temperatures (R243, R436 to R449). -/

namespace Sys2Proof.Machine

/-! ## Crossings (R437, R439, R440) -/

/-- Whether a grade has a clock domain (R437). -/
def domainExists (grade d : Nat) : Bool :=
  if d ≤ 59 then !(decide (grade = 2) && [37, 38, 45, 46].contains d) else decide (grade = 3) && decide (d ≤ 65)

/-- The port of a port's clock domain. -/
def domainPort (d : Nat) : Option Nat :=
  if 47 ≤ d && d ≤ 54 then some ((d - 47) / 2) else if 60 ≤ d && d ≤ 63 then some (4 + (d - 60) / 2) else none

/-- The I/O die of an optics control domain. -/
def domainOptics (d : Nat) : Option Nat := if d = 57 || d = 58 then some (d - 57) else if d = 65 then some 2 else none

/-- The quadrant of a core clock domain. -/
def domainQuad (d : Nat) : Option Nat := if 3 ≤ d && d ≤ 18 then some (d - 3) else none

/-- Whether a port is up. -/
def State.portUp (s : State) (p : Nat) : Bool := if s.ringPort p then decide ((s.link p).st = .up) else (s.port p).up

/-- Whether a domain runs, in each state of the module (R437, R454, R459): a port's while the port is up, a quadrant's while it is in
service. -/
def State.domainRuns (s : State) (d : Nat) : Bool :=
  let place := (match domainPort d with | some p => s.portUp p | none => true) &&
    (match domainQuad d with | some q => !(s.quad q).outOfService | none => true)
  domainExists s.fuses.grade d && place &&
  (match s.power.mode with
   | .active => true
   | .quiet => decide (d < 3) || decide (47 ≤ d)
   | .dormant => decide (d = 0) || decide (47 ≤ d)
   | .starting n => decide (d = 0) || decide (2 ≤ n ∧ (d = 1 ∨ 55 ≤ d)) || decide (3 ≤ n ∧ d = 2) || decide (4 ≤ n ∧ 3 ≤ d)
   | .failed => decide (d = 0) || (domainOptics d).isSome || decide (d = 59)
   | _ => false)

/-- The record of a stall: where it was, and the two domains (R408, R437, assumption log 28). -/
def stallRecord (src dst outcome : Nat) : FaultRecord :=
  { blankRecord fkCdcStall outcome with
    die := match domainQuad src, domainPort src with
      | some q, _ => q / 4
      | none, some p => 0x10 + p / 2
      | none, none => (match domainOptics src with | some n => 0x10 + n | none => 0xFF),
    quadrant := match domainQuad src with | some q => q % 4 | none => 0xFF,
    index := (domainPort src).getD 0xFF, detail0 := src, detail1 := dst }

/-- CDC_STALL (R439): outcome 2 QUADRANT_OUT, 3 PORT_DOWN, 4 RESTARTED. -/
def State.raiseStall (s : State) (src dst outcome : Nat) : State :=
  s.raiseModule evCdcStall [p8 0x90 src, p8 0x91 dst, p8 0x92 outcome]

/-- A stall that leaves the module running is recorded with an outcome the spec does not tie to it, and raised. -/
def State.noteStall (s : State) (src dst outcome : Nat) : State :=
  let (o, s) := s.freeOutcome
  (s.record (stallRecord src dst o)).raiseStall src dst outcome

/-- A quadrant goes out of service (R439): its tiles are lost as retired ones are, with no spare taken and none listed. -/
def State.quadrantOut (s : State) (q : Nat) : State :=
  let tiles := ((List.range 16).map (fun i => 16 * q + i)).filter (fun n => !s.vacant n)
  let s := eachDo tiles (fun n s => (s.loseTile n).vacate n) s
  let s : State := { s with spares := s.spares.del q }
  (s.modQuad q (fun k => { k with outOfService := true })).raiseDegraded 1 (16 * q)

/-- The traffic of a port is held while it retrains; a fabric port goes down (R237, R249, R439). -/
def State.dropPort (s : State) (p : Nat) : State :=
  if s.ringPort p then s.holdLink p else if s.fabric p && (s.port p).up then s.fabricDown p else s

/-- CROSSING_TIMEOUT (R439): the outcome of the source domain. A crossing with a domain that does not run is in hold (R440). -/
def execCrossingTimeout (src dst : Nat) (s : State) : Res :=
  if src = 0 || src = dst || !s.domainRuns src || !s.domainRuns dst then .next s
  else match domainQuad src, domainPort src, domainOptics src with
    | some q, _, _ => settled (.next ((s.quadrantOut q).noteStall src dst 2))
    | none, some p, _ => thenReset (settled (.next ((s.dropPort p).noteStall src dst 3)))
    | none, none, some n => thenReset (settled (.next (((s.dropPort (2 * n)).dropPort (2 * n + 1)).noteStall src dst 3)))
    | none, none, none =>
      if src = 59 then .next (s.noteStall src dst 4)
      else .next ((s.record (stallRecord src dst 4)).enterFailed)

/-! ## QUIET and DORMANT (R443 to R446) -/

/-- Whether a stream is open, halted, or waits to open. -/
def Strm.live (x : Strm) : Bool := match x.st with | .ended _ => decide (x.outstanding ≠ []) | _ => true

/-- Whether a variant's load or write-out is pending. -/
def Var.moves (v : Var) : Bool := match v.st with | .loading => true | .evicting => true | .writing => true | _ => false

/-- The conditions of R444: nothing ready or running, no stream, no reply awaited, no event queued, no load, write-out, lehr write,
base model load or automatic step pending, and no packet waiting. -/
def State.idleNow (s : State) : Bool :=
  s.ctxs.all (fun p => !s.hasUnit p.1 p.2) && decide (s.bundles = []) && s.streams.vals.all (fun x => !x.live) &&
  s.sessions.vals.all (fun ss => decide (ss.awaiting = []) && decide (ss.egress = [])) &&
  s.vars.all (fun p => !p.2.moves && !s.autoDue p.1) && decide (s.steps = []) && s.base.loading.isNone &&
  s.qps.vals.all (fun q => decide (q.inbox = []))

/-- A tile enters NAP: its stationary registers and marver buffers are lost (R441). -/
def Tile.toNap (t : Tile) : Tile := { t with power := .nap, waking := false, loaded := [], marver := [] }

/-- QUIET_ENTRY (R444): a quiet_after of 0 never enters. -/
def execQuietEntry (s : State) : Res :=
  if s.power.mode = .active && decide (0 < s.profile.quietAfter) && !s.fw.offline && s.idleNow then
    .next ({ s with tiles := s.tiles.each (fun _ t => t.toNap) }.modPower (fun p => { p with mode := .quiet, waking := false }))
  else .next s

/-- DORMANT_ENTRY (R445): every context FREE and no session open; the compute dies lose power. -/
def execDormantEntry (s : State) : Res :=
  if s.power.mode = .quiet && !s.power.waking && decide (0 < s.profile.dormantAfter) && s.idleNow && decide (s.ctxs = []) &&
      decide (s.sessions = []) then
    .next ({ s with tiles := s.tiles.each (fun _ _ => Tile.reset), mem := zeroRange s.mem 0 0x80000000 }.modPower
      (fun p => { p with mode := .dormant }))
  else .next s

/-- What a frame that waited in the local pool does (R243). A bundle's pieces do it once. -/
def State.usePooled (s : State) (f : Frame) : State :=
  match f.payload with
  | .reduce v m => s.takeReduce v f.src m
  | .announce m => s.takeAnnounce f.src f.ctx m
  | .bundle b =>
    if b.kind = 1 || b.kind = 3 then s.receiveBundle b
    else if b.kind = 2 || b.kind = 4 then s.takeBack b
    else if b.kind = 5 && decide (s.incarnation b.ctx = b.incarnation) then s.sendExpert b.ctx b.layer b.expert
    else s
  | _ => s

/-- The frames of a pool of which each is the first with its payload: a bundle's later pieces name what the first has brought. -/
def firstPieces : List Frame → List Frame → List Frame
  | _, [] => []
  | seen, f :: fs =>
    let again := f.msgType = 2 && seen.any (fun g => decide (g.msgType = 2) && decide (g.payload = f.payload))
    if again then firstPieces seen fs else f :: firstPieces (f :: seen) fs

/-- The frames that waited in a port's local pool are delivered, and their credits freed (R243, R246). -/
def State.deliverPool (s : State) (p : Nat) : State :=
  let due := (s.link p).localPool.filter (fun f => decide (f.msgType ≠ 1))
  let s := s.modLink p (fun l => { l with localPool := l.localPool.filter (fun f => decide (f.msgType = 1)) })
  let s := eachDo due (fun f s => s.freeLocal p f) s
  eachDo (firstPieces [] due) (fun f s => s.usePooled f) s

/-- The module is ACTIVE again: THERMAL that was found asleep is raised, and what waited is delivered (R243, R444, R449). -/
def State.awake (s : State) : State :=
  let due := s.power.thermalDue
  let s := s.modPower (fun p => { p with mode := .active, waking := false, thermalDue := [] })
  let s := eachDo due (fun e s => s.raise e) s
  (s.deliverPool west).deliverPool east

/-- WAKE_COMPLETE (R444, R445): from DORMANT the tiles come back zeroed. -/
def execWakeComplete (s : State) : Res :=
  if !s.power.waking then .next s
  else match s.power.mode with
    | .quiet => started (.next s.awake)
    | .dormant => started (.next { s with tiles := s.tiles.each (fun _ _ => s.startedTile) }.awake)
    | _ => .next s

/-! ## Adaptive loops (R447, R448) -/

/-- Whether the loops of a quadrant run. -/
def State.loopRuns (s : State) (q : Nat) : Bool :=
  (match s.power.mode with | .active => true | .starting n => decide (5 ≤ n) | _ => false) &&
  (match s.power.quads.find q with | some k => !k.outOfService | none => false)

/-- One step of a value up or down between bounds. -/
def stepNat (step lo hi v : Nat) : Move → Nat
  | .up => min (v + step) hi
  | .hold => v
  | .down => max (v - step) lo

/-- VOLTAGE_LOOP_PERIOD (R447): 0.600 to 0.900 V in steps of 5 mV. A stretch of the clock has long ended. -/
def execVoltageLoopPeriod (quadrant : Nat) (ask : Move) (s : State) : Res :=
  if s.loopRuns quadrant then
    .next (s.modQuad quadrant (fun k => { k with millivolts := stepNat 5 600 900 k.millivolts ask, stretch := false }))
  else .next s

/-- The core clock a quadrant steps to (R447 to R449): it rises only when pacing is 0 and no temperature level is set, and falls while
one is. -/
def State.nextMhz (s : State) (mhz : Nat) (ask : Move) : Nat :=
  if 0 < s.power.level then stepNat 25 1250 s.profile.maxCoreMhz mhz .down
  else if ask = .up && decide (0 < s.power.pacing) then mhz
  else stepNat 25 1250 s.profile.maxCoreMhz mhz ask

/-- FREQUENCY_LOOP_PERIOD (R447, R448). -/
def execFrequencyLoopPeriod (quadrant : Nat) (ask : Move) (s : State) : Res :=
  if s.loopRuns quadrant then .next (s.modQuad quadrant (fun k => { k with mhz := s.nextMhz k.mhz ask })) else .next s

/-- One step of the body bias (R447). -/
def stepBias (v : Int) : Move → Int
  | .up => min (v + 25) 300
  | .hold => v
  | .down => max (v - 25) (-300)

/-- THRESHOLD_LOOP_PERIOD (R447): −300 to +300 mV in steps of 25 mV. -/
def execThresholdLoopPeriod (quadrant : Nat) (ask : Move) (s : State) : Res :=
  if s.loopRuns quadrant then .next (s.modQuad quadrant (fun k => { k with bias := stepBias k.bias ask })) else .next s

/-- SUPPLY_DROOP (R447): the core clock is stretched. -/
def execSupplyDroop (quadrant : Nat) (s : State) : Res :=
  if s.loopRuns quadrant then .next (s.modQuad quadrant (fun k => { k with stretch := true })) else .next s

/-- The quadrants in service. -/
def State.quadsIn (s : State) : Tab Quadrant := s.power.quads.keep (fun _ k => !k.outOfService)

/-- Every quadrant above 1.25 GHz steps down. -/
def State.stepDownAll (s : State) : State :=
  s.modPower (fun p => { p with quads := p.quads.each (fun _ k => { k with mhz := stepNat 25 1250 1450 k.mhz .down }) })

/-- The pacing after a window (R448, R449): it rises while THROTTLE holds, and above the cap once every clock is at 1.25 GHz; it falls 50 W
or more below the cap. In sixteenths. -/
def State.nextPacing (s : State) (watts : Nat) : Nat :=
  let floor := s.quadsIn.vals.all (fun k => decide (k.mhz ≤ 1250))
  let f := s.power.pacing
  if s.power.level = 2 || (decide (s.profile.powerCap < watts) && floor) then min (f + 1) 15
  else if watts + 50 ≤ s.profile.powerCap then f - 1
  else f

/-- POWER_CAP_WINDOW (R448). -/
def execPowerCapWindow (meanWatts : Nat) (s : State) : Res :=
  match s.power.mode with
  | .active =>
    let f := s.nextPacing meanWatts
    let s := if s.profile.powerCap < meanWatts then s.stepDownAll else s
    .next (s.modPower (fun p => { p with pacing := f }))
  | _ => .next s

/-- POWER_REPORT_WINDOW (R436): the mean of the window, rounded down to a multiple of 5 W. -/
def execPowerReportWindow (meanWatts : Nat) (s : State) : Res :=
  if s.power.mode = .unpowered then .next s else .next (s.modPower (fun p => { p with reported := meanWatts / 5 * 5 }))

/-! ## Temperatures (R449) -/

/-- Whether a grade has a sensor. -/
def sensorExists (grade source : Nat) : Bool :=
  decide (source < 4) || (decide (0x10 ≤ source) && decide (source < 0x10 + ioDies grade)) ||
  (decide (0x20 ≤ source) && decide (source < 0x20 + stackCount grade))

/-- The threshold of a level (1 WARN, 2 THROTTLE, 3 SHUTDOWN) at a sensor, and the value below which the level clears. -/
def tempReach (level source : Nat) : Int := (if source < 0x20 then 85 else 75) + 10 * (level : Int)
def tempClear (level source : Nat) : Int := tempReach level source - 5

/-- Whether any sensor has reached a level, and whether all have fallen below its clearing value. -/
def reached (temps : Tab Int) (level : Nat) : Bool := temps.any (fun x => decide (tempReach level x.1 ≤ x.2))
def cleared (temps : Tab Int) (level : Nat) : Bool := temps.all (fun x => decide (x.2 < tempClear level x.1))

/-- The level after a reading. -/
def nextLevel (temps : Tab Int) (level : Nat) : Nat :=
  if reached temps 2 || (decide (level = 2) && !cleared temps 2) then 2
  else if reached temps 1 || (decide (1 ≤ level) && !cleared temps 1) then 1
  else 0

/-- THERMAL (R449). -/
def thermalEvent (level source : Nat) (celsius : Int) : Event :=
  { code := evThermal, ctx := none, incarnation := 0, causeSeq := 0, step := 0, variant := 0,
    params := [p8 0x90 level, p8 0x91 source, (0x92, [ofS8 celsius])] }

/-- THERMAL is raised, or waits for the wake it begins (R444, R449). -/
def State.noteThermal (s : State) (e : Event) : State :=
  if s.asleep then (s.modPower (fun p => { p with thermalDue := p.thermalDue ++ [e] })).wakeTrigger else s.raise e

/-- The record of a thermal shutdown. -/
def thermalRecord (source : Nat) : FaultRecord :=
  { blankRecord fkThermalShutdown 4 with
    die := if source < 0x20 then source else 0xFF, index := if source < 0x20 then 0xFF else source - 0x20 }

/-- Whether the module can be shut down: it is powered, and not failed or in reset. -/
def State.running (s : State) : Bool :=
  match s.power.mode with | .starting _ => true | .active => true | .quiet => true | .dormant => true | _ => false

/-- TEMPERATURE_LEVEL_CHANGE (R449). -/
def execTemperatureLevelChange (source : Nat) (celsius : Int) (s : State) : Res :=
  if s.power.mode = .unpowered || !sensorExists s.fuses.grade source then .next s
  else
    let was := s.power.level
    let temps := s.power.temps.put source celsius
    let level := nextLevel temps was
    let s := s.modPower (fun p => { p with temps := temps, level := level })
    if !s.running then .next s
    else if tempReach 3 source ≤ celsius then .next ((s.record (thermalRecord source)).enterFailed)
    else .next (if level = was then s else s.noteThermal (thermalEvent level source celsius))

end Sys2Proof.Machine
end

