-- ==== Sys2Proof/Machine/Programs.lean ====
section
/-! DEFINITION. Command programs: loading and running them, and their operations (R143, R282, R354 to R356, R395). -/

namespace Sys2Proof.Machine

/-! ## LOAD_PROGRAM and RUN_PROGRAM (R354, R356) -/

/-- Whether every operation code of a program is one of the table (R355). -/
def opsKnown (p : Bytes) : Bool :=
  (List.range (progLen p)).all (fun i => decide (1 ≤ poCode (progOp p i)) && decide (poCode (progOp p i) ≤ 0x0A))

/-- LOAD_PROGRAM (R354). A list that is not of whole operations is malformed (R302). -/
def execLoadProgram (c : Cmd) (programNo : Nat) (program : Bytes) (s : State) : Res :=
  gaffer opLoadProgram c (fun t s =>
    if program.length % 80 ≠ 0 then .fault .malformedBody
    else match s.ctx c.ctx with
      | none => .next (s.answer t stContextGone)
      | some x =>
        if 64 ≤ programNo || !opsKnown program then .next (s.answer t stNotPermitted)
        else if (match x.prog with | some p => decide (p.programNo = programNo) | none => false) then .next (s.answer t stBusy)
        else
          let digest := sha384 program
          let s := s.modCtx c.ctx (fun x => { x with programs := x.programs.put programNo (program, digest) })
          .next (s.answerWith t stOk [(0x81, digest)])) s

/-- RUN_PROGRAM (R356): it waits its turn behind the context's other programs. -/
def execRunProgram (c : Cmd) (programNo : Nat) (s : State) : Res :=
  gaffer opRunProgram c (fun t s =>
    match s.ctx c.ctx with
    | none => .next (s.answer t stContextGone)
    | some x =>
      if (x.programs.find programNo).isNone then .next (s.answerWith t stNotPermitted [p32 0x81 0, p32 0x82 0])
      else settled (.next (s.modCtx c.ctx (fun x => { x with runQueue := x.runQueue ++ [(t, programNo)] })))) s

/-! ## Operations -/

/-- The operation a program of a context would run now, when its unit runs and the operation has a code. -/
def State.nextOp (s : State) (ctx code : Nat) : Option (Ctx × ProgRun × Bytes) :=
  match s.ctx ctx with
  | some c =>
    match c.running, c.prog with
    | some ⟨.program, _⟩, some p =>
      let o := progOp p.program p.index
      if s.hbmUp && !s.fw.offline && !p.atBoundary && !p.over && decide (poCode o = code) then some (c, p, o) else none
    | _, _ => none
  | none => none

/-- The operation has run. -/
def State.opDone (s : State) (ctx : Nat) : State :=
  s.modCtx ctx (fun c => { c with prog := c.prog.map (fun p => { p with index := p.index + 1 }) })

/-- The tiles a target names: one, or every tile of the group. -/
def targetTiles (c : Ctx) (n : Nat) : List Nat := if n = 0xFFFF then c.settings.group else [n]

/-- ARRAY (R355): an array operation is queued on its tile; a full queue makes it wait (R49). -/
def execArray (ctx : Nat) (s : State) : Res :=
  match s.nextOp ctx 0x01 with
  | some (c, _, o) =>
    let n := poTarget o
    let d := slice (poBody o) 0 32
    if !s.ownTile c n || !s.ownOperation c n d then started (.next (s.endProgram ctx stNotPermitted))
    else if 32 ≤ (s.tile n).queue.length then .next s
    else started (.next ((s.enqueueOp n ctx d).opDone ctx))
  | none => .next s

/-- The program's stream in a slot. -/
def State.slotStream (s : State) (ctx slot : Nat) : Option (Nat × Strm) :=
  s.streams.find? (fun p => decide (p.2.ctx = ctx) && decide (p.2.use = .program slot) && decide (p.2.id = 0x80000000 + slot))

/-- STREAM (R355): a stream opens in a slot; the operation waits until it can, and for the slot's stream before it to end. -/
def execStream (ctx : Nat) (s : State) : Res :=
  match s.nextOp ctx 0x02 with
  | some (c, _, o) =>
    let d := poBody o
    let slot := poTarget o
    if !sdValid s.profile.split d then .fault .streamDescriptor
    else if 64 ≤ slot || !s.ownsEnds c d then started (.next (s.endProgram ctx stNotPermitted))
    else
      let old := s.slotStream ctx slot
      if (match old with | some (_, x) => (match x.st with | .ended _ => decide (x.outstanding ≠ []) | _ => true) | none => false) then .next s
      else
        let s := match old with | some (k, _) => s.delStrm k | none => s
        let x := s.strmOf ctx (0x80000000 + slot) c (.program slot) d
        if s.noSlot x c || !s.canOpen x then .next s
        else if sdUnchecked d && !(s.creditsFit x && s.bufferFree d) then .fault .uncheckedStream
        else
          let (k, s) := s.addStrm x
          started (.next ((s.openStrm k).opDone ctx))
  | none => .next s

/-- WAIT_STREAM (R355): goes on when the slot's stream has ended with OK; another status ends the program with it. -/
def execWaitStream (ctx : Nat) (s : State) : Res :=
  match s.nextOp ctx 0x03 with
  | some (_, _, o) =>
    match s.slotStream ctx (poTarget o) with
    | none => .next (s.opDone ctx)
    | some (_, x) =>
      match x.st with
      | .ended st => if st = stOk then .next (s.opDone ctx) else started (.next (s.endProgram ctx st))
      | _ => .next s
  | none => .next s

/-- WAIT_TILE (R355): goes on when the queue of its tile, or of every tile of the group, is empty. -/
def execWaitTile (ctx : Nat) (s : State) : Res :=
  match s.nextOp ctx 0x04 with
  | some (c, _, o) =>
    let l := targetTiles c (poTarget o)
    if !l.all (s.ownTile c) then started (.next (s.endProgram ctx stNotPermitted))
    else if l.all (fun n => decide ((s.tile n).queue = [])) then .next (s.opDone ctx)
    else .next s
  | none => .next s

/-- BOUNDARY (R282, R355): a preemption point. -/
def execBoundary (ctx : Nat) (s : State) : Res :=
  match s.nextOp ctx 0x05 with
  | some _ => .next ((s.opDone ctx).modCtx ctx (fun c => { c with prog := c.prog.map (fun p => { p with atBoundary := true }) }))
  | none => .next s

/-- ROUNDING (R71, R355). -/
def execRounding (ctx : Nat) (s : State) : Res :=
  match s.nextOp ctx 0x06 with
  | some (c, _, o) =>
    let n := poTarget o
    if !s.ownTile c n then started (.next (s.endProgram ctx stNotPermitted))
    else .next ((s.modTile n (fun t => { t with rounding := slice (poBody o) 0 32 })).opDone ctx)
  | none => .next s

/-- DERIVATIVE (R98, R355). -/
def execDerivative (ctx : Nat) (s : State) : Res :=
  match s.nextOp ctx 0x07 with
  | some (c, _, o) =>
    let n := poTarget o
    if !s.ownTile c n then started (.next (s.endProgram ctx stNotPermitted))
    else .next ((s.modTile n (fun t => { t with deriv := slice (poBody o) 0 32 })).opDone ctx)
  | none => .next s

/-! ## FINITE_CHECK (R76, R128, R355) -/

/-- The owner positions of a FINITE_CHECK, in rank order. -/
def fcOwners (o : Bytes) : List Nat := (List.range (field (poBody o) 8 1)).map (fun i => field (poBody o) (9 + i) 1)

/-- The flags and statistics of a context's tiles for a set, layer by layer. -/
def State.groupStats (s : State) (c : Ctx) (set : Nat) : List LayerStat :=
  (List.range 256).map (fun l =>
    ((c.settings.group.filter (fun n => !s.vacant n)).map (fun n => ((s.tile n).sets.getD set []).getOr l zeroStat)).foldl addStat zeroStat)

/-- The set of a step is released on a context's tiles (R76). -/
def State.clearGroupSet (s : State) (c : Ctx) (set : Nat) : State :=
  eachDo (c.settings.group.filter (fun n => !s.vacant n)) (fun n s => s.modTile n (fun t => { t with sets := t.sets.set set [] })) s

/-- FINITE_CHECK (R128, R355): flags and statistics reduced over the owners; `othersBad` is what the other owners report. A
non-finite result ends the program. -/
def execFiniteCheck (ctx : Nat) (othersBad : Bool) (s : State) : Res :=
  match s.nextOp ctx 0x08 with
  | some (c, _, o) =>
    let step := field (poBody o) 0 8
    let stats := s.groupStats c (step % 3)
    let others := (fcOwners o).filter (fun p => decide (p ≠ s.pos))
    let bad := anyNonfinite stats
    let s := s.clearGroupSet c (step % 3)
    let s := eachDo others (fun p s => s.ringSend p 3 ctx (msgLength 3) (.reduce 0 (.check step bad stats))) s
    if bad || (othersBad && decide (others ≠ [])) then started (.next (s.endProgram ctx stSkipped))
    else .next (s.opDone ctx)
  | none => .next s

/-! ## UPDATE (R120 to R124, R138 to R140, R143, R355) -/

/-- The body of an UPDATE. -/
structure UpdateOp where
  rule : Nat
  layer : Nat
  s : Int
  inPlace : Bool
  rows : Nat
  cols : Nat
  grad : Nat
  master : Nat
  state : Nat
  next : Nat
  cur : Nat
  settings : RuleSet
  alpha : Word
  t : Nat
  deriving DecidableEq, Repr

/-- An FP32 field. -/
def wordAt (b : Bytes) (o : Nat) : Word := BitVec.ofNat 32 (field b o 4)

/-- The body of an UPDATE as laid out in R355. -/
def updateOf (o : Bytes) : UpdateOp :=
  let b := poBody o
  let rule := field b 0 1
  { rule := rule, layer := field b 1 1, s := s8 (field b 2 1), inPlace := bit (field b 3 1) 0, rows := field b 4 4, cols := field b 8 4,
    grad := field b 12 4, master := field b 16 4, state := field b 20 4, next := field b 24 4, cur := field b 28 4,
    settings := { rule := rule, lr := wordAt b 32, weightDecay := wordAt b 36, beta1 := wordAt b 40, beta2 := wordAt b 44,
                  eps := wordAt b 48, copyMode := bits (field b 3 1) 0 0, k := 8, driftLimit := 0, sStart := none, learn := false,
                  learnBatch := 0 },
    alpha := wordAt b 52, t := field b 56 8 }

/-- FP32 values of the first and second rule state of some rows of a tensor (R125). -/
def stateSizes (u : UpdateOp) (rows : Nat) : Nat × Nat :=
  let flat := decide (u.rows = 1) || decide (u.cols = 1)
  if u.rule = 0 then (0, 0)
  else if u.rule = 1 then (rows * u.cols, rows * u.cols)
  else if u.rule = 2 then (if flat then (rows * u.cols, 0) else (rows, u.cols))
  else (rows * u.cols, 0)

/-- The block rows of a tensor that `n` of its rows from row `first` on meet: the first of them, and how many (R482). -/
def shareBlocks (first n : Nat) : Nat × Nat := (first / 32, if n = 0 then 0 else (first + n - 1) / 32 + 1 - first / 32)

/-- Block rows that a slot has scales for when `n` tiles hold equal shares of a tensor, at the same offsets on each (R355, R482). -/
def scaleRows (n share : Nat) : Nat := ((List.range n).map (fun k => (shareBlocks (k * share) share).2)).foldl max 0

/-- Bytes of the working copy of a share: one an element in F8; in W4 half a byte each, and a scale for each block of the tensor that
the share meets (R482). -/
def copyBytes (fmt n share cols : Nat) : Nat :=
  if fmt = 1 then share * cols else (share * cols + 1) / 2 + scaleRows n share * cols

/-- Elements of a W4 copy in the order they lie: block by block down the columns (assumption log 26). -/
def w4Order (rows cols : Nat) : List Nat :=
  (List.range (blockRows rows * cols)).flatMap (fun k =>
    (List.range (min 32 (rows - 32 * (k / cols)))).map (fun i => (32 * (k / cols) + i) * cols + k % cols))

/-- Two nibbles to a byte, the first low. -/
def packNibbles : List Nat → Bytes
  | [] => []
  | [a] => [BitVec.ofNat 8 (a % 16)]
  | a :: b :: l => BitVec.ofNat 8 (a % 16 + 16 * (b % 16)) :: packNibbles l

/-- A working copy as it lies in a slot. -/
def packCopy (fmt rows cols : Nat) (w : WorkCopy) : Bytes :=
  if fmt = 1 then w.elems.map (BitVec.ofNat 8)
  else packNibbles ((w4Order rows cols).map (fun n => w.elems.getD n 0)) ++ w.scales.map (BitVec.ofNat 8)

/-- A working copy read from the bytes of a slot. -/
def unpackCopy (fmt rows cols : Nat) (b : Bytes) : WorkCopy :=
  if fmt = 1 then ⟨b.map (fun x => x.toNat), []⟩
  else
    let order := w4Order rows cols
    let nib (i : Nat) : Nat := (b.getD (i / 2) 0).toNat / 16 ^ (i % 2) % 16
    let at' : Tab Nat := order.zipIdx.foldl (fun t p => Tab.put t p.1 (nib p.2)) []
    ⟨(List.range (rows * cols)).map (fun n => at'.getOr n 0), (b.drop ((rows * cols + 1) / 2)).map (fun x => x.toNat)⟩

/-- The regions an UPDATE touches on each of the `n` tiles that hold it. -/
def updateRegions (fmt : Nat) (u : UpdateOp) (n : Nat) : List (Nat × Nat) :=
  let rows := u.rows / n
  let size := 4 * rows * u.cols
  let z := stateSizes u rows
  [(u.grad, size), (u.master, size), (u.state, 4 * (z.1 + z.2)), (u.next, copyBytes fmt n rows u.cols)] ++
    (if u.inPlace then [(u.cur, copyBytes fmt n rows u.cols)] else [])

/-- Bytes an UPDATE's master and rule state take at their master address. -/
def masterBytes (u : UpdateOp) : Nat := let z := stateSizes u u.rows; 4 * (u.rows * u.cols + z.1 + z.2)

/-- Whether a range of HBM is a context's own (R355). -/
def ownExtent (c : Ctx) (a n : Nat) : Bool := covered c.settings.extents (c.settings.extents.length + 1) a n

/-- Why an UPDATE is refused before any layer changes (R143, R279, R355). -/
def State.refuseUpdate (s : State) (c : Ctx) (o : Bytes) : Option Nat :=
  let u := updateOf o
  let tiles := targetTiles c (poTarget o)
  let inBase := match s.base.extent with | some e => overlaps (poMaster o) (masterBytes u) e.1 e.2 | none => false
  if inBase then some stFrozen
  else if !ownExtent c (poMaster o) (masterBytes u) || u.rows % tiles.length ≠ 0 || 4 ≤ u.rule || !tiles.all (s.ownTile c) ||
      !(updateRegions s.baseFormat u tiles.length).all (fun r => ownTileRange c r.1 r.2) then some stNotPermitted
  else none

/-- The tensor and rule state of an UPDATE gathered from its tiles, rows in ascending tile order. -/
def State.gatherUpdate (s : State) (u : UpdateOp) (tiles : List Nat) : List Word × TensorState :=
  let share := u.rows / tiles.length
  let z := stateSizes u share
  let words (o n : Nat) : List Word := tiles.flatMap (fun k => readWords s.mem (tileAddr k o) n)
  let shared := u.rule = 2 && u.rows ≠ 1 && u.cols ≠ 1
  (words u.grad (share * u.cols),
   { rule := u.rule, master := words u.master (share * u.cols), st1 := words u.state z.1,
     st2 := if shared then readWords s.mem (tileAddr (tiles.headD 0) (u.state + 4 * z.1)) z.2 else words (u.state + 4 * z.1) z.2 })

/-- Rows `k * n` to `k * n + n - 1` of a list laid out in runs. -/
def shareOf (l : List Word) (k n : Nat) : List Word := (l.drop (k * n)).take n

/-- A tensor's working copy gathered from a slot of its tiles: elements in ascending tile order, and each block's scale from the tile
that holds the block's first row (R482). -/
def State.gatherCopy (s : State) (u : UpdateOp) (tiles : List Nat) (slot : Nat) : WorkCopy :=
  let fmt := s.baseFormat
  let n := tiles.length
  let share := u.rows / n
  let parts := tiles.map (fun k => unpackCopy fmt share u.cols (readBytes s.mem (tileAddr k slot) (copyBytes fmt n share u.cols)))
  { elems := parts.flatMap (fun w => w.elems),
    scales := if fmt = 1 then [] else (List.range (blockRows u.rows * u.cols)).map (fun i =>
      let b := i / u.cols
      let k := 32 * b / share
      ((parts.getD k ⟨[], []⟩).scales).getD ((b - k * share / 32) * u.cols + i % u.cols) 0) }

/-- A tile's share of a working copy: its rows, and the scales of the blocks of the tensor they lie in (R482). -/
def copyShare (w : WorkCopy) (k share cols : Nat) : WorkCopy :=
  let b := shareBlocks (k * share) share
  ⟨(w.elems.drop (k * share * cols)).take (share * cols), (w.scales.drop (b.1 * cols)).take (b.2 * cols)⟩

/-- The next working copy of an UPDATE (R138, R139, R482), its blocks those of the whole tensor, and whether anything in it was not
finite: an in-place delta takes its key and counter from the rounding block of the tile it lies on. -/
def State.nextCopy (s : State) (u : UpdateOp) (tiles : List Nat) (old new : TensorState) : WorkCopy × Bool :=
  let fmt := s.baseFormat
  let share := u.rows / tiles.length
  if !u.inPlace then
    let w := deriveCopy fmt u.rows u.cols u.alpha new.master
    (w, badCopy fmt w)
  else
    let cur := s.gatherCopy u tiles u.cur
    let whole (tile : Nat) : WorkCopy × Bool :=
      let blk := (s.tile tile).rounding
      inPlaceCopy fmt u.cols ⟨rbKey blk, rbStep blk, ctrTail 0 u.layer siteInPlace (bits (rbTail blk) 39 35) 0⟩ 0 cur u.alpha
        old.master new.master
    let w : WorkCopy := ⟨tiles.zipIdx.flatMap (fun p => (copyShare (whole p.1).1 p.2 share u.cols).elems), cur.scales⟩
    (w, badCopy fmt w || tiles.any (fun t => (whole t).2))

/-- What an UPDATE writes on one tile: its share of the new master and rule state, and of the next working copy. -/
def State.shareResult (s : State) (u : UpdateOp) (n k : Nat) (new : TensorState) (next : WorkCopy) : List (Nat × Bytes) :=
  let share := u.rows / n
  let z := stateSizes u share
  let shared := u.rule = 2 && u.rows ≠ 1 && u.cols ≠ 1
  let st := shareOf new.st1 k z.1 ++ (if shared then new.st2 else shareOf new.st2 k z.2)
  let bytes (l : List Word) : Bytes := l.flatMap (fun w => leBytes 4 w.toNat)
  [(u.master, bytes (shareOf new.master k (share * u.cols))), (u.state, bytes st),
   (u.next, packCopy s.baseFormat share u.cols (copyShare next k share u.cols))]

/-- UPDATE's work: the rule, then the next working copy on every tile; a non-finite result ends the program, with nothing
written (R129, R355). -/
def State.runUpdate (s : State) (ctx : Nat) (o : Bytes) (tiles : List Nat) : State :=
  let u := updateOf o
  let (g, old) := s.gatherUpdate u tiles
  let new := applyRule u.settings u.t u.s u.rows u.cols g old
  let next := s.nextCopy u tiles old new
  let s := if u.inPlace then s else s.countF8 (deriveSats s.baseFormat u.alpha new.master)
  if badState new || next.2 then s.endProgram ctx stSkipped
  else
    let s := eachDo tiles.zipIdx (fun p s => s.tileWrites p.1 (s.shareResult u tiles.length p.2 new next.1)) s
    (s.opDone ctx).modCtx ctx (fun c => { c with prog := c.prog.map (fun p => { p with openUpdates := p.openUpdates ++ [o] }) })

/-- Whether a running operation reads a slot an UPDATE would write (R47, R143). -/
def State.slotRead (s : State) (u : UpdateOp) (tiles : List Nat) : Bool :=
  let n := copyBytes s.baseFormat tiles.length (u.rows / tiles.length) u.cols
  tiles.any (fun k => (s.tile k).queue.any (fun q => (aoOp q.desc = 1 || aoOp q.desc = 2) &&
    (aoInputs (s.arrayIn k) q.desc).any (fun r => overlaps r.1 r.2 u.next n)))

/-- The bytes an UPDATE writes on its tiles, but for the slot it writes, meet inputs of queued operations (R47). -/
def State.updateSpoils (s : State) (u : UpdateOp) (tiles : List Nat) : Bool :=
  let share := u.rows / tiles.length
  let z := stateSizes u share
  tiles.any (fun k => (s.queuedInputs k).any (fun r =>
    overlaps r.1 r.2 (tileAddr k u.master) (4 * share * u.cols) || overlaps r.1 r.2 (tileAddr k u.state) (4 * (z.1 + z.2))))

/-- What the near-bank units or the lehr met as they read the banks of one of an operation's tiles (R146): a double-bit error retires
the tile, and the operation does not run. -/
def State.bankRead (s : State) (tiles : List Nat) (tile : Nat) (line : HbmOutcome) (go : State → State) : State :=
  if !tiles.contains tile then go s
  else match line with
    | .corrected => go (s.sramSingle tile)
    | .uncorrectable => s.sramDouble tile
    | _ => go s

/-- UPDATE (R143, R355); `line` is what reading the banks of `tile` met. Offsets outside R50, an element index of 2^32, a slot that a
running operation reads, and a write to an operation's inputs are undefined. -/
def execUpdate (ctx : Nat) (s : State) (tile : Nat := 0) (line : HbmOutcome := .clean) : Res :=
  match s.nextOp ctx 0x09 with
  | some (c, _, o) =>
    let u := updateOf o
    let tiles := targetTiles c (poTarget o)
    match s.refuseUpdate c o with
    | some st => started (.next (s.endProgram ctx st))
    | none =>
      if !regionsOk ((updateRegions s.baseFormat u tiles.length).filter (fun r => decide (0 < r.2))) then .fault .tileOffset
      else if u.inPlace && decide (2 ^ 32 < u.rows * u.cols) then .fault .elementIndex
      else if s.slotRead u tiles then .fault .slotInUse
      else if s.updateSpoils u tiles then .fault .overlap
      else started (.next (s.bankRead tiles tile line (fun s => s.runUpdate ctx o tiles)))
  | none => .next s

/-! ## COMMIT (R26, R27, R143, R355, R395) -/

/-- The transport record of a COMMIT (R395). -/
def transportRecord (ctx : Nat) (c : Ctx) (p : ProgRun) (step : Nat) : Bytes :=
  leBytes 8 (6 * 2 ^ 60 + p.programNo % 64 * 2 ^ 54 + ctx % 1024 * 2 ^ 32 + c.incarnation % 2 ^ 32) ++ leBytes 8 step ++
  leBytes 8 (p.index * 2 ^ 32 + p.openUpdates.length) ++ leBytes 8 (p.ticket.seq * 2 ^ 32 + c.settings.groupSize * 65536) ++
  p.digest ++ p.openUpdates.flatMap (fun o => o)

/-- The lehr's write of one UPDATE: its master and rule state to its master address (R143). -/
def State.lehrWrite (s : State) (c : Ctx) (o : Bytes) : State :=
  let u := updateOf o
  let (_, x) := s.gatherUpdate u (targetTiles c (poTarget o))
  { s with mem := writeWords s.mem (poMaster o) (x.master ++ x.st1 ++ x.st2) }

/-- COMMIT (R355): a log range that cannot take the record refuses it before the flip; else the slots flip, the lehr writes
each UPDATE since the last COMMIT, and the transport record; `line` is what reading the banks of `tile` met. -/
def execCommit (ctx : Nat) (s : State) (tile : Nat := 0) (line : HbmOutcome := .clean) : Res :=
  match s.nextOp ctx 0x0A with
  | some (c, p, o) =>
    let b := poBody o
    let step := field b 0 8
    let log := field b 8 8
    let room := field b 16 4
    let record := transportRecord ctx c p step
    if log % 64 ≠ 0 || room < record.length || !ownExtent c log room then started (.next (s.endProgram ctx stNotPermitted))
    else
      let read := p.openUpdates.flatMap (fun o => targetTiles c (poTarget o))
      started (.next (s.bankRead read tile line (fun s =>
        let s := eachDo p.openUpdates (fun o s => s.lehrWrite c o) s
        let s : State := { s with mem := writeBytes s.mem log record }
        (s.opDone ctx).modCtx ctx (fun c => { c with prog := c.prog.map (fun p => { p with openUpdates := [] }) }))))
  | none => .next s

end Sys2Proof.Machine
end

