-- ==== Sys2Proof/Machine/Packets.lean ====
section
/-! DEFINITION. Aqqel packets: the header, the parameters of a body, and the command they spell (R298 to R302, R323, R324, R326 to
R375). -/

namespace Sys2Proof.Machine

/-! ## Header (R298, R299) -/

/-- Its first 16 bits. -/
def phMagic (p : Bytes) : Nat := field p 0 2
/-- The protocol major. -/
def phMajor (p : Bytes) : Nat := field p 2 1
/-- The reply bit. -/
def phReply (p : Bytes) : Bool := bit (field p 4 2) 15
/-- The opcode. -/
def phOpcode (p : Bytes) : Nat := bits (field p 4 2) 14 0
/-- Flag [8]. -/
def phFlag (p : Bytes) : Bool := bit (field p 6 2) 8
/-- The sequence. -/
def phSequence (p : Bytes) : Nat := field p 8 4
/-- The context number. -/
def phContext (p : Bytes) : Nat := field p 12 2
/-- The variant ID. -/
def phVariant (p : Bytes) : Nat := bits (field p 16 4) 16 0
/-- The length of the body. -/
def phBodyLength (p : Bytes) : Nat := field p 20 4

/-- Whether a packet is dropped: too short, another magic, or a reply (R299). -/
def phDropped (p : Bytes) : Bool := decide (p.length < 32) || decide (phMagic p ≠ 0x5141) || phReply p

/-- The header fields a command carries. -/
def phCmd (qp : Nat) (p : Bytes) : Cmd := ⟨qp, phSequence p, phContext p, phVariant p⟩

/-! ## Parameters (R301, R302) -/

/-- The parameters of a body; none when one runs past its end. -/
def readParams : Nat → Bytes → Option (List (Nat × Bytes))
  | 0, _ => some []
  | _, [] => some []
  | fuel + 1, b =>
    let n := field b 4 4
    if b.length < 8 || b.length < 8 + n then none
    else (readParams fuel (b.drop (8 + (n + 3) / 4 * 4))).map (fun l => (field b 0 2, (b.drop 8).take n) :: l)

/-- The value of a type. -/
def param (l : List (Nat × Bytes)) (ty : Nat) : Option Bytes := (l.find? (fun p => decide (p.1 = ty))).map (fun p => p.2)

/-- A parameter an opcode defines: its type, whether it is required, whether it may be repeated, and the lengths of its value. -/
structure ParamDef where
  ty : Nat
  req : Bool
  rep : Bool
  size : Nat → Bool

/-- A parameter of a fixed size, optional and required. -/
def opt (ty n : Nat) : ParamDef := ⟨ty, false, false, fun k => decide (k = n)⟩
def req (ty n : Nat) : ParamDef := ⟨ty, true, false, fun k => decide (k = n)⟩
/-- A list of records of a size, optional and required. -/
def optList (ty n : Nat) : ParamDef := ⟨ty, false, false, fun k => decide (k % n = 0)⟩
def reqList (ty n : Nat) : ParamDef := ⟨ty, true, false, fun k => decide (k % n = 0)⟩

/-- Whether a body gives a parameter as R302 asks. -/
def ParamDef.ok (d : ParamDef) (l : List (Nat × Bytes)) : Bool :=
  let given := l.filter (fun p => decide (p.1 = d.ty))
  (!d.req || decide (given ≠ [])) && (d.rep || decide (given.length ≤ 1)) && given.all (fun p => d.size p.2.length)

/-- The number in a value, or a default. -/
def numOr (l : List (Nat × Bytes)) (ty d : Nat) : Nat := match param l ty with | some b => leNat b | none => d
/-- The number in a value. -/
def num (l : List (Nat × Bytes)) (ty : Nat) : Nat := numOr l ty 0
/-- The number in an optional value. -/
def numOpt (l : List (Nat × Bytes)) (ty : Nat) : Option Nat := (param l ty).map leNat
/-- An optional flag. -/
def flagOpt (l : List (Nat × Bytes)) (ty : Nat) : Option Bool := (param l ty).map (fun b => decide (leNat b ≠ 0))
/-- An optional FP32. -/
def fpOpt (l : List (Nat × Bytes)) (ty : Nat) : Option Word := (param l ty).map (fun b => BitVec.ofNat 32 (leNat b))
/-- Bytes of a value. -/
def raw (l : List (Nat × Bytes)) (ty : Nat) : Bytes := (param l ty).getD []

/-- The records of a list. -/
def records (n : Nat) (b : Bytes) : List Bytes := (List.range (b.length / n)).map (fun i => slice b (n * i) n)
/-- A list of numbers. -/
def nums (n : Nat) (b : Bytes) : List Nat := (records n b).map leNat

/-- A region (R324). -/
def regionIn (b : Bytes) : Region :=
  { qpn := bits (field b 0 4) 23 0, rkey := field b 4 4, address := field b 8 8, pages := field b 16 4 }

/-- A tensor_ref (R324). -/
def tensorIn (b : Bytes) : TensorRef :=
  let w := field b 0 4
  if bit w 31 then .base (bits w 15 8) (bits w 7 0) else .own (bits w 30 0)

/-- A run of samples, each sized by its count (R324); none when the last runs past the value. -/
def samplesIn : Nat → Bytes → Option (List Sample)
  | 0, _ => some []
  | _, [] => some []
  | fuel + 1, b =>
    let n := field b 0 4
    if b.length < 4 || b.length < 4 + 4 * n then none
    else (samplesIn fuel (b.drop (4 + 4 * n))).map (fun l => nums 4 ((b.drop 4).take (4 * n)) :: l)

/-- Bits set in a run of bytes. -/
def setBits (b : Bytes) : List Nat := (List.range (8 * b.length)).filter (fun n => (b.getD (n / 8) 0).toNat.testBit (n % 8))

/-- An FP32 at a place. -/
def fpIn (b : Bytes) (o : Nat) : Word := BitVec.ofNat 32 (field b o 4)

/-- Caps (R331). -/
def capsInBody (b : Bytes) : Caps := ⟨field b 0 1, field b 1 1, field b 2 1⟩

/-! ## What each opcode defines -/

/-- A region parameter, and an optional one. -/
def reqRegion (ty : Nat) : ParamDef := req ty 24
def optRegion (ty : Nat) : ParamDef := opt ty 24

/-- The parameters of CONTEXT_CREATE (R331). -/
def createDefs : List ParamDef :=
  [opt 1 2, opt 2 2, opt 3 1, opt 4 2, opt 5 4, opt 6 1, opt 7 1, opt 8 4, opt 9 12, opt 0xA 2, opt 0xB 8, opt 0xC 256, optRegion 0xD,
   opt 0xE 8, opt 0xF 4, opt 0x10 4, optList 0x11 4]

/-- The parameters each opcode defines (R326 to R375). -/
def paramDefs (op : Nat) : List ParamDef :=
  if op = opHello then [⟨1, true, true, fun k => decide (k = 4)⟩]
  else if op = opOpenSession then [req 1 1, req 2 32]
  else if op = opKeyAdd then [req 1 1, req 2 16, req 3 48]
  else if op = opKeyRemove then [req 1 1, req 2 1]
  else if op = opContextCreate then createDefs
  else if op = opContextShares then [opt 4 2, opt 5 4, opt 6 1]
  else if op = opVariantCreate then [optList 1 16, optList 2 40, opt 3 8, opt 4 4, optList 5 1]
  else if op = opVariantImport then [reqRegion 1, optList 2 1]
  else if op = opVariantExport then [reqRegion 1]
  else if op = opExpertAttach then [req 1 1, req 2 2]
  else if op = opExpertDetach then [req 1 1]
  else if op = opStep then [optList 1 1, optList 2 4, opt 3 1, opt 4 4]
  else if op = opEval then [reqList 1 1, opt 2 4, opt 3 2]
  else if op = opSetRule then
    [opt 1 1, opt 2 4, opt 3 4, opt 4 4, opt 5 4, opt 6 4, opt 7 1, opt 8 1, opt 9 2, opt 0xA 1, opt 0xB 1, opt 0xC 1, opt 0xD 2]
  else if op = opFreeze then [reqList 1 4]
  else if op = opCheckpoint then [reqRegion 1, opt 2 1]
  else if op = opRestore then [reqRegion 1]
  else if op = opReplay then [req 1 16, optRegion 2]
  else if op = opSubmit then [reqList 1 4, req 2 4, opt 3 16, optList 4 4, opt 5 1]
  else if op = opCancel then [req 1 4]
  else if op = opMapWindow then [req 1 1, req 2 1, opt 3 16, optRegion 4, opt 5 12]
  else if op = opLoadProgram then [req 1 1, reqList 2 80]
  else if op = opRunProgram then [req 1 1]
  else if op = opStreamOpen then [opt 1 64, opt 2 4]
  else if op = opStreamClose then [req 1 4]
  else if op = opRingJoin then [optRegion 1]
  else if op = opQuery || op = opCounters || op = opSelectProfile then [req 1 1]
  else if op = opFwStage then [reqRegion 1]
  else if op = opAttest then [req 1 48, optList 2 2]
  else if op = opRetireTile then [req 1 2]
  else if op = opFaultRecordRead then [opt 1 1, opt 2 1]
  else if op = opBaseLoad then [reqRegion 1, req 2 48, optList 3 1, opt 4 16]
  else []

/-! ## What a packet spells -/

/-- What a packet of a defined opcode spells: a command, a body that R302 leaves undefined, or one whose code is out of range. -/
inductive Spelled where
  | command (i : Instr)
  | malformed
  | outOfRange
  deriving DecidableEq, Repr

/-- CONTEXT_CREATE's parameters (R331). -/
def createIn (l : List (Nat × Bytes)) : CreateParams :=
  { groupSize := numOpt l 1, groupFirst := numOpt l 2, tileAlloc := numOpt l 3, weight := numOpt l 4,
    caps := (param l 5).map capsInBody, ringWeight := numOpt l 6, watch := flagOpt l 7,
    stash := (param l 8).map (fun b => ⟨field b 0 1, field b 1 1, field b 2 2⟩),
    parison := (param l 9).map (fun b => ⟨field b 0 4, field b 4 4, field b 8 2, field b 10 1⟩),
    parkLimit := numOpt l 0xA, variantGrant := (param l 0xB).map (fun b => (field b 0 4, field b 4 4)),
    slotGrant := (param l 0xC).map setBits, pageStore := (param l 0xD).map regionIn, seed := numOpt l 0xE,
    sampleQueue := numOpt l 0xF, replica := (param l 0x10).map (fun b => (field b 0 1, field b 2 2)),
    extents := (param l 0x11).map (nums 4) }

/-- VARIANT_CREATE's parameters (R337): init_scale is 2^-7 by default. -/
def variantIn (l : List (Nat × Bytes)) : VariantParams :=
  { adapters := (records 16 (raw l 1)).map (fun b =>
      ⟨field b 0 1, field b 1 1, field b 2 1, bit (field b 3 1) 0, fpIn b 4, fpIn b 8⟩),
    experts := (records 40 (raw l 2)).map (fun b => ⟨field b 0 1, field b 2 2, fpIn b 4, setBits (slice b 8 32)⟩),
    initSeed := num l 3, initScale := (fpOpt l 4).getD 0x3C000000#32, owners := (param l 5).map (nums 1) }

/-- SET_RULE's parameters (R346). -/
def ruleIn (l : List (Nat × Bytes)) : RuleParams :=
  { rule := numOpt l 1, lr := fpOpt l 2, weightDecay := fpOpt l 3, beta1 := fpOpt l 4, beta2 := fpOpt l 5, eps := fpOpt l 6,
    copyMode := numOpt l 7, k := numOpt l 8, driftLimit := numOpt l 9, sStart := (numOpt l 0xA).map s8, stepSchedule := numOpt l 0xB,
    learn := flagOpt l 0xC, learnBatch := numOpt l 0xD }

/-- SUBMIT's parameters (R351): GREEDY by default. -/
def submitIn (l : List (Nat × Bytes)) : SubmitParams :=
  let q := slice (raw l 3) 0 16
  { prompt := nums 4 (raw l 1), maxTokens := num l 2, mode := field q 0 1, temperature := fpIn q 4, seed := field q 8 8,
    stopTokens := nums 4 (raw l 4), learn := (flagOpt l 5).getD false }

/-- STEP (R344): one with no samples and take_queue clear is well formed, and answered NOT_PERMITTED. -/
def spellStep (c : Cmd) (l : List (Nat × Bytes)) : Spelled :=
  match samplesIn (raw l 1).length (raw l 1) with
  | none => .malformed
  | some xs => .command (.step c ⟨xs, (records 4 (raw l 2)).map tensorIn, (flagOpt l 3).getD false, numOr l 4 1024⟩)

/-- EVAL (R345). -/
def spellEval (c : Cmd) (l : List (Nat × Bytes)) : Spelled :=
  match samplesIn (raw l 1).length (raw l 1) with
  | none => .malformed
  | some xs => .command (.eval c xs (numOr l 2 1024) (num l 3))

/-- MAP_WINDOW (R353): each action needs its own parameter. -/
def spellWindow (c : Cmd) (l : List (Nat × Bytes)) : Spelled :=
  let w := num l 1
  match num l 2 with
  | 0 => match param l 3 with | some b => .command (.mapWindowInbound c w (field b 0 8) (field b 8 8)) | none => .malformed
  | 1 => match param l 4 with | some b => .command (.mapWindowOutbound c w (regionIn b)) | none => .malformed
  | 2 => match param l 5 with
    | some b => .command (.mapWindowPresent c w (field b 0 4) (field b 4 4) (decide (field b 8 1 ≠ 0)))
    | none => .malformed
  | 3 => .command (.mapWindowUnmap c w)
  | _ => .outOfRange

/-- STREAM_OPEN (R358): a descriptor, or resume. -/
def spellStream (c : Cmd) (l : List (Nat × Bytes)) : Spelled :=
  match param l 2, param l 1 with
  | some b, _ => .command (.streamOpenResume c (leNat b))
  | none, some d => .command (.streamOpen c d)
  | none, none => .malformed

/-- The commands of the session, context and ring groups. -/
def spellContext (op : Nat) (c : Cmd) (l : List (Nat × Bytes)) : Option Instr :=
  if op = opHello then
    some (.hello c ((l.filter (fun p => decide (p.1 = 1))).map (fun p => (field p.2 0 2, field p.2 2 2))))
  else if op = opOpenSession then some (.openSession c (num l 1) (raw l 2))
  else if op = opCloseSession then some (.closeSession c)
  else if op = opKeyAdd then some (.keyAdd c (num l 1) (raw l 2) (raw l 3))
  else if op = opKeyRemove then some (.keyRemove c (num l 1) (num l 2))
  else if op = opContextCreate then some (.contextCreate c (createIn l))
  else if op = opContextDestroy then some (.contextDestroy c)
  else if op = opContextReset then some (.contextReset c)
  else if op = opContextSuspend then some (.contextSuspend c)
  else if op = opContextResume then some (.contextResume c)
  else if op = opContextShares then some (.contextShares c (numOpt l 4) ((param l 5).map capsInBody) (numOpt l 6))
  else if op = opRingJoin then some (.ringJoin c ((param l 1).map regionIn))
  else if op = opRingLeave then some (.ringLeave c)
  else none

/-- The commands of the variant, training, serving and transport groups. -/
def spellWork (op : Nat) (flag : Bool) (c : Cmd) (l : List (Nat × Bytes)) : Option Instr :=
  if op = opVariantDestroy then some (.variantDestroy c)
  else if op = opVariantImport then some (.variantImport c (regionIn (raw l 1)) ((param l 2).map (nums 1)))
  else if op = opVariantExport then some (.variantExport c (regionIn (raw l 1)))
  else if op = opEvict then some (if flag then .evictForce c else .evict c)
  else if op = opExpertAttach then some (.expertAttach c (num l 1) (num l 2))
  else if op = opExpertDetach then some (.expertDetach c (num l 1))
  else if op = opSetRule then some (.setRule c (ruleIn l))
  else if op = opFreeze then
    let ts := (records 4 (raw l 1)).map tensorIn
    some (if flag then .thaw c ts else .freeze c ts)
  else if op = opCheckpoint then some (.checkpoint c (regionIn (raw l 1)) ((flagOpt l 2).getD true))
  else if op = opRestore then some (.restore c (regionIn (raw l 1)))
  else if op = opReplay then some (.replay c (field (raw l 1) 0 8) (field (raw l 1) 8 8) ((param l 2).map regionIn))
  else if op = opSubmit then some (.submit c (submitIn l))
  else if op = opCancel then some (.cancel c (num l 1))
  else if op = opLoadProgram then some (.loadProgram c (num l 1) (raw l 2))
  else if op = opRunProgram then some (.runProgram c (num l 1))
  else if op = opStreamClose then some (.streamClose c (num l 1))
  else none

/-- The commands of the device group. -/
def spellDevice (op : Nat) (flag : Bool) (c : Cmd) (l : List (Nat × Bytes)) : Option Instr :=
  if op = opQuery then some (.query c (num l 1))
  else if op = opCounters then some (if flag then .countersClear c (num l 1) else .counters c (num l 1))
  else if op = opPowerStatus then some (.powerStatus c)
  else if op = opSelectProfile then some (if flag then .selectProfileReset c (num l 1) else .selectProfile c (num l 1))
  else if op = opFwStage then some (.fwStage c (regionIn (raw l 1)))
  else if op = opFwActivate then some (.fwActivate c)
  else if op = opAttest then some (.attest c (raw l 1) ((param l 2).map (nums 2)))
  else if op = opRetireTile then some (.retireTile c (num l 1))
  else if op = opFaultRecordRead then some (.faultRecordRead c (num l 1) (numOr l 2 64))
  else if op = opBaseLoad then
    some (.baseLoad c (regionIn (raw l 1)) (raw l 2) ((param l 3).map (nums 1))
      ((param l 4).map (fun b => (field b 0 8, field b 8 8))))
  else none

/-- What the parameters of a defined opcode spell. -/
def spellParams (op : Nat) (flag : Bool) (c : Cmd) (l : List (Nat × Bytes)) : Spelled :=
  if !(paramDefs op).all (fun d => d.ok l) then .malformed
  else if op = opStep then spellStep c l
  else if op = opEval then spellEval c l
  else if op = opMapWindow then spellWindow c l
  else if op = opStreamOpen then spellStream c l
  else if op = opVariantCreate then
    (if (param l 1).isNone && (param l 2).isNone then .malformed else .command (.variantCreate c (variantIn l)))
  else match ((spellContext op c l).or (spellWork op flag c l)).or (spellDevice op flag c l) with
    | some i => .command i
    | none => .outOfRange

/-- What a packet of a defined opcode spells (R302): its body is as long as it says, and its parameters are whole. -/
def spell (qp : Nat) (p : Bytes) : Spelled :=
  if phBodyLength p ≠ p.length - 32 then .malformed
  else match readParams p.length (p.drop 32) with
    | none => .malformed
    | some l => spellParams (phOpcode p) (phFlag p) (phCmd qp p) l

end Sys2Proof.Machine
end

