-- ==== Sys2Proof/Machine/Windows.lean ====
section
/-! DEFINITION. MAP_WINDOW (R155, R353). -/

namespace Sys2Proof.Machine

/-- Whether a descriptor names a window at an end. -/
def sdNames (d : Bytes) (w : Nat) : Bool :=
  (decide (sdSrcKind d = epHost) && decide (winNo (sdSrc d) = w)) || (decide (sdDstKind d = epHost) && decide (winNo (sdDst d) = w))

/-- Whether a stream of a context that has not ended names a window. -/
def State.streamNames (s : State) (ctx w : Nat) : Bool :=
  s.streams.vals.any (fun x => decide (x.ctx = ctx) && decide (x.desc ≠ []) && sdNames x.desc w &&
    (match x.st with | .ended _ => decide (x.outstanding ≠ []) | _ => true))

/-- Whether the program that runs has a STREAM operation that names a window. -/
def Ctx.programNames (c : Ctx) (w : Nat) : Bool :=
  match c.prog with
  | some p => (List.range (progLen p.program)).any (fun i =>
      decide (poCode (progOp p.program i) = 2) && sdNames (poBody (progOp p.program i)) w)
  | none => false

/-- Change a window of a context. -/
def State.setWindow (s : State) (ctx w : Nat) (x : Window) : State := s.modCtx ctx (fun c => { c with windows := c.windows.put w x })

/-- MAP_WINDOW, INBOUND: a range of the context's own, multiples of 64, on a number not mapped. -/
def execMapWindowInbound (c : Cmd) (window address length : Nat) (s : State) : Res :=
  gaffer opMapWindow c (fun t s =>
    match s.ctx c.ctx with
    | none => .next (s.answer t stContextGone)
    | some x =>
      if (x.windows.find window).isSome || address % 64 ≠ 0 || length % 64 ≠ 0 || !s.ownRange x address length true then
        .next (s.answer t stNotPermitted)
      else
        let (k, s) := s.fresh
        let key := Config.rkey k % 2 ^ 32
        .next ((s.setWindow c.ctx window (.inbound address length key)).answerWith t stOk [p32 0x81 key])) s

/-- MAP_WINDOW, OUTBOUND: every page starts present. -/
def execMapWindowOutbound (c : Cmd) (window : Nat) (host : Region) (s : State) : Res :=
  gaffer opMapWindow c (fun t s =>
    match s.ctx c.ctx with
    | none => .next (s.answer t stContextGone)
    | some x =>
      if (x.windows.find window).isSome || !host.aligned then .next (s.answer t stNotPermitted)
      else .next ((s.setWindow c.ctx window (.outbound host [])).answer t stOk)) s

/-- The absent pages of a window after a range is set or cleared. -/
def absentAfter (absent : List Nat) (first pages limit : Nat) (present : Bool) : List Nat :=
  let others := absent.filter (fun p => !(decide (first ≤ p) && decide (p < first + pages)))
  if present then others else others ++ (List.range (min pages (limit - first))).map (first + ·)

/-- MAP_WINDOW, PRESENT: the present bits of a range of an OUTBOUND window. -/
def execMapWindowPresent (c : Cmd) (window first pages : Nat) (present : Bool) (s : State) : Res :=
  gaffer opMapWindow c (fun t s =>
    match s.ctx c.ctx with
    | none => .next (s.answer t stContextGone)
    | some x =>
      match x.windows.find window with
      | some (.outbound r absent) =>
        .next ((s.setWindow c.ctx window (.outbound r (absentAfter absent first pages r.pages present))).answer t stOk)
      | _ => .next (s.answer t stNotPermitted)) s

/-- MAP_WINDOW, UNMAP: BUSY while a stream or the running program names the window. -/
def execMapWindowUnmap (c : Cmd) (window : Nat) (s : State) : Res :=
  gaffer opMapWindow c (fun t s =>
    match s.ctx c.ctx with
    | none => .next (s.answer t stContextGone)
    | some x =>
      if (x.windows.find window).isNone then .next (s.answer t stNotPermitted)
      else if s.streamNames c.ctx window || x.programNames window then .next (s.answer t stBusy)
      else .next ((s.modCtx c.ctx (fun x => { x with windows := x.windows.del window })).answer t stOk)) s

end Sys2Proof.Machine
end

