-- ==== Sys2Proof/Machine/Round.lean ====
section
/-! DEFINITION. The arrival of packets and the intake rounds: SEND_RECEIVED and INTAKE_ROUND (R297, R299, R300, R303, R315 to R317,
R484). -/

namespace Sys2Proof.Machine

/-! ## Arrival (R297) -/

/-- The longest packet (R297). -/
def maxPacket : Nat := 1048576

/-- Bytes in the intake pool (R297). -/
def State.poolUsed (s : State) : Nat := (s.qps.vals.map (fun q => (q.inbox.map List.length).sum)).sum

/-- Whether a queue pair has a receive, and the pool room, for a packet (R297): 32 receives, and 1 GiB in all. -/
def State.hasRoom (s : State) (q : Qp) (p : Bytes) : Bool :=
  decide (q.inbox.length < 32) && decide (s.poolUsed + p.length ≤ 2 ^ 30)

/-- SEND_RECEIVED (R297): a packet waits in its receive; a longer one is an invalid request, and its queue pair is in error; one without
room is answered RNR. -/
def execSendReceived (qp : Nat) (packet : Bytes) (s : State) : Res :=
  match s.qps.find qp with
  | none => .next s
  | some q =>
    if q.st = .error || !(s.port q.port).up || !s.portsRun then .next s
    else if maxPacket < packet.length then
      thenReset (settled (.next (((s.emit (.nak qp .invalidRequest)).qpError qp).wakeTrigger)))
    else if s.hasRoom q packet then
      .next (((s.modQp qp (fun q => { q with inbox := q.inbox ++ [packet] })).drainQp qp).wakeTrigger)
    else .next (((s.emit (.nak qp .rnr)).drainQp qp).wakeTrigger)

/-! ## Forming a round (R315) -/

/-- Whether a packet is the last its queue pair gives a round: a session-group command (R315, R316). -/
def phEndsTake (p : Bytes) : Bool := decide (phMajor p = 1) && decide (1 ≤ phOpcode p) && decide (phOpcode p ≤ 5)

/-- At most `room` packets from the front of a queue pair, the packets dropped on the way, and what is left (R299, R315). -/
def takePackets : Nat → List Bytes → List Bytes × Nat × List Bytes
  | _, [] => ([], 0, [])
  | room, p :: rest =>
    if room = 0 then ([], 0, p :: rest)
    else if phDropped p then
      let r := takePackets room rest
      (r.1, r.2.1 + 1, r.2.2)
    else if phEndsTake p then ([p], 0, rest)
    else
      let r := takePackets (room - 1) rest
      (p :: r.1, r.2.1, r.2.2)

/-- A packet a round took: its queue pair, the rank and number R316 orders it by, and its bytes. -/
structure Taken where
  qp : Nat
  rank : Nat
  number : Nat
  packet : Bytes
  deriving DecidableEq, Repr

/-- The class of a packet (R316): 4 for an undefined opcode. -/
def Taken.klass (t : Taken) : Nat := (specOf (phOpcode t.packet)).klass

/-- Whether one packet comes before another by the first three parts of the key (R316), or they tie. -/
def Taken.le (a b : Taken) : Bool :=
  if a.klass ≠ b.klass then decide (a.klass < b.klass)
  else if a.rank ≠ b.rank then decide (a.rank < b.rank)
  else decide (a.number ≤ b.number)

/-- A round in the order of R316; packets that tie keep the order they arrived in. -/
def orderRound (l : List Taken) : List Taken := sortBy Taken.le l

/-- The queue pairs a round takes from, in order, with rank and number: sessions by number, then those without one (R315, R316). -/
def State.takeOrder (s : State) : List (Nat × Nat × Nat) :=
  s.sessions.map (fun p => (p.2.qp, (match p.2.role with | .operator => 0 | .tenant _ => 1), p.1)) ++
  (s.qps.filter (fun p => decide (p.2.st = .hello) || decide (p.2.st = .openState))).map (fun p => (p.1, 2, p.1))

/-- What one queue pair gives a round (R315). -/
def State.takeFrom (s : State) (k : Nat × Nat × Nat) : List Taken × State :=
  match s.qps.find k.1 with
  | some q =>
    let r := takePackets 16 q.inbox
    (r.1.map (fun p => ⟨k.1, k.2.1, k.2.2, p⟩),
      (if r.2.1 = 0 then s else s.countError cBadPackets r.2.1).modQp k.1 (fun q => { q with inbox := r.2.2 }))
  | none => ([], s)

/-- What all queue pairs give a round, in the order taken. -/
def State.formRound : List (Nat × Nat × Nat) → State → List Taken × State
  | [], s => ([], s)
  | k :: ks, s =>
    let (l, s) := s.takeFrom k
    let (m, s) := State.formRound ks s
    (l ++ m, s)

/-! ## Applying a command -/

/-- A command of a round meets its own meaning; FW_ACTIVATE and SELECT_PROFILE leave what follows them to the round's end (R420,
R369). What no packet spells changes nothing. -/
def applyCommand (i : Instr) (s : State) : Res :=
  match i with
  | .hello c offers => execHello c offers s
  | .openSession c role key => execOpenSession c role key s
  | .closeSession c => takeCloseSession c s
  | .keyAdd c role salt digest => execKeyAdd c role salt digest s
  | .keyRemove c role slot => execKeyRemove c role slot s
  | .contextCreate c p => execContextCreate c p s
  | .contextDestroy c => execContextDestroy c s
  | .contextReset c => execContextReset c s
  | .contextSuspend c => execContextSuspend c s
  | .contextResume c => execContextResume c s
  | .contextShares c weight caps ringWeight => execContextShares c weight caps ringWeight s
  | .variantCreate c p => execVariantCreate c p s
  | .variantDestroy c => execVariantDestroy c s
  | .variantImport c image owners => execVariantImport c image owners s
  | .variantExport c dest => execVariantExport c dest s
  | .evict c => execEvict c s
  | .evictForce c => execEvictForce c s
  | .expertAttach c extraNo slot => execExpertAttach c extraNo slot s
  | .expertDetach c extraNo => execExpertDetach c extraNo s
  | .step c p => execStep c p s
  | .eval c samples microRows every => execEval c samples microRows every s
  | .setRule c p => execSetRule c p s
  | .freeze c tensors => execFreeze c tensors s
  | .thaw c tensors => execThaw c tensors s
  | .checkpoint c dest withLog => execCheckpoint c dest withLog s
  | .restore c image => execRestore c image s
  | .replay c first last log => execReplay c first last log s
  | .submit c p => execSubmit c p s
  | .cancel c target => execCancel c target s
  | .mapWindowInbound c window address length => execMapWindowInbound c window address length s
  | .mapWindowOutbound c window host => execMapWindowOutbound c window host s
  | .mapWindowPresent c window first pages present => execMapWindowPresent c window first pages present s
  | .mapWindowUnmap c window => execMapWindowUnmap c window s
  | .loadProgram c programNo program => execLoadProgram c programNo program s
  | .runProgram c programNo => execRunProgram c programNo s
  | .streamOpen c descriptor => execStreamOpen c descriptor s
  | .streamOpenResume c id => execStreamOpenResume c id s
  | .streamClose c id => execStreamClose c id s
  | .ringJoin c baseImage => execRingJoin c baseImage s
  | .ringLeave c => execRingLeave c s
  | .query c target => execQuery c target s
  | .counters c scope => execCounters c scope s
  | .countersClear c scope => execCountersClear c scope s
  | .powerStatus c => execPowerStatus c s
  | .selectProfile c profile => takeSelectProfile c profile false s
  | .selectProfileReset c profile => takeSelectProfile c profile true s
  | .fwStage c image => execFwStage c image s
  | .fwActivate c => takeFwActivate c s
  | .attest c nonce contexts => execAttest c nonce contexts s
  | .retireTile c tile => execRetireTile c tile s
  | .faultRecordRead c first count => execFaultRecordRead c first count s
  | .baseLoad c image digest placement range => execBaseLoad c image digest placement range s
  | _ => .next s

/-- A refusal of a packet whose body is not parsed, on its session or to its queue pair alone (R299, R300, R303). -/
def refusePacket (c : Cmd) (op status : Nat) (s : State) : Res :=
  match s.reaches c.qp with
  | some q =>
    match q.st with
    | .session n =>
      match s.sessions.find n with
      | some ss =>
        if ss.awaits c.seq then .fault .duplicateSequence else .next (s.refuse (ticketOf c op n ss.serial) status)
      | none => .next (s.replyBare c op stNoSession [])
    | _ => .next (s.replyBare c op (if status = stBadVersion then stBadVersion else stNoSession) [])
  | none => .next s

/-- A body that R302 leaves undefined, met once every check before it has passed (R484). -/
def applyMalformed (c : Cmd) (op : Nat) (s : State) : Res :=
  match s.reaches c.qp with
  | none => .next s
  | some q =>
    if op = opHello then
      match q.st with
      | .session _ => gaffer opHello c (fun _ _ => .fault .malformedBody) s
      | _ => .fault .malformedBody
    else if op = opOpenSession then
      (if q.st = .openState then .fault .malformedBody else refusePacket c op stNotPermitted s)
    else gaffer op c (fun _ _ => .fault .malformedBody) s

/-- A packet of a round is applied (R299, R300, R302, R484). -/
def applyPacket (t : Taken) (s : State) : Res :=
  let op := phOpcode t.packet
  let c := phCmd t.qp t.packet
  if phMajor t.packet ≠ 1 then refusePacket c op stBadVersion s
  else if (opSpec op).isNone then refusePacket c op stNotPermitted s
  else match spell t.qp t.packet with
    | .command i => applyCommand i s
    | .malformed => applyMalformed c op s
    | .outOfRange => gaffer op c (fun k s => .next (s.answerWith k stNotPermitted (refusalParams op))) s

/-! ## The round (R315 to R317) -/

/-- Whether a packet waits that a round would take or drop. -/
def State.packetWaits (s : State) : Bool := s.qps.vals.any (fun q => decide (q.st ≠ .error) && decide (q.inbox ≠ []))

/-- The variants whose automatic step is due, in ascending order (R202). -/
def State.autosDue (s : State) : List Nat := s.vars.keys.filter (fun v => s.autoDue v)

/-- The automatic steps of a round follow all of its commands (R202, R316). -/
def State.takeAutos (s : State) : State := eachDo s.autosDue (fun v s => s.takeAuto v) s

/-- The contexts of the SUBMITs of a round: until they are applied they wait at intake (R209). -/
def submitCtxs (l : List Taken) : List Nat :=
  (l.filter (fun t => decide (phOpcode t.packet = opSubmit))).map (fun t => (phCmd t.qp t.packet).ctx)

/-- One packet of a round is applied; a SUBMIT waits at intake no longer. -/
def applyTaken (t : Taken) (s : State) : Res :=
  applyPacket t (if phOpcode t.packet = opSubmit then { s with roundSubmits := s.roundSubmits.erase (phCmd t.qp t.packet).ctx } else s)

/-- INTAKE_ROUND (R315, R316): the round is formed, counted and applied in order; then its automatic steps, and what an activation
or a reset leaves to its end. -/
def execIntakeRound (s : State) : Res :=
  if s.gafferUp && (s.packetWaits || decide (s.autosDue ≠ [])) then
    let s : State := { s with intakeRounds := s.intakeRounds + 1 }
    let r := State.formRound s.takeOrder s
    let taken : State := { r.2 with roundSubmits := submitCtxs r.1 }
    thenReset (settled ((Res.each (orderRound r.1) applyTaken taken).bind (fun s => .next s.takeAutos.goOffline)))
  else .next s

/-- AUTOMATIC_STEP (R202, R315): when no packet waits to begin a round, one is formed for the automatic steps alone, all that are due;
else the step is taken into the round that the packet begins. -/
def execAutomaticStep (variant : Nat) (s : State) : Res :=
  if s.gafferUp && s.autoDue variant && !s.packetWaits then
    thenReset (settled (.next ({ s with intakeRounds := s.intakeRounds + 1 }.takeAutos.goOffline)))
  else .next s

end Sys2Proof.Machine
end

