-- ==== Sys2Proof/Machine/Dispatch.lean ====
section
/-! DEFINITION. The meaning of each command: one arm per constructor. -/

namespace Sys2Proof.Machine

/-- The effect of a command on everything but the queue of waiting commands. -/
def exec (i : Instr) (s : State) : Host.Outcome State Fault Refusal :=
  match i with
  | .sendReceived qp packet => Sys2Proof.Machine.execSendReceived qp packet s
  | .intakeRound => Sys2Proof.Machine.execIntakeRound s
  | .hello c offers => Sys2Proof.Machine.execHello c offers s
  | .openSession c role key => Sys2Proof.Machine.execOpenSession c role key s
  | .closeSession c => Sys2Proof.Machine.execCloseSession c s
  | .keyAdd c role salt digest => Sys2Proof.Machine.execKeyAdd c role salt digest s
  | .keyRemove c role slot => Sys2Proof.Machine.execKeyRemove c role slot s
  | .contextCreate c p => Sys2Proof.Machine.execContextCreate c p s
  | .contextCreateComplete ctx refusal => Sys2Proof.Machine.execContextCreateComplete ctx refusal s
  | .contextDestroy c => Sys2Proof.Machine.execContextDestroy c s
  | .destroyComplete ctx => Sys2Proof.Machine.execDestroyComplete ctx s
  | .contextReset c => Sys2Proof.Machine.execContextReset c s
  | .resetComplete ctx => Sys2Proof.Machine.execResetComplete ctx s
  | .contextSuspend c => Sys2Proof.Machine.execContextSuspend c s
  | .contextResume c => Sys2Proof.Machine.execContextResume c s
  | .contextShares c weight caps ringWeight => Sys2Proof.Machine.execContextShares c weight caps ringWeight s
  | .transportUnitStop ctx => Sys2Proof.Machine.execTransportUnitStop ctx s
  | .variantCreate c p => Sys2Proof.Machine.execVariantCreate c p s
  | .variantDestroy c => Sys2Proof.Machine.execVariantDestroy c s
  | .variantImport c image owners => Sys2Proof.Machine.execVariantImport c image owners s
  | .variantExport c dest => Sys2Proof.Machine.execVariantExport c dest s
  | .evict c => Sys2Proof.Machine.execEvict c s
  | .evictForce c => Sys2Proof.Machine.execEvictForce c s
  | .expertAttach c extraNo slot => Sys2Proof.Machine.execExpertAttach c extraNo slot s
  | .expertDetach c extraNo => Sys2Proof.Machine.execExpertDetach c extraNo s
  | .step c p => Sys2Proof.Machine.execStep c p s
  | .eval c samples microRows every => Sys2Proof.Machine.execEval c samples microRows every s
  | .setRule c p => Sys2Proof.Machine.execSetRule c p s
  | .freeze c tensors => Sys2Proof.Machine.execFreeze c tensors s
  | .thaw c tensors => Sys2Proof.Machine.execThaw c tensors s
  | .checkpoint c dest withLog => Sys2Proof.Machine.execCheckpoint c dest withLog s
  | .restore c image => Sys2Proof.Machine.execRestore c image s
  | .replay c first last log => Sys2Proof.Machine.execReplay c first last log s
  | .submit c p => Sys2Proof.Machine.execSubmit c p s
  | .cancel c target => Sys2Proof.Machine.execCancel c target s
  | .mapWindowInbound c window address length => Sys2Proof.Machine.execMapWindowInbound c window address length s
  | .mapWindowOutbound c window host => Sys2Proof.Machine.execMapWindowOutbound c window host s
  | .mapWindowPresent c window first pages present => Sys2Proof.Machine.execMapWindowPresent c window first pages present s
  | .mapWindowUnmap c window => Sys2Proof.Machine.execMapWindowUnmap c window s
  | .loadProgram c programNo program => Sys2Proof.Machine.execLoadProgram c programNo program s
  | .runProgram c programNo => Sys2Proof.Machine.execRunProgram c programNo s
  | .streamOpen c descriptor => Sys2Proof.Machine.execStreamOpen c descriptor s
  | .streamOpenResume c id => Sys2Proof.Machine.execStreamOpenResume c id s
  | .streamClose c id => Sys2Proof.Machine.execStreamClose c id s
  | .ringJoin c baseImage => Sys2Proof.Machine.execRingJoin c baseImage s
  | .ringLeave c => Sys2Proof.Machine.execRingLeave c s
  | .query c target => Sys2Proof.Machine.execQuery c target s
  | .counters c scope => Sys2Proof.Machine.execCounters c scope s
  | .countersClear c scope => Sys2Proof.Machine.execCountersClear c scope s
  | .powerStatus c => Sys2Proof.Machine.execPowerStatus c s
  | .selectProfile c profile => Sys2Proof.Machine.execSelectProfile c profile s
  | .selectProfileReset c profile => Sys2Proof.Machine.execSelectProfileReset c profile s
  | .fwStage c image => Sys2Proof.Machine.execFwStage c image s
  | .fwStageCheckDone image => Sys2Proof.Machine.execFwStageCheckDone image s
  | .fwActivate c => Sys2Proof.Machine.execFwActivate c s
  | .fwActivateTimeout => Sys2Proof.Machine.execFwActivateTimeout s
  | .gafferReturn => Sys2Proof.Machine.execGafferReturn s
  | .attest c nonce contexts => Sys2Proof.Machine.execAttest c nonce contexts s
  | .retireTile c tile => Sys2Proof.Machine.execRetireTile c tile s
  | .faultRecordRead c first count => Sys2Proof.Machine.execFaultRecordRead c first count s
  | .baseLoad c image digest placement range => Sys2Proof.Machine.execBaseLoad c image digest placement range s
  | .baseLoadComplete result => Sys2Proof.Machine.execBaseLoadComplete result s
  | .eventPacketSend session => Sys2Proof.Machine.execEventPacketSend session s
  | .array ctx => Sys2Proof.Machine.execArray ctx s
  | .stream ctx => Sys2Proof.Machine.execStream ctx s
  | .waitStream ctx => Sys2Proof.Machine.execWaitStream ctx s
  | .waitTile ctx => Sys2Proof.Machine.execWaitTile ctx s
  | .boundary ctx => Sys2Proof.Machine.execBoundary ctx s
  | .rounding ctx => Sys2Proof.Machine.execRounding ctx s
  | .derivative ctx => Sys2Proof.Machine.execDerivative ctx s
  | .finiteCheck ctx othersBad => Sys2Proof.Machine.execFiniteCheck ctx othersBad s
  | .update ctx tile line => Sys2Proof.Machine.execUpdate ctx s tile line
  | .commit ctx tile line => Sys2Proof.Machine.execCommit ctx s tile line
  | .nop tile => Sys2Proof.Machine.execNop tile s
  | .matmul tile event => Sys2Proof.Machine.execMatmul tile event s
  | .elementwise tile event => Sys2Proof.Machine.execElementwise tile event s
  | .marverFill tile line => Sys2Proof.Machine.execMarverFill tile s line
  | .tileNapEntry tile => Sys2Proof.Machine.execTileNapEntry tile s
  | .tileWakeComplete tile => Sys2Proof.Machine.execTileWakeComplete tile s
  | .unitStart ctx => Sys2Proof.Machine.execUnitStart ctx s
  | .unitEnd ctx cycles => Sys2Proof.Machine.execUnitEnd ctx cycles s
  | .layerForwardEnd ctx set => Sys2Proof.Machine.execLayerForwardEnd ctx set s
  | .spillWriteComplete ctx microBatch layer => Sys2Proof.Machine.execSpillWriteComplete ctx microBatch layer s
  | .stashBringBack ctx => Sys2Proof.Machine.execStashBringBack ctx s
  | .layerContinue ctx row => Sys2Proof.Machine.execLayerContinue ctx row s
  | .holdLimitExpiry ctx => Sys2Proof.Machine.execHoldLimitExpiry ctx s
  | .fwdOut port frames b => Sys2Proof.Machine.execFwdOut port frames b s
  | .fwdBack port frames b => Sys2Proof.Machine.execFwdBack port frames b s
  | .bwdOut port frames b => Sys2Proof.Machine.execBwdOut port frames b s
  | .bwdBack port frames b => Sys2Proof.Machine.execBwdBack port frames b s
  | .bounce port frames b => Sys2Proof.Machine.execBounce port frames b s
  | .bundleRun => Sys2Proof.Machine.execBundleRun s
  | .bundleRunEnd tag => Sys2Proof.Machine.execBundleRunEnd tag s
  | .expertReplacementDone => Sys2Proof.Machine.execExpertReplacementDone s
  | .check variant stepNo => Sys2Proof.Machine.execCheck variant stepNo s
  | .updateLayer variant stepNo line => Sys2Proof.Machine.execUpdateLayer variant stepNo s line
  | .vote variant stepNo => Sys2Proof.Machine.execVote variant stepNo s
  | .flip variant stepNo => Sys2Proof.Machine.execFlip variant stepNo s
  | .headerWriteComplete variant stepNo => Sys2Proof.Machine.execHeaderWriteComplete variant stepNo s
  | .automaticStep variant => Sys2Proof.Machine.execAutomaticStep variant s
  | .loadPartPlaced variant position => Sys2Proof.Machine.execLoadPartPlaced variant position s
  | .writeOutComplete variant => Sys2Proof.Machine.execWriteOutComplete variant s
  | .streamReserve id => Sys2Proof.Machine.execStreamReserve id s
  | .copy id => Sys2Proof.Machine.execCopy id s
  | .strided id => Sys2Proof.Machine.execStrided id s
  | .reduceHop id partials => Sys2Proof.Machine.execReduceHop id partials s
  | .rotate id => Sys2Proof.Machine.execRotate id s
  | .pageOut id => Sys2Proof.Machine.execPageOut id s
  | .pageIn id page => Sys2Proof.Machine.execPageIn id page s
  | .transferLand id index bytes line => Sys2Proof.Machine.execTransferLand id index bytes line s
  | .streamStall id => Sys2Proof.Machine.execStreamStall id s
  | .patrolScrub address area outcome => Sys2Proof.Machine.execPatrolScrub address area outcome s
  | .frameForward port frame => Sys2Proof.Machine.execFrameForward port frame s
  | .caneStreamFrame port frame => Sys2Proof.Machine.execCaneStreamFrame port frame s
  | .reduce port frame => Sys2Proof.Machine.execReduce port frame s
  | .rollCallCollect port frame => Sys2Proof.Machine.execRollCallCollect port frame s
  | .rollCallPublish port frame => Sys2Proof.Machine.execRollCallPublish port frame s
  | .announce port frame => Sys2Proof.Machine.execAnnounce port frame s
  | .lldp port frame pdu => Sys2Proof.Machine.execLldp port frame pdu s
  | .rekey port frame => Sys2Proof.Machine.execRekey port frame s
  | .idle port frame => Sys2Proof.Machine.execIdle port frame s
  | .rekeyDue port => Sys2Proof.Machine.execRekeyDue port s
  | .ringSignalLoss port => Sys2Proof.Machine.execRingSignalLoss port s
  | .linkEstablished port partner rate => Sys2Proof.Machine.execLinkEstablished port partner rate s
  | .linkHoldExpiry port => Sys2Proof.Machine.execLinkHoldExpiry port s
  | .berWindow port exceeded => Sys2Proof.Machine.execBerWindow port exceeded s
  | .eqAdapt port lane settings request => Sys2Proof.Machine.execEqAdapt port lane settings request s
  | .rollCallTimer => Sys2Proof.Machine.execRollCallTimer s
  | .collectPassTimeout => Sys2Proof.Machine.execCollectPassTimeout s
  | .anchorLost => Sys2Proof.Machine.execAnchorLost s
  | .anchorBackoffExpiry => Sys2Proof.Machine.execAnchorBackoffExpiry s
  | .noRingTimeout => Sys2Proof.Machine.execNoRingTimeout s
  | .joinQuietPasses => Sys2Proof.Machine.execJoinQuietPasses s
  | .bypassSettled => Sys2Proof.Machine.execBypassSettled s
  | .leaveDrained => Sys2Proof.Machine.execLeaveDrained s
  | .lldpTimer port => Sys2Proof.Machine.execLldpTimer port s
  | .rocePacketReceive port frame => Sys2Proof.Machine.execRocePacketReceive port frame s
  | .cnpReceive qp => Sys2Proof.Machine.execCnpReceive qp s
  | .cnpRateTimer qp => Sys2Proof.Machine.execCnpRateTimer qp s
  | .pfcFrameReceive port priority pause pausedCycles => Sys2Proof.Machine.execPfcFrameReceive port priority pause pausedCycles s
  | .cmConnect port qp => Sys2Proof.Machine.execCmConnect port qp s
  | .fabricPortDown port => Sys2Proof.Machine.execFabricPortDown port s
  | .inboundRdmaAccess qp rkey address op line => Sys2Proof.Machine.execInboundRdmaAccess qp rkey address op s line
  | .crossingTimeout src dst => Sys2Proof.Machine.execCrossingTimeout src dst s
  | .quietEntry => Sys2Proof.Machine.execQuietEntry s
  | .dormantEntry => Sys2Proof.Machine.execDormantEntry s
  | .wakeComplete => Sys2Proof.Machine.execWakeComplete s
  | .voltageLoopPeriod quadrant ask => Sys2Proof.Machine.execVoltageLoopPeriod quadrant ask s
  | .frequencyLoopPeriod quadrant ask => Sys2Proof.Machine.execFrequencyLoopPeriod quadrant ask s
  | .thresholdLoopPeriod quadrant ask => Sys2Proof.Machine.execThresholdLoopPeriod quadrant ask s
  | .supplyDroop quadrant => Sys2Proof.Machine.execSupplyDroop quadrant s
  | .powerCapWindow meanWatts => Sys2Proof.Machine.execPowerCapWindow meanWatts s
  | .powerReportWindow meanWatts => Sys2Proof.Machine.execPowerReportWindow meanWatts s
  | .temperatureLevelChange source celsius => Sys2Proof.Machine.execTemperatureLevelChange source celsius s
  | .nrstAssert => Sys2Proof.Machine.execNrstAssert s
  | .nrstRelease => Sys2Proof.Machine.execNrstRelease s
  | .profileResetRelease => Sys2Proof.Machine.execProfileResetRelease s
  | .inputLoss => Sys2Proof.Machine.execInputLoss s
  | .overvoltage => Sys2Proof.Machine.execOvervoltage s
  | .powerOn decivolts => Sys2Proof.Machine.execPowerOn decivolts s
  | .strapSample straps => Sys2Proof.Machine.execStrapSample straps s
  | .startupStepComplete result => Sys2Proof.Machine.execStartupStepComplete result s
  | .entropyHealthFail => Sys2Proof.Machine.execEntropyHealthFail s
  | .drbgReseed => Sys2Proof.Machine.execDrbgReseed s
  | .frIndexWrite value => Sys2Proof.Machine.execFrIndexWrite value s
  | .bmbRegisterWrite address value => Sys2Proof.Machine.execBmbRegisterWrite address value s
  | .fabricPortLinkUp port => Sys2Proof.Machine.execFabricPortLinkUp port s
  | .transportError qp => Sys2Proof.Machine.execTransportError qp s
  | .caneTrainingFailed port => Sys2Proof.Machine.execCaneTrainingFailed port s

end Sys2Proof.Machine
end

