-- ==== Sys2Proof/Safety.lean ====
section
/-! DEFINITION. The terms the statements use: states whose tables are in order, and commands the gaffer takes. -/

namespace Sys2Proof.Machine

/-- Memory is in its canonical form, and the keys of every numbered table rise, so that no number is listed twice. -/
def State.TablesOk (s : State) : Prop :=
  Memory.wf s.mem ∧ s.qps.wf ∧ s.sessions.wf ∧ s.counters.wf ∧ s.ctxs.wf ∧ s.createCounts.wf ∧ s.vars.wf ∧ s.evals.wf ∧
  s.requests.wf ∧ s.tiles.wf ∧ s.phys.wf ∧ s.spares.wf ∧ s.streams.wf ∧ s.stalls.wf ∧ s.ports.wf ∧ s.links.wf

/-- The gaffer takes a command on session `n`: it is up, the queue pair lives and carries that session, no command of this sequence
awaits its reply, and every general check of R484 passes (R303, R309, R484). -/
structure Takes (k : OpSpec) (c : Cmd) (n : Nat) (ss : Session) (s : State) : Prop where
  reach : ∃ q, s.reaches c.qp = some q ∧ q.st = .session n
  session : s.sessions.find n = some ss
  fresh : ss.awaits c.seq = false
  pass : generalCheck k c ss s = none

/-- The commands the general checks of R484 decide, each with what the checks read of its opcode. OPEN_SESSION is checked by its own
rule (R306). -/
def gafferSpec : Instr → Option (OpSpec × Cmd)
  | .hello c _ => some (specOf opHello, c)
  | .closeSession c => some (specOf opCloseSession, c)
  | .keyAdd c role _ _ => some (keySpec opKeyAdd role, c)
  | .keyRemove c role _ => some (keySpec opKeyRemove role, c)
  | .contextCreate c _ => some (specOf opContextCreate, c)
  | .contextDestroy c => some (specOf opContextDestroy, c)
  | .contextReset c => some (specOf opContextReset, c)
  | .contextSuspend c => some (specOf opContextSuspend, c)
  | .contextResume c => some (specOf opContextResume, c)
  | .contextShares c _ _ _ => some (specOf opContextShares, c)
  | .variantCreate c _ => some (specOf opVariantCreate, c)
  | .variantDestroy c => some (specOf opVariantDestroy, c)
  | .variantImport c _ _ => some (specOf opVariantImport, c)
  | .variantExport c _ => some (specOf opVariantExport, c)
  | .evict c => some (specOf opEvict, c)
  | .evictForce c => some (specOf opEvict, c)
  | .expertAttach c _ _ => some (specOf opExpertAttach, c)
  | .expertDetach c _ => some (specOf opExpertDetach, c)
  | .step c _ => some (specOf opStep, c)
  | .eval c _ _ _ => some (specOf opEval, c)
  | .setRule c _ => some (specOf opSetRule, c)
  | .freeze c _ => some (specOf opFreeze, c)
  | .thaw c _ => some (specOf opFreeze, c)
  | .checkpoint c _ _ => some (specOf opCheckpoint, c)
  | .restore c _ => some (specOf opRestore, c)
  | .replay c _ _ _ => some (specOf opReplay, c)
  | .submit c _ => some (specOf opSubmit, c)
  | .cancel c _ => some (specOf opCancel, c)
  | .mapWindowInbound c _ _ _ => some (specOf opMapWindow, c)
  | .mapWindowOutbound c _ _ => some (specOf opMapWindow, c)
  | .mapWindowPresent c _ _ _ _ => some (specOf opMapWindow, c)
  | .mapWindowUnmap c _ => some (specOf opMapWindow, c)
  | .loadProgram c _ _ => some (specOf opLoadProgram, c)
  | .runProgram c _ => some (specOf opRunProgram, c)
  | .streamOpen c _ => some (specOf opStreamOpen, c)
  | .streamOpenResume c _ => some (specOf opStreamOpen, c)
  | .streamClose c _ => some (specOf opStreamClose, c)
  | .ringJoin c _ => some (specOf opRingJoin, c)
  | .ringLeave c => some (specOf opRingLeave, c)
  | .query c target => some (querySpec target, c)
  | .counters c scope => some (countersSpec scope, c)
  | .countersClear c scope => some (countersSpec scope, c)
  | .powerStatus c => some (specOf opPowerStatus, c)
  | .selectProfile c _ => some (specOf opSelectProfile, c)
  | .selectProfileReset c _ => some (specOf opSelectProfile, c)
  | .fwStage c _ => some (specOf opFwStage, c)
  | .fwActivate c => some (specOf opFwActivate, c)
  | .attest c _ _ => some (specOf opAttest, c)
  | .retireTile c _ => some (specOf opRetireTile, c)
  | .faultRecordRead c _ _ => some (specOf opFaultRecordRead, c)
  | .baseLoad c _ _ _ _ => some (specOf opBaseLoad, c)
  | _ => none

/-- Nothing waits on a session, and its port is not paused on the command priority: a reply leaves at once (R235, R288). -/
def Clear (s : State) (ss : Session) : Prop := ss.egress = [] ∧ s.paused ss.qp s.profile.cmdPriority = false

/-- The final reply packet of a command (R298, R310). -/
def State.replyTo (s : State) (c : Cmd) (op status : Nat) (params : List (Nat × Bytes)) : Out :=
  .packet (s.replyOf (ticketOf c op 0 0) true status params)

/-- What has left the module is as before and one thing more, and every session is as before. -/
def SendsOnly (o : Out) (s t : State) : Prop := t.out = s.out ++ [o] ∧ ∀ m, t.sessions.find m = s.sessions.find m

/-- What has left the module is as before, then frames to the other members, then one thing more; every session is as before. -/
def SendsLast (o : Out) (s t : State) : Prop :=
  (∃ l, t.out = s.out ++ l ++ [o] ∧ ∀ x ∈ l, ∃ p f, x = .frame p f) ∧ ∀ m, t.sessions.find m = s.sessions.find m

/-- What has left the module is as before, and then frames to the other members only. -/
def FramesOnly (s t : State) : Prop := ∃ l, t.out = s.out ++ l ∧ ∀ x ∈ l, ∃ p f, x = .frame p f

/-- The state once a session awaits the final reply of a command (R309). -/
def State.awaiting (s : State) (c : Cmd) (op n : Nat) : State :=
  s.modSession n (fun ss => { ss with awaiting := ss.awaiting ++ [(c.seq, op)] })

/-- The gaffer takes a use of a variant that is RESIDENT and lies in the grant of the header context (R176, R185). -/
structure Uses (op : Nat) (c : Cmd) (n : Nat) (ss : Session) (v : Var) (s : State) : Prop where
  takes : Takes (specOf op) c n ss s
  grant : s.granted c.ctx c.variant = true
  entry : s.var c.variant = some v
  resident : v.st = .resident

/-- The state once a use of a RESIDENT variant is taken: its session awaits the reply, and the variant was used last in this round
(R181, R309). -/
def State.using (s : State) (c : Cmd) (op n : Nat) : State :=
  (s.awaiting c op n).modVar c.variant (fun v => { v with lastUse := s.intakeRounds })

end Sys2Proof.Machine
end

