-- ==== Sys2Proof/Certificates/Slice0/Obligations.lean ====
section
/-! DEFINITION. The statements for the provers. -/

open Sys2Proof Sys2Proof.Machine

/-! ## The block as a whole -/

/-- A step runs the command at the front of the queue on the state with the queue's rest, and with an empty queue it changes nothing
(the idling is the model's choice, assumption log 13). -/
def Obligations.step_runs_the_front_command : Prop :=
  (∀ (c : Instr) (rest : List Instr) (s : State), step { s with pending := c :: rest } = exec c { s with pending := rest }) ∧
  ∀ s : State, s.pending = [] → step s = .next s

/-- After reset every context is FREE (R275), every variant is FREE (R181), no session or queue pair is open, the module is in the first
step of start-up and not READY (R459), its bypass is closed (R263), and memory lists nothing. The tables are in order at reset. -/
def Obligations.reset_state_is_closed_and_in_order : Prop :=
  ((∀ n, State.reset.ctxState n = .free) ∧ (∀ v, State.reset.varState v = .free) ∧ State.reset.sessions = [] ∧ State.reset.qps = [] ∧
  State.reset.power.mode = .starting 1 ∧ State.reset.power.ready = false ∧ State.reset.board.bypassOpen = false ∧
  State.reset.mem = [] ∧ State.reset.pending = []) ∧
  (State.reset.TablesOk)

/-- Every step keeps the tables in order: memory in its canonical form, and the keys of every numbered table rising, so that no queue
pair, session, context, variant, evaluation, request, tile, stream, port or link is listed twice. -/
def Obligations.step_keeps_tables_in_order : Prop :=
  ∀ s t : State, s.TablesOk → step s = .next t → t.TablesOk

/-! ## General checks (R303, R314, R484) -/

/-- A command that fails a general check is answered with the status of the first check that fails, and has no effect (R484);
the reply has no parameter but the count of 0 that a SUBMIT's carries (assumption log 138). Every packet
but HELLO on a queue pair in the HELLO state, and every packet but HELLO and OPEN_SESSION on one in the OPEN state, is answered
NO_SESSION and has no effect (R303). -/
def Obligations.commands_turned_away_have_no_effect : Prop :=
  (∀ (i : Instr) (k : OpSpec) (c : Cmd) (s : State) (q : Qp) (n st : Nat) (ss : Session), gafferSpec i = some (k, c) →
    s.reaches c.qp = some q → q.st = .session n → s.sessions.find n = some ss → ss.awaits c.seq = false →
    s.power.resetAfter = none → s.fw.activateTicket = none → generalCheck k c ss s = some st →
    exec i s = .next (s.sendOn n (s.replyOf (ticketOf c k.op n ss.serial) true st (refusalParams k.op)))) ∧
  (∀ (i : Instr) (k : OpSpec) (c : Cmd) (s : State) (q : Qp), gafferSpec i = some (k, c) → k.op ≠ opHello → s.reaches c.qp = some q →
    (q.st = .hello ∨ q.st = .openState) → s.power.resetAfter = none → s.fw.activateTicket = none →
    exec i s = .next (s.emit (s.replyTo c k.op stNoSession [])))
/-- Before READY every command but HELLO, OPEN_SESSION, CLOSE_SESSION, QUERY and FAULT_RECORD_READ is answered BUSY; of those, start-up
changes no check, OPEN_SESSION opens a session, and HELLO opens its queue pair (R314). -/
def Obligations.before_ready_only_five_commands : Prop :=
  ∀ (s : State) (q : Qp) (n : Nat) (ss : Session) (c : Cmd), s.reaches c.qp = some q → s.power.ready = false →
    (∀ i k, gafferSpec i = some (k, c) → q.st = .session n → s.sessions.find n = some ss → ss.awaits c.seq = false →
      s.power.resetAfter = none → s.fw.activateTicket = none →
      if k.op ∈ [opHello, opCloseSession, opQuery, opFaultRecordRead] then
        generalCheck k c ss s = generalCheck k c ss { s with power := { s.power with ready := true } }
      else ∃ p, (k.op ≠ opSubmit → p = []) ∧
        exec i s = .next (s.sendOn n (s.replyOf (ticketOf c k.op n ss.serial) true stBusy p))) ∧
    (∀ role key m, q.st = .openState → s.qps.find c.qp = some q → role ≤ 1 →
      (s.keysFor role c.ctx).any (fun k => k.accepts key) = true → s.sessions.lowestFree 1024 = some m →
      ∃ t : State, exec (.openSession c role key) s = .next t ∧ (t.sessions.find m).isSome) ∧
    (∀ offers m, q.st = .hello → s.qps.find c.qp = some q → offers.length ≤ 8 → (1, m) ∈ offers →
      ∃ (t : State) (v : Nat), exec (.hello c offers) s = .next t ∧ t.qps.find c.qp = some { q with st := .openState, minor := v })

/-- QUERY, COUNTERS, POWER_STATUS and FAULT_RECORD_READ, once the general checks and their own pass, are answered OK with what they
read, and change nothing else (the counter of free values is the model's own). -/
def Obligations.reading_commands_change_nothing : Prop :=
  ∀ (s : State) (c : Cmd) (n : Nat) (ss : Session), Clear s ss →
    (∀ target, Takes (querySpec target) c n ss s → s.queryAllowed target ss.role.isTenant = true →
      ∃ t p, exec (.query c target) s = .next t ∧ SendsOnly (s.replyTo c opQuery stOk p) s t ∧
        t = { s with out := t.out, sessions := t.sessions, freeCount := t.freeCount }) ∧
    (∀ scope, Takes (countersSpec scope) c n ss s → scope ≤ 1 → (scope = 0 → ss.role = .operator) →
      ∃ t : State, exec (.counters c scope) s = .next t ∧
        SendsOnly (s.replyTo c opCounters stOk [(0x81, s.counterRecords scope c.ctx)]) s t ∧
        t = { s with out := t.out, sessions := t.sessions }) ∧
    (Takes (specOf opPowerStatus) c n ss s →
      ∃ t hot, exec (.powerStatus c) s = .next t ∧
        SendsOnly (s.replyTo c opPowerStatus stOk [p16 0x81 s.power.reported, p16 0x82 s.board.input,
          p8 0x83 s.power.mode.powerCode, (0x84, [hot])]) s t ∧
        t = { s with out := t.out, sessions := t.sessions, freeCount := t.freeCount }) ∧
    (∀ first count, Takes (specOf opFaultRecordRead) c n ss s → first ≤ 63 → 1 ≤ count → count ≤ 64 →
      ∃ t : State, exec (.faultRecordRead c first count) s = .next t ∧
        SendsOnly (s.replyTo c opFaultRecordRead stOk
          [(0x81, ((s.flash.faults.drop first).take count).flatMap FaultRecord.encode)]) s t ∧
        t = { s with out := t.out, sessions := t.sessions })

/-- COUNTERS with CLEAR is answered with the values before it; then every module error counter and every stall counter reads zero with
SAT clear, the performance counters stay, and nothing else changes (R366, R405). -/
def Obligations.counters_clear_clears_errors_only : Prop :=
  ∀ (s : State) (c : Cmd) (n : Nat) (ss : Session), Clear s ss → Takes (countersSpec 0) c n ss s → ss.role = .operator →
    ∃ t : State, exec (.countersClear c 0) s = .next t ∧
      SendsOnly (s.replyTo c opCounters stOk [(0x81, s.counterRecords 0 c.ctx)]) s t ∧
      (∀ id, t.counters.getOr id Counter.zero =
        if counterClass id = 0 then Counter.zero else s.counters.getOr id Counter.zero) ∧
      (∀ e, t.stalls.getOr e Counter.zero = Counter.zero) ∧
      t = { s with out := t.out, sessions := t.sessions, counters := t.counters, stalls := t.stalls }

/-! ## Sessions (R303 to R308, R287, R289, R326 to R330) -/

/-- HELLO (R303). On a queue pair in the HELLO state, the highest minor offered for major 1 and the firmware's give the session minor and
the pair moves to OPEN; with no offer of major 1 the answer is BAD_VERSION and the pair stays. On one in the OPEN state it answers the
same minor and changes nothing, and so on one that carries a session. More than eight offers are refused in every state (R323). -/
def Obligations.hello_agrees_a_minor : Prop :=
  ∀ (s : State) (c : Cmd) (offers : List (Nat × Nat)) (q : Qp), s.reaches c.qp = some q →
    (q.st = .openState → offers ≠ [] →
      (8 < offers.length → exec (.hello c offers) s = .next (s.emit (s.replyTo c opHello stNotPermitted []))) ∧
      (offers.length ≤ 8 → exec (.hello c offers) s = .next (s.emit (s.replyTo c opHello stOk (s.helloParams q.minor))))) ∧
    (q.st = .hello → offers ≠ [] →
      (8 < offers.length → exec (.hello c offers) s = .next (s.emit (s.replyTo c opHello stNotPermitted []))) ∧
      (offers.length ≤ 8 → (∀ o ∈ offers, o.1 ≠ 1) →
        exec (.hello c offers) s = .next (s.emit (s.replyTo c opHello stBadVersion [p16 0x81 1]))) ∧
      (∀ m, offers.length ≤ 8 → (1, m) ∈ offers → (∀ o ∈ offers, o.1 = 1 → o.2 ≤ m) → s.qps.find c.qp = some q →
        ∃ t : State, exec (.hello c offers) s = .next t ∧ t.qps.find c.qp = some { q with st := .openState, minor := min m s.fwMinor } ∧
          (∀ k, k ≠ c.qp → t.qps.find k = s.qps.find k) ∧
          t = { s with qps := t.qps, out := s.out ++ [t.replyTo c opHello stOk (s.helloParams (min m s.fwMinor))] })) ∧
    (∀ n ss, q.st = .session n → Clear s ss → Takes (specOf opHello) c n ss s → offers ≠ [] →
      ∃ t : State, exec (.hello c offers) s = .next t ∧
        (offers.length ≤ 8 → SendsOnly (s.replyTo c opHello stOk (s.helloParams q.minor)) s t) ∧
        (8 < offers.length → SendsOnly (s.replyTo c opHello stNotPermitted []) s t) ∧
        t = { s with out := t.out, sessions := t.sessions })

/-- OPEN_SESSION on a queue pair in the OPEN state (R306): a key that matches no digest of its role and context is AUTH_FAIL, counted,
and the pair stays; a key that matches is BUSY when 1,024 sessions are open, and else opens the session with the lowest free number. -/
def Obligations.open_session_by_key : Prop :=
  ∀ (s : State) (c : Cmd) (role : Nat) (key : Bytes) (q : Qp), s.reaches c.qp = some q → s.qps.find c.qp = some q →
    q.st = .openState → role ≤ 1 →
    (¬ (∃ k ∈ s.keysFor role c.ctx, sha384 (k.salt ++ key) = k.digest) →
      exec (.openSession c role key) s = .next ((s.countError cAuthFailures 1).emit (s.replyTo c opOpenSession stAuthFail []))) ∧
    ((∃ k ∈ s.keysFor role c.ctx, sha384 (k.salt ++ key) = k.digest) →
      (s.sessions.lowestFree 1024 = none →
        exec (.openSession c role key) s = .next (s.emit (s.replyTo c opOpenSession stBusy []))) ∧
      ∀ m, s.sessions.lowestFree 1024 = some m →
        ∃ t ss p, exec (.openSession c role key) s = .next t ∧ t.qps.find c.qp = some { q with st := .session m } ∧
          t.sessions.find m = some ss ∧ ss.role = (if role = 0 then .operator else .tenant c.ctx) ∧ ss.qp = c.qp ∧ ss.awaiting = [] ∧
          (∀ k, k ≠ m → t.sessions.find k = s.sessions.find k) ∧
          t = { s with qps := t.qps, sessions := t.sessions, nextId := s.nextId + 1,
                       out := s.out ++ [s.replyTo c opOpenSession stOk p] })

/-- CLOSE_SESSION (R308): the reply is OK and leaves before anything its end brings; the session is gone and its queue pair OPEN. For a
session with no SUBMIT, parked use or repeating EVAL nothing else changes. -/
def Obligations.close_session_ends_it : Prop :=
  ∀ (s : State) (c : Cmd) (n : Nat) (ss : Session) (q : Qp), Takes (specOf opCloseSession) c n ss s → Clear s ss →
    ss.qp = c.qp → s.qps.find c.qp = some q →
    (∀ p ∈ s.requests, p.2.ticket.serial ≠ ss.serial) → (∀ p ∈ s.park, p.ticket.serial ≠ ss.serial) →
    (∀ p ∈ s.evals, p.2.ticket.serial ≠ ss.serial) →
    ∃ u : State, exec (.closeSession c) s = .next u.settle.resetIfDue ∧ u.sessions.find n = none ∧
      (∀ m, m ≠ n → u.sessions.find m = s.sessions.find m) ∧ u.qps.find c.qp = some { q with st := .openState } ∧
      u = { s with sessions := u.sessions, qps := u.qps, out := s.out ++ [s.replyTo c opCloseSession stOk []] }

/-- KEY_ADD and KEY_REMOVE for the operator role (R305): the key takes the lowest free slot of eight, TABLE_FULL when there is none; a
removal empties a slot, but never the last filled one; nothing else of the module changes. KEY_ADD and KEY_REMOVE for the tenant role
act on the four slots of the header context, and change nothing of any other context (R304, R305). -/
def Obligations.session_keys_are_kept : Prop :=
  (∀ (s : State) (c : Cmd) (n : Nat) (ss : Session) (salt digest : Bytes) (slot : Nat), Clear s ss →
    (Takes (keySpec opKeyAdd 0) c n ss s →
      (s.flash.operatorKeys.lowestFree 8 = none → ∃ t : State, exec (.keyAdd c 0 salt digest) s = .next t ∧
        SendsOnly (s.replyTo c opKeyAdd stTableFull []) s t ∧ t = { s with out := t.out, sessions := t.sessions }) ∧
      (∀ m, s.flash.operatorKeys.lowestFree 8 = some m → ∃ t : State, exec (.keyAdd c 0 salt digest) s = .next t ∧
        SendsOnly (s.replyTo c opKeyAdd stOk [p8 0x81 m]) s t ∧
        t = { s with out := t.out, sessions := t.sessions,
                     flash := { s.flash with operatorKeys := s.flash.operatorKeys.put m ⟨salt, digest⟩ } })) ∧
    (Takes (keySpec opKeyRemove 0) c n ss s → slot < 8 →
      (s.flash.operatorKeys.keys = [slot] → ∃ t : State, exec (.keyRemove c 0 slot) s = .next t ∧
        SendsOnly (s.replyTo c opKeyRemove stNotPermitted []) s t ∧ t = { s with out := t.out, sessions := t.sessions }) ∧
      (s.flash.operatorKeys.keys ≠ [slot] → ∃ t : State, exec (.keyRemove c 0 slot) s = .next t ∧
        SendsOnly (s.replyTo c opKeyRemove stOk []) s t ∧
        t = { s with out := t.out, sessions := t.sessions,
                     flash := { s.flash with operatorKeys := s.flash.operatorKeys.del slot } }))) ∧
  (∀ (s : State) (c : Cmd) (n : Nat) (ss : Session) (x : Ctx) (salt digest : Bytes) (slot : Nat), Clear s ss → s.ctx c.ctx = some x →
    (Takes (keySpec opKeyAdd 1) c n ss s → ∀ m, x.keys.lowestFree 4 = some m →
      ∃ t : State, exec (.keyAdd c 1 salt digest) s = .next t ∧ SendsOnly (s.replyTo c opKeyAdd stOk [p8 0x81 m]) s t ∧
        t.ctx c.ctx = some { x with keys := x.keys.put m ⟨salt, digest⟩ } ∧ (∀ k, k ≠ c.ctx → t.ctx k = s.ctx k) ∧
        t = { s with out := t.out, sessions := t.sessions, ctxs := t.ctxs }) ∧
    (Takes (keySpec opKeyRemove 1) c n ss s → slot < 4 →
      ∃ t : State, exec (.keyRemove c 1 slot) s = .next t ∧ SendsOnly (s.replyTo c opKeyRemove stOk []) s t ∧
        t.ctx c.ctx = some { x with keys := x.keys.del slot } ∧ (∀ k, k ≠ c.ctx → t.ctx k = s.ctx k) ∧
        t = { s with out := t.out, sessions := t.sessions, ctxs := t.ctxs }))

/-- EVENT_PACKET_SEND (R287, R289): the event at the front of a session's queue leaves with event_seq one more than the last and the
count of events lost, which starts again from zero. With no reply behind it, what is behind it stays. -/
def Obligations.event_packet_numbers_rise : Prop :=
  ∀ (s : State) (n : Nat) (ss : Session) (e : Event) (rest : List Egress), s.sessions.find n = some ss →
    s.paused ss.qp s.profile.cmdPriority = false → ss.egress = .event e :: rest → (∀ g ∈ rest.head?, ∃ x, g = .event x) →
    ∃ u : State, exec (.eventPacketSend n) s = .next u.settle.resetIfDue ∧
      u.out = s.out ++ [.packet (eventPacket ss.qp (s.minorOf ss.qp) ((ss.eventSeq + 1) % 2 ^ 32) (ss.dropped % 2 ^ 32) e)] ∧
      u.sessions.find n = some { ss with egress := rest, eventSeq := (ss.eventSeq + 1) % 2 ^ 32, dropped := 0 } ∧
      (∀ m, m ≠ n → u.sessions.find m = s.sessions.find m) ∧ u = { s with out := u.out, sessions := u.sessions }

/-! ## Arrival and rounds (R297, R299, R315, R316) -/

/-- SEND_RECEIVED (R297): with a receive free and room in the pool the packet waits, last of its queue pair; with neither it is answered
RNR and nothing else changes; a packet of more than 1,048,576 bytes is an invalid request, after which the pair is in error. -/
def Obligations.send_waits_or_is_refused : Prop :=
  ∀ (s : State) (qp : Nat) (p : Bytes) (q : Qp), s.qps.find qp = some q → q.st ≠ .error → (s.port q.port).up = true → s.portsRun = true →
    (s.port q.port).rx = [] → (s.port q.port).xoffSent = [] → s.power.mode = .active →
    (p.length ≤ 1048576 → q.inbox.length < 32 → s.poolUsed + p.length ≤ 2 ^ 30 →
      ∃ t : State, exec (.sendReceived qp p) s = .next t ∧ t.qps.find qp = some { q with inbox := q.inbox ++ [p] } ∧
        (∀ k, k ≠ qp → t.qps.find k = s.qps.find k) ∧ t = { s with qps := t.qps, ports := t.ports }) ∧
    (p.length ≤ 1048576 → (32 ≤ q.inbox.length ∨ 2 ^ 30 < s.poolUsed + p.length) →
      ∃ t : State, exec (.sendReceived qp p) s = .next t ∧ t = { s with out := s.out ++ [.nak qp .rnr], ports := t.ports }) ∧
    (1048576 < p.length → (q.st = .hello ∨ q.st = .openState) →
      ∃ u : State, exec (.sendReceived qp p) s = .next u.settle.resetIfDue ∧ u.out = s.out ++ [.nak qp .invalidRequest] ∧
        u.qps.find qp = some { q with st := .error, inbox := [] })

/-- A round takes packets in the order of their queue pair, at most sixteen; a dropped packet takes no place; nothing follows a session-
group command (R299, R315). The commands of a round are applied by class, then role, then session number, then arrival: the order is a
rearrangement of what was taken, sorted by the key, and packets whose keys tie keep the order they arrived in (R316). INTAKE_ROUND
(R299, R303, R315): with one packet waiting, of another protocol major, on a queue pair without a session, the round is counted and the
packet answered BAD_VERSION; with one that is dropped, the drop is counted and nothing is answered. -/
def Obligations.rounds_take_and_order_commands : Prop :=
  (∀ (room : Nat) (l : List Bytes),
    let r := takePackets room l
    r.1.length ≤ room ∧ (∀ p ∈ r.1, phDropped p = false) ∧ (∀ p ∈ r.1.dropLast, phEndsTake p = false) ∧
    ∃ gone, gone ++ r.2.2 = l ∧ gone.filter (fun p => !phDropped p) = r.1 ∧ (gone.filter phDropped).length = r.2.1) ∧
  (∀ l : List Taken,
    (orderRound l).Perm l ∧ (orderRound l).Pairwise (fun a b => a.le b = true) ∧
    ∀ x : Taken, (orderRound l).filter (fun a => a.le x && x.le a) = l.filter (fun a => a.le x && x.le a)) ∧
  (∀ (s : State) (qp : Nat) (q : Qp) (p : Bytes), s.gafferUp = true → s.qps = [(qp, q)] → s.sessions = [] → q.st = .hello →
    q.inbox = [p] → s.vars = [] → s.fw.activateTicket = none →
    (phDropped p = false → phMajor p ≠ 1 →
      ∃ u : State, exec .intakeRound s = .next u.settle.resetIfDue ∧ u.intakeRounds = s.intakeRounds + 1 ∧
        u.qps.find qp = some { q with inbox := [] } ∧
        u.out = s.out ++ [s.replyTo (phCmd qp p) (phOpcode p) stBadVersion []]) ∧
    (phDropped p = true →
      ∃ u : State, exec .intakeRound s = .next u.settle.resetIfDue ∧ u.intakeRounds = s.intakeRounds + 1 ∧
        u.qps.find qp = some { q with inbox := [] } ∧ u.out = s.out ∧
        u.counters = (s.countError cBadPackets 1).counters))

/-! ## Profiles, firmware, attestation (R369 to R372, R416, R419, R420, R430) -/

/-- SELECT_PROFILE (R369) is answered OK with the profile's digest when the running image holds it usable, and only the selection
changes; with RESET a warm reset follows the reply, after which no session, queue pair or context is left and the selection stands. -/
def Obligations.select_profile_and_reset : Prop :=
  ∀ (s : State) (c : Cmd) (n p : Nat) (ss : Session) (i : Image) (f : Profile), Takes (specOf opSelectProfile) c n ss s → Clear s ss →
    s.fw.running = some i → imageProfile s.fuses.grade p i = some f →
    (∃ t : State, exec (.selectProfile c p) s = .next t ∧
      SendsOnly (s.replyTo c opSelectProfile stOk [(0x81, imageProfileDigest i p)]) s t ∧
      t = { s with out := t.out, sessions := t.sessions, selected := some p }) ∧
    (∃ t : State, exec (.selectProfileReset c p) s = .next t ∧ t.power.mode = .warmReset false ∧ t.power.ready = false ∧
      t.selected = some p ∧ t.sessions = [] ∧ t.qps = [] ∧ t.ctxs = [] ∧ t.vars = [] ∧
      t.out = s.out ++ [s.replyTo c opSelectProfile stOk [(0x81, imageProfileDigest i p)]])

/-- FW_STAGE leaves no staged image while it reads one (R370, R419). When the read is done a valid image stands in the slot that is not
active, staged unless another FW_STAGE waits, and FW_STAGE is answered OK with its digest; one that cannot be read is answered
STREAM_STALL. A region that does not begin at a multiple of 65,536 is NOT_PERMITTED (R323, R324). -/
def Obligations.fw_stage_fills_inactive_slot : Prop :=
  (∀ (s : State) (c : Cmd) (n : Nat) (ss : Session) (r : Region), Takes (specOf opFwStage) c n ss s →
    (r.aligned = false → exec (.fwStage c r) s =
      .next ((s.awaiting c opFwStage n).answer (ticketOf c opFwStage n ss.serial) stNotPermitted)) ∧
    (r.aligned = true → ∃ t : State, exec (.fwStage c r) s = .next t ∧ t.flash.staged = false ∧ t.flash.otherSlot = none ∧
      t.flash.activeSlot = s.flash.activeSlot ∧ t.out = s.out ++ [.hostRead r 0] ∧
      t = { s with sessions := (s.awaiting c opFwStage n).sessions, flash := t.flash, out := t.out,
                   fw := { s.fw with stageTickets := s.fw.stageTickets ++ [ticketOf c opFwStage n ss.serial] } })) ∧
  ∀ (s : State) (t : Ticket) (rest : List Ticket), s.gafferUp = true → s.fw.stageTickets = t :: rest →
    (∀ i, s.imageOk i = true → ∃ u : State, exec (.fwStageCheckDone (.data i)) s = .next u ∧ u.flash.otherSlot = some i ∧
      u.flash.staged = decide (rest = []) ∧ u.flash.activeSlot = s.flash.activeSlot ∧ u.fw.stageTickets = rest) ∧
    exec (.fwStageCheckDone .error) s = .next ((s.modFw (fun f => { f with stageTickets := rest })).answer t stStreamStall)

/-- FW_ACTIVATE makes the staged image active and running and takes the gaffer offline, its answer to come (R371, R420). If the new image
does not return, the slot that was active is active again. When the gaffer returns from a switch the fused security version is not
below the running image's, and nothing of the gaffer is offline. -/
def Obligations.fw_activate_switches_slots : Prop :=
  (∀ (s : State) (c : Cmd) (n : Nat) (ss : Session) (i : Image), Takes (specOf opFwActivate) c n ss s → s.flash.staged = true →
    s.flash.otherSlot = some i → s.imageOk i = true →
    ∃ t : State, exec (.fwActivate c) s = .next t ∧ t.flash.activeSlot = some i ∧ t.flash.otherSlot = s.flash.activeSlot ∧
      t.flash.staged = false ∧ t.fw.running = some i ∧ t.fw.offline = true ∧ t.gafferUp = false ∧
      t.fw.activateTicket = some (ticketOf c opFwActivate n ss.serial) ∧
      t = { s with sessions := (s.awaiting c opFwActivate n).sessions, flash := t.flash, fw := t.fw }) ∧
  (∀ s : State, s.fw.offline = true → s.fw.switched = true →
    ∃ t : State, exec .fwActivateTimeout s = .next t ∧ t.flash.activeB = s.fw.previousB ∧ t.fw.running = t.flash.activeSlot ∧
      t.fw.switched = false ∧ t = { s with flash := t.flash, fw := t.fw }) ∧
  (∀ (s : State) (i : Image), s.fw.offline = true → s.fw.switched = true → s.fw.running = some i → s.fw.heldAttests = [] →
    ∃ u : State, exec .gafferReturn s = .next u.settle ∧ u.fw.offline = false ∧ u.fw.activateTicket = none ∧
      u.fuses.securityVersion = max s.fuses.securityVersion i.securityVersion)

/-- ATTEST (R372, R430, R435): an operator may name up to 64 contexts, a tenant only its own; each report of a session carries a number
one more than its last, and with FW_ACTIVATE not under way it is answered at once, nothing else changing. -/
def Obligations.attest_reports_are_numbered : Prop :=
  ∀ (s : State) (c : Cmd) (n : Nat) (ss : Session) (nonce : Bytes) (contexts : Option (List Nat)) (l : List Nat),
    Takes (specOf opAttest) c n ss s → Clear s ss → s.fw.activateTicket = none →
    ((ss.role = .operator ∧ contexts = some l ∧ l.length ≤ 64 ∧ ∀ x ∈ l, x < 1024) ∨ (ss.role = .operator ∧ contexts = none ∧ l = []) ∨
      (∃ m, ss.role = .tenant m ∧ contexts = none ∧ l = [m]) ∨
      ∃ m, ss.role = .tenant m ∧ contexts = some l ∧ l.length ≤ 64 ∧ ∀ x ∈ l, x = m) →
    ∃ t b, exec (.attest c nonce contexts) s = .next t ∧
      t.sessions.find n = some { ss with reportSeq := ss.reportSeq + 1 } ∧ (∀ m, m ≠ n → t.sessions.find m = s.sessions.find m) ∧
      t = { s with sessions := t.sessions, out := s.out ++ [s.replyTo c opAttest stOk [(0x81, b)]] }

/-! ## Start-up and resets (R413, R451 to R454, R459 to R461, R465, R468 to R472) -/

/-- Start-up, steps 1 to 5 (R417, R418, R457, R459): step 1 ends once nRST is high; step 2 runs the boot image and advances the boot count,
or the module fails; step 4 puts the profile in force with every core clock at 1.25 GHz; step 5 counts the free HBM. Start-up, steps 6
to 8 (R378, R459): step 6 ends with PGOOD high and every logical tile of a quadrant of 16 or more good ones on its lowest-numbered ones
in order; step 8 ends, when the join has an end, ACTIVE and READY, every operator session's queue ending with READY. -/
def Obligations.startup_steps_end_in_order : Prop :=
  (∀ s : State,
    (s.power.mode = .starting 1 → s.board.nrstLow = false →
      ∃ t : State, exec (.startupStepComplete .done) s = .next t ∧ t.power.mode = .starting 2 ∧ t = { s with power := t.power }) ∧
    (s.power.mode = .starting 2 → ∀ i, s.bootImage = some (i, false) → s.flash.bootCount < 0xFFFFFFFF → s.flash.powerLost = false →
      ∃ t : State, exec (.startupStepComplete .done) s = .next t ∧ t.power.mode = .starting 3 ∧ t.fw.running = some i ∧
        t.flash = { s.flash with bootCount := s.flash.bootCount + 1 } ∧
        t = { s with power := t.power, flash := t.flash, fw := t.fw, drbgSeedAt := s.drbgRequests }) ∧
    (s.power.mode = .starting 2 →
      ∃ t : State, exec (.startupStepComplete .noBootSlot) s = .next t ∧ t.power.mode = .failed ∧ t.board.nfaultLow = true) ∧
    (s.power.mode = .starting 3 →
      ∃ t : State, exec (.startupStepComplete .done) s = .next t ∧ t.power.mode = .starting 4 ∧ t = { s with power := t.power }) ∧
    (s.power.mode = .starting 4 → ∀ p f, s.chosenProfile = some (p, f) →
      ∃ t : State, exec (.startupStepComplete .done) s = .next t ∧ t.power.mode = .starting 5 ∧ t.profile = f ∧ t.profileNo = p ∧
        (∀ q, q < 16 → (t.quad q).mhz = 1250) ∧ t = { s with power := t.power, profile := f, profileNo := p }) ∧
    (s.power.mode = .starting 5 →
      ∃ t : State, exec (.startupStepComplete .done) s = .next t ∧ t.power.mode = .starting 6 ∧
        t = { s with power := t.power, hbmFree := hbmPages s.fuses.grade - moduleAreaPages - s.hbmRetired.length })) ∧
  (∀ s : State,
    (s.power.mode = .starting 6 → s.profile.sparePolicy = 0 → s.flash.retired = [] →
      ∃ t : State, exec (.startupStepComplete .done) s = .next t ∧ t.power.mode = .starting 7 ∧ t.board.pgood = true ∧
        (∀ n, n < 256 → t.phys.find n = some (n % 16)) ∧ (∀ q, q < 16 → t.spares.find q = some 16) ∧
        t = { s with power := t.power, board := t.board, phys := t.phys, spares := t.spares, tiles := t.tiles }) ∧
    (s.power.mode = .starting 8 → s.ring.st = .out → s.vacantCount = 0 → (∀ p ∈ s.sessions, p.2.queued < 1024) →
      ∃ u : State, exec (.startupStepComplete .done) s = .next u.settle ∧ u.power.mode = .active ∧ u.power.ready = true ∧
        (∀ n ss, s.sessions.find n = some ss →
          u.sessions.find n = some (if ss.role = .operator then { ss with egress := ss.egress ++ [.event readyEvent] } else ss)) ∧
        u = { s with power := u.power, sessions := u.sessions }))

/-- Coincident resets (R453). A loss of input during any reset (and at any other time) becomes a power-on; an nRST during start-up restarts
it at step 2, and one during step 1 holds it there until the pin is released (R469); an nRST during FW_ACTIVATE
starts from the slot the slot control record names; an nRST in QUIET or DORMANT is a warm reset like any other. -/
def Obligations.coincident_resets_resolve : Prop :=
  ∀ s : State,
    (∀ d, s.power.mode ≠ .unpowered → 400 ≤ d → d ≤ 600 →
      ∃ t u, exec .inputLoss s = .next t ∧ t.power.mode = .unpowered ∧ exec (.powerOn d) t = .next u ∧ u.power.mode = .starting 1 ∧
        u.power.cold = true) ∧
    (∀ k, s.power.mode = .starting k → k ≠ 1 →
      ∃ t u, exec .nrstAssert s = .next t ∧ t.power.mode = .warmReset true ∧ exec .nrstRelease t = .next u ∧ u.power.mode = .starting 2) ∧
    (s.power.mode = .starting 1 → ∃ t u, exec .nrstAssert s = .next t ∧ t.power.mode = .starting 1 ∧ exec .nrstRelease t = .next u ∧
      u.power.mode = .starting (if s.power.stepOneDone then 2 else 1)) ∧
    (∀ k i, s.fw.activateTicket = some k → s.power.mode = .active → s.flash.activeSlot = some i → s.imageOk i = true →
      s.flash.bootCount < 0xFFFFFFFF →
      ∃ t u v, exec .nrstAssert s = .next t ∧ exec .nrstRelease t = .next u ∧ exec (.startupStepComplete .done) u = .next v ∧
        v.fw.running = some i ∧ v.power.mode = .starting 3) ∧
    (s.power.mode = .quiet ∨ s.power.mode = .dormant ∨ s.power.mode = .active →
      exec .nrstAssert s = .next ((s.modBoard (fun b => { b with nrstLow := true })).warmReset true))

/-- A warm reset (R451): it closes an open bypass, lowers PGOOD and raises nFAULT, ends every session and all work, and keeps what is fused
or in flash but for the fault log; a reset by SELECT_PROFILE ends by itself, one by nRST when the pin is released. What else survives is
the model's reading (assumption log 29). A loss of input or an overvoltage closes the bypass and leaves only what is fused, in flash and
on the board; one met in operation is marked for the record of the next start-up (R408, R461, R465). A failure of the entropy test is
the failed state (R413, R454). -/
def Obligations.resets_end_all_work : Prop :=
  ((∀ s : State, s.power.mode = .active →
    ∃ t : State, exec .nrstAssert s = .next t ∧ t.power.mode = .warmReset true ∧ t.board.pgood = false ∧ t.board.nfaultLow = false ∧
      t.sessions = [] ∧ t.qps = [] ∧ t.ctxs = [] ∧ t.vars = [] ∧ t.steps = [] ∧ t.streams = [] ∧ t.tiles = [] ∧ t.mem = [] ∧
      t.fuses = s.fuses ∧ t.flash.operatorKeys = s.flash.operatorKeys ∧ t.flash.slotA = s.flash.slotA ∧ t.flash.slotB = s.flash.slotB ∧
      t.flash.retired = s.flash.retired ∧ t.pending = s.pending ∧ t.out = s.out) ∧
  (∀ s : State, s.power.mode = .warmReset false → s.board.nrstLow = false →
    ∃ t : State, exec .profileResetRelease s = .next t ∧ t.power.mode = .starting 2 ∧ t = { s with power := t.power })) ∧
  ((∀ s : State, s.power.mode ≠ .unpowered →
    ∃ t : State, exec .inputLoss s = .next t ∧ exec .overvoltage s = .next t ∧ t.power.mode = .unpowered ∧ t.selected = none ∧
      t.sessions = [] ∧ t.ctxs = [] ∧ t.mem = [] ∧ t.counters = [] ∧ t.fuses = s.fuses ∧ t.board.pgood = false ∧
      (s.power.mode = .active ∨ s.power.mode = .quiet ∨ s.power.mode = .dormant → t.flash.powerLost = true)) ∧
  (∀ s : State, s.rotStarted = true →
    ∃ t : State, exec .entropyHealthFail s = .next t ∧ t.power.mode = .failed ∧ t.board.nfaultLow = true ∧ t.board.pgood = false ∧
      t.sessions = [] ∧ t.fuses = s.fuses))

/-- Straps are taken once, within step 1 (R468). The DRBG is reseeded after every 2^20 requests (R413). Of the board registers only fr_index
is written: a value above 63 reads back as 63, and a write elsewhere changes nothing (R472). The loops of a quadrant in service (R447):
supply, core clock and body bias move by their one step and stay within their ranges; a droop stretches the clock; no other quadrant and
nothing else changes. -/
def Obligations.straps_seeds_and_loops : Prop :=
  (∀ s : State,
    (∀ v, s.power.mode = .starting 1 → s.power.stepOneDone = false → v < 4 →
      exec (.strapSample v) s = .next { s with board := { s.board with straps := v } }) ∧
    (∀ v, s.power.mode ≠ .starting 1 → exec (.strapSample v) s = .next s) ∧
    (s.rotStarted = true → s.drbgSeedAt + 2 ^ 20 ≤ s.drbgRequests →
      exec .drbgReseed s = .next { s with drbgSeedAt := s.drbgRequests }) ∧
    (∀ v, s.busUp = true → exec (.frIndexWrite v) s = .next { s with board := { s.board with frIndex := min v 63 } } ∧
      exec (.bmbRegisterWrite 0x34 v) s = exec (.frIndexWrite v) s) ∧
    (∀ a v, a ≠ 0x34 → exec (.bmbRegisterWrite a v) s = .next s)) ∧
  (∀ (s : State) (q : Nat) (k : Quadrant) (m : Move), s.loopRuns q = true → s.power.quads.find q = some k →
    (∃ t : State, exec (.voltageLoopPeriod q m) s = .next t ∧
      t.quad q = { k with stretch := false, millivolts := match m with
        | .up => min (k.millivolts + 5) 900 | .hold => k.millivolts | .down => max (k.millivolts - 5) 600 } ∧
      (∀ p, p ≠ q → t.quad p = s.quad p) ∧ t = { s with power := { s.power with quads := t.power.quads } }) ∧
    (s.power.level = 0 → s.power.pacing = 0 → ∃ t : State, exec (.frequencyLoopPeriod q m) s = .next t ∧
      t.quad q = { k with mhz := match m with
        | .up => min (k.mhz + 25) s.profile.maxCoreMhz | .hold => k.mhz | .down => max (k.mhz - 25) 1250 } ∧
      (∀ p, p ≠ q → t.quad p = s.quad p) ∧ t = { s with power := { s.power with quads := t.power.quads } }) ∧
    (0 < s.power.level → ∃ t : State, exec (.frequencyLoopPeriod q m) s = .next t ∧ (t.quad q).mhz = max (k.mhz - 25) 1250) ∧
    (∃ t : State, exec (.thresholdLoopPeriod q m) s = .next t ∧
      (-300 ≤ k.bias → k.bias ≤ 300 → -300 ≤ (t.quad q).bias ∧ (t.quad q).bias ≤ 300) ∧
      (t.quad q).bias = (match m with | .up => min (k.bias + 25) 300 | .hold => k.bias | .down => max (k.bias - 25) (-300)) ∧
      (∀ p, p ≠ q → t.quad p = s.quad p) ∧ t = { s with power := { s.power with quads := t.power.quads } }) ∧
    (∃ t : State, exec (.supplyDroop q) s = .next t ∧ t.quad q = { k with stretch := true } ∧ (∀ p, p ≠ q → t.quad p = s.quad p) ∧
      t = { s with power := { s.power with quads := t.power.quads } }))
/-! ## Power (R436 to R449) -/

/-- Power windows and temperatures. A report window leaves the mean rounded down to 5 W (R436). Pacing stays below 16 sixteenths; a cap
window above the cap steps every quadrant above 1.25 GHz down (R448). A reading that reaches SHUTDOWN is the failed state; any other sets
the level the thresholds give (R449). -/
def Obligations.power_windows_and_temperatures : Prop :=
  ∀ s : State,
    (∀ w, s.power.mode ≠ .unpowered → exec (.powerReportWindow w) s = .next { s with power := { s.power with reported := w - w % 5 } }) ∧
    (∀ w, s.power.mode = .active → s.power.pacing ≤ 15 →
      ∃ t : State, exec (.powerCapWindow w) s = .next t ∧ t.power.pacing ≤ 15 ∧ t.power.pacing ≤ s.power.pacing + 1 ∧
        s.power.pacing ≤ t.power.pacing + 1 ∧
        (s.profile.powerCap < w → ∀ q k, s.power.quads.find q = some k → (t.quad q).mhz = max (k.mhz - 25) 1250) ∧
        (w ≤ s.profile.powerCap → t.power.quads = s.power.quads) ∧ t = { s with power := t.power }) ∧
    (∀ source v, s.power.mode ≠ .unpowered → sensorExists s.fuses.grade source = true → s.running = true →
      (tempReach 3 source ≤ v → ∃ t : State, exec (.temperatureLevelChange source v) s = .next t ∧ t.power.mode = .failed) ∧
      (v < tempReach 3 source → ∃ t : State, exec (.temperatureLevelChange source v) s = .next t ∧
        t.power.temps.find source = some v ∧ t.power.level = nextLevel (s.power.temps.put source v) s.power.level))

/-- QUIET, DORMANT and NAP (R441, R444, R445). An idle module enters QUIET with every tile napping; an idle QUIET one with no context and no
session enters DORMANT with tile memory gone. A wake makes the module ACTIVE. A tile that naps loses its stationary block and marver
buffers and nothing else. -/
def Obligations.sleep_and_wake : Prop :=
  ∀ s : State,
    (s.power.mode = .active → 0 < s.profile.quietAfter → s.fw.offline = false → s.idleNow = true →
      ∃ t : State, exec .quietEntry s = .next t ∧ t.power.mode = .quiet ∧
        (∀ n k, s.tiles.find n = some k → t.tiles.find n = some { k with power := .nap, waking := false, loaded := [], marver := [] }) ∧
        t = { s with power := t.power, tiles := t.tiles }) ∧
    (s.power.mode = .quiet → s.power.waking = false → 0 < s.profile.dormantAfter → s.idleNow = true → s.ctxs = [] → s.sessions = [] →
      ∃ t : State, exec .dormantEntry s = .next t ∧ t.power.mode = .dormant ∧
        (∀ a, readByte t.mem a = if a < 0x80000000 then 0 else readByte s.mem a) ∧
        t = { s with power := t.power, tiles := t.tiles, mem := t.mem }) ∧
    (s.power.mode = .quiet → s.power.waking = true → s.power.thermalDue = [] → (s.link 2).localPool = [] → (s.link 3).localPool = [] →
      ∃ u : State, exec .wakeComplete s = .next u.makeStarts.settle ∧ u.power.mode = .active ∧ u.power.waking = false ∧
        u = { s with power := u.power, links := u.links })

/-! ## Contexts (R273 to R294, R331 to R336) -/

/-- CONTEXT_CREATE in service mode (R273, R274, R331): with its settings in range, grants free, a place and the HBM, the context enters
CREATING with the next incarnation, the settings given or defaulted, and no key, window, program or sample; its HBM is taken and no
other context changes. CONTEXT_CREATE_COMPLETE (R273): when every member has placed its presence the context is ACTIVE and the creation
answered OK; when one refuses, the context is FREE again and the creation answered with the refusal. A creation whose HBM could not be had even by reclaiming is answered
BUSY, and no context enters CREATING. -/
def Obligations.contexts_are_created : Prop :=
  (∀ (s : State) (c : Cmd) (n : Nat) (ss : Session) (p : CreateParams) (g base : Nat), Takes (specOf opContextCreate) c n ss s →
    s.transport = false → p.pageStore.isSome = true → createInRange p = true → s.grantTaken (p.variantGrant.getD (0, 0)) = false →
    s.slotTaken (p.slotGrant.getD []) = false → s.createCount c.ctx < 0xFFFF → s.placeGroup p = .inr (g, base) →
    (settingsOf s.profile p g []).hbmPages ≤ s.hbmFree →
    ∃ (u : State) (x : Ctx), exec (.contextCreate c p) s = .next u.settle ∧ u.ctx c.ctx = some x ∧ x.st = .creating ∧ x.home = true ∧
      x.incarnation = s.flash.bootCount % 65536 * 65536 + (s.createCount c.ctx + 1) % 65536 ∧
      x.settings = settingsOf s.profile p g [] ∧ x.tileBase = base ∧ x.keys = [] ∧ x.windows = [] ∧ x.programs = [] ∧ x.queue = [] ∧
      x.createTicket = some (ticketOf c opContextCreate n ss.serial) ∧ (∀ k, p.seed = some k → x.seed = k) ∧
      u.createCount c.ctx = s.createCount c.ctx + 1 ∧ u.hbmFree = s.hbmFree - (settingsOf s.profile p g []).hbmPages ∧
      ∀ k, k ≠ c.ctx → u.ctx k = s.ctx k) ∧
  (∀ (s : State) (n : Nat) (x : Ctx) (t : Ticket), s.ctx n = some x → x.st = .creating → x.home = true → s.ctxWaits n = false → x.createTicket = some t →
    (exec (.contextCreateComplete n none) s =
      .next ((s.setCtx n { x with st := .active, createTicket := none }).answerWith t stOk (s.createParams x))) ∧
    ∀ status, ∃ u : State, exec (.contextCreateComplete n (some status)) s = .next (u.answer t status).settle ∧ u.ctxState n = .free ∧
      u.hbmFree = s.hbmFree + x.settings.hbmPages ∧ ∀ k, k ≠ n → u.ctx k = s.ctx k) ∧
  (∀ (s : State) (c : Cmd) (n : Nat) (ss : Session) (p : CreateParams) (g base : Nat), Takes (specOf opContextCreate) c n ss s →
    s.transport = false → p.pageStore.isSome = true → createInRange p = true → s.grantTaken (p.variantGrant.getD (0, 0)) = false →
    s.slotTaken (p.slotGrant.getD []) = false → s.createCount c.ctx < 0xFFFF → s.placeGroup p = .inr (g, base) →
    s.hbmFree + s.comingFree + s.reclaimable < (settingsOf s.profile p g []).hbmPages →
    exec (.contextCreate c p) s =
      .next ((s.awaiting c opContextCreate n).answer (ticketOf c opContextCreate n ss.serial) stBusy).settle)

/-- CONTEXT_SUSPEND and CONTEXT_RESUME (R291). A suspend makes the context SUSPENDED, tells every member, and waits for each of them;
once no unit of it runs here and every other member has reported, or is gone, its suspends are answered. One that is SUSPENDED
is answered at once. A SUSPENDED one that resumes is ACTIVE, its halts ended. Alone, a change of state changes only that context; the
contexts that become ready change no state, setting or running unit, and memory only where a tile changes its context.
CONTEXT_SHARES (R276, R336): shares in range are set, what is left out is unchanged, and nothing else of any context
changes; a share out of range is answered NOT_PERMITTED and changes nothing. -/
def Obligations.contexts_pause_and_take_shares : Prop :=
  (∀ (s : State) (c : Cmd) (n : Nat) (ss : Session) (x : Ctx), s.ctx c.ctx = some x →
    (Takes (specOf opContextSuspend) c n ss s →
      (x.st ≠ .suspended → exec (.contextSuspend c) s =
        .next (((s.awaiting c opContextSuspend n).setCtx c.ctx { x with
          suspendTickets := x.suspendTickets ++ [ticketOf c opContextSuspend n ss.serial],
          awaitQuiet := s.otherMembers }).enterState c.ctx .suspended).settle) ∧
      (x.st = .suspended → exec (.contextSuspend c) s =
        .next ((s.awaiting c opContextSuspend n).answer (ticketOf c opContextSuspend n ss.serial) stOk))) ∧
    (Takes (specOf opContextResume) c n ss s →
      (x.st = .suspended → exec (.contextResume c) s =
        .next ((((s.awaiting c opContextResume n).setCtx c.ctx { x with halted := [] }).enterState c.ctx .active).answer
          (ticketOf c opContextResume n ss.serial) stOk).settle) ∧
      (x.st ≠ .suspended → exec (.contextResume c) s =
        .next ((s.awaiting c opContextResume n).answer (ticketOf c opContextResume n ss.serial) stOk))) ∧
    (∀ st, s.onRing = false → s.enterState c.ctx st = s.setCtx c.ctx { x with st := st }) ∧
    (s.ctxs.wf → x.home = true → x.running = none → x.suspendTickets ≠ [] →
      (∀ k y, k ≠ c.ctx → s.ctx k = some y → y.suspendTickets = [] ∧ y.awaitQuiet = []) →
      (x.awaitQuiet.all s.vacantPos = true → s.reportQuiet =
        (s.setCtx c.ctx { x with suspendTickets := [], awaitQuiet := [] }).answerAll x.suspendTickets stOk) ∧
      (x.awaitQuiet.all s.vacantPos = false → s.reportQuiet = s)) ∧
    (s.noteReady.out = s.out ∧
      (∀ a, (∀ n ∈ s.tiles.keys, a < tileAddr n (tileBytes - s.stashArea n) ∨
        tileAddr n (tileBytes - s.stashArea n) + s.stashArea n ≤ a) → readByte s.noteReady.mem a = readByte s.mem a) ∧
      ∀ k, (s.noteReady.ctx k).map (fun y => (y.st, y.settings, y.running)) = (s.ctx k).map (fun y => (y.st, y.settings, y.running)))) ∧
  (∀ (s : State) (c : Cmd) (n : Nat) (ss : Session) (x : Ctx) (w : Option Nat) (caps : Option Caps) (rw : Option Nat),
    Takes (specOf opContextShares) c n ss s → Clear s ss → s.ctx c.ctx = some x →
    (given w (weightOk 65535) = true → given caps capsOk = true → given rw (weightOk 255) = true →
      ∃ t : State, exec (.contextShares c w caps rw) s = .next t ∧ SendsOnly (s.replyTo c opContextShares stOk []) s t ∧
        t.ctx c.ctx = some { x with settings := { x.settings with
          weight := w.getD x.settings.weight, caps := caps.getD x.settings.caps, ringWeight := rw.getD x.settings.ringWeight } } ∧
        (∀ k, k ≠ c.ctx → t.ctx k = s.ctx k) ∧ t = { s with out := t.out, sessions := t.sessions, ctxs := t.ctxs }) ∧
    (∀ v, w = some v → (v = 0 ∨ 65535 < v) →
      ∃ t : State, exec (.contextShares c w caps rw) s = .next t ∧ SendsOnly (s.replyTo c opContextShares stNotPermitted []) s t ∧
        t = { s with out := t.out, sessions := t.sessions }))

/-- CONTEXT_RESET and CONTEXT_DESTROY (R292, R293, R294) begin to end the context's work: its state is RESETTING or DESTROYING, and a
destroy erases its salt; every member hears of it. A CONTEXT_RESET of a context already RESETTING joins the reset. -/
def Obligations.reset_and_destroy_begin : Prop :=
  ∀ (s : State) (c : Cmd) (n : Nat) (ss : Session) (x : Ctx), s.ctx c.ctx = some x →
    (Takes (specOf opContextReset) c n ss s → x.st ≠ .resetting → s.createCount c.ctx < 0xFFFF →
      exec (.contextReset c) s =
        .next ((((((s.awaiting c opContextReset n).setCtx c.ctx
          { x with resetTickets := [ticketOf c opContextReset n ss.serial] }).enterState c.ctx .resetting).dropForming c.ctx).endSuspends
            c.ctx).endCtxWork c.ctx).settle) ∧
    (Takes (specOf opContextReset) c n ss s → x.st = .resetting →
      exec (.contextReset c) s = .next ((s.awaiting c opContextReset n).setCtx c.ctx
        { x with resetTickets := x.resetTickets ++ [ticketOf c opContextReset n ss.serial] })) ∧
    (Takes (specOf opContextDestroy) c n ss s → x.resetTickets = [] →
      exec (.contextDestroy c) s =
        .next ((((((s.awaiting c opContextDestroy n).setCtx c.ctx
          { x with salt := none, destroyTickets := [ticketOf c opContextDestroy n ss.serial],
                   resetTickets := [] }).enterState c.ctx .destroying).dropForming c.ctx).endSuspends c.ctx).endCtxWork c.ctx).settle) ∧
    (∀ st, s.onRing = false → s.enterState c.ctx st = s.setCtx c.ctx { x with st := st }) ∧
    ∀ y, (s.dropForming c.ctx).ctx c.ctx = some y → y.openParison = none ∧ y.closed = []

/-- RESET_COMPLETE (R274, R292): once no work of a RESETTING context is left it is ACTIVE under the next incarnation, with its settings,
UID, tile_base and keys kept, and no variant, sample, window, program or halt of its earlier life; other contexts keep their state.
DESTROY_COMPLETE (R294): once no work of a DESTROYING context is left its number is FREE, its variants and tenant sessions are gone, and
every destroy that waits is answered. -/
def Obligations.resets_and_destroys_complete : Prop :=
  (∀ (s : State) (n : Nat) (x : Ctx), s.ctx n = some x → x.st = .resetting → x.home = true → s.workLeft n = false →
    ∃ (u : State) (y : Ctx), exec (.resetComplete n) s = .next u.settle ∧ u.ctx n = some y ∧ y.st = .active ∧
      y.incarnation = s.flash.bootCount % 65536 * 65536 + (s.createCount n + 1) % 65536 ∧ y.settings = x.settings ∧ y.uid = x.uid ∧
      y.keys = x.keys ∧ y.tileBase = x.tileBase ∧ y.queue = [] ∧ y.windows = [] ∧ y.programs = [] ∧ y.halted = [] ∧ y.running = none ∧
      (∀ v w, u.var v = some w → w.ctx ≠ n) ∧ u.createCount n = s.createCount n + 1) ∧
  (∀ (s : State) (n : Nat) (x : Ctx), s.ctx n = some x → x.st = .destroying → x.home = true → s.workLeft n = false → s.sessionsOf n = [] →
    ∃ u : State, exec (.destroyComplete n) s = .next ((u.answerAll x.destroyTickets stOk).settle.resetIfDue) ∧ u.ctxState n = .free ∧
      (∀ v w, u.var v = some w → w.ctx ≠ n))

/-- TRANSPORT_UNIT_STOP (R48, R283): a program's unit whose context is RESETTING or DESTROYING is stopped; the queues of its tiles are
empty, no tile is held for it, and its program has ended. -/
def Obligations.transport_unit_stops : Prop :=
  ∀ (s : State) (n : Nat) (x : Ctx) (tiles : List Nat), s.ctx n = some x → x.running = some ⟨.program, tiles⟩ →
    (x.st = .resetting ∨ x.st = .destroying) →
    ∃ u : State, exec (.transportUnitStop n) s = .next u.settle ∧ (∃ y, u.ctx n = some y ∧ y.running = none ∧ y.prog = none ∧ y.st = x.st) ∧
      ∀ t ∈ tiles, (u.tile t).queue = [] ∧ (u.tile t).held = none ∧ (u.tile t).loaded = []

/-! ## Variants (R175 to R199, R337 to R343, R348 to R350) -/

/-- VARIANT_CREATE (R178 to R180, R184, R337): with a base model, what it asks allowed and the HBM there, the FREE entry becomes
RESIDENT, homed here, at step 0 and generation 0, dirty, with the default settings, the tensors of R178 with both slots alike, no pin
and no extra expert attached; its HBM is taken, no other variant changes, and before the reply only the other holders are told of it.
VARIANT_IMPORT (R199, R339) opens the stream that reads the
image, and nothing is placed before it has been read. -/
def Obligations.variants_are_created_and_imported : Prop :=
  ∀ (s : State) (c : Cmd) (n : Nat) (ss : Session) (b : BaseShape), Clear s ss → s.granted c.ctx c.variant = true →
    s.base.shape = some b → s.var c.variant = none →
    (∀ p : VariantParams, Takes (specOf opVariantCreate) c n ss s → (p.adapters ≠ [] ∨ p.experts ≠ []) → createOk b p = true →
      s.ownersOk (s.ownersOf p.owners) = true →
      Config.variantHbm ((List.range b.layers).flatMap (layerTensors b p)) ≤ s.hbmFree →
      ∃ (u : State) (v : Var) (r : List (Nat × Bytes)), exec (.variantCreate c p) s = .next u.settle ∧ u.var c.variant = some v ∧
        v.st = .resident ∧ v.home = true ∧ v.ctx = c.ctx ∧ v.owners = s.ownersOf p.owners ∧ v.stepCounter = 0 ∧ v.generation = 0 ∧
        v.dirty = true ∧ v.pins = 0 ∧ v.settings = RuleSet.default ∧ v.log = [] ∧
        v.tensors.map (fun t => t.info) = (List.range b.layers).flatMap (layerTensors b p) ∧
        (∀ t ∈ v.tensors, t.slot0 = t.slot1 ∧ t.staged = none ∧
          (t.info.kind = 1 ∨ t.info.kind = 4 → t.committed.master = List.replicate (t.info.rows * t.info.cols) 0#32)) ∧
        (∀ e ∈ v.extras, e.slot = none) ∧ (∀ k, k ≠ c.variant → u.var k = s.var k) ∧
        SendsLast (s.replyTo c opVariantCreate stOk r) s u ∧
        (∀ k, k ≠ cF8Saturations → u.counters.find k = s.counters.find k) ∧
        u = { s with out := u.out, sessions := u.sessions, counters := u.counters, vars := u.vars, freeCount := s.freeCount + 1,
                     links := u.links, ring := { s.ring with e2eTx := u.ring.e2eTx },
                     hbmFree := s.hbmFree - Config.variantHbm ((List.range b.layers).flatMap (layerTensors b p)) }) ∧
    (∀ (image : Region) (owners : Option (List Nat)), Takes (specOf opVariantImport) c n ss s → image.aligned = false →
      exec (.variantImport c image owners) s =
        .next ((s.awaiting c opVariantImport n).answer (ticketOf c opVariantImport n ss.serial) stNotPermitted)) ∧
    (∀ (image : Region) (owners : Option (List Nat)), Takes (specOf opVariantImport) c n ss s → image.aligned = true →
      s.ownersOk (s.ownersOf owners) = true →
      ∃ (u : State) (x : Strm), exec (.variantImport c image owners) s = .next u.settle ∧ u.strm s.nextId = some x ∧
        x.use = .importing (ticketOf c opVariantImport n ss.serial) c.variant (s.ownersOf owners) ∧ x.ctx = c.ctx ∧ x.kind = 6 ∧
        x.region = some image ∧ x.issued = 0 ∧ u.vars = s.vars ∧ u.out = s.out ∧
        u = { s with sessions := (s.awaiting c opVariantImport n).sessions, streams := u.streams, nextId := s.nextId + 1 })

/-- VARIANT_DESTROY, EVICT and EVICT with FORCE (R182, R189, R190, R338, R341). Of a variant without a pin: a destroy leaves no entry and
gives its HBM back; an EVICT of one that is not dirty leaves it ABSENT, its HBM back, tells its other holders, and is answered OK. Of one with pins: it is
EVICTING and the command waits. FORCE is for operators. -/
def Obligations.variants_leave : Prop :=
  ∀ (s : State) (c : Cmd) (n : Nat) (ss : Session) (v : Var), Clear s ss → s.granted c.ctx c.variant = true →
    s.var c.variant = some v → v.st = .resident → v.forDestroy = false → v.restore = none → v.evictTickets = [] →
    (∀ p ∈ s.evals, p.2.variant ≠ c.variant ∨ p.2.every = 0) →
    (Takes (specOf opVariantDestroy) c n ss s →
      (v.pins = 0 → ∃ u : State, exec (.variantDestroy c) s = .next u.settle ∧ u.varState c.variant = .free ∧
        u.hbmFree = s.hbmFree + v.hbmPages ∧ (∀ k, k ≠ c.variant → u.var k = s.var k)) ∧
      (0 < v.pins → ∃ (u : State) (w : Var), exec (.variantDestroy c) s = .next u.settle ∧ u.var c.variant = some w ∧
        w = { v with st := .evicting, forDestroy := true,
                     destroyTickets := v.destroyTickets ++ [ticketOf c opVariantDestroy n ss.serial] } ∧
        u = { s with sessions := (s.awaiting c opVariantDestroy n).sessions, vars := u.vars })) ∧
    (∀ forced : Bool, Takes (specOf opEvict) c n ss s → (forced = true → ss.role = .operator) →
      let i : Instr := if forced then .evictForce c else .evict c
      exec i s = .next ((s.awaiting c opEvict n).evict (ticketOf c opEvict n ss.serial) forced).settle ∧
      (forced = false → v.pins = 0 → v.dirty = false → v.pendingPins = 0 →
        ∃ u : State, exec (.evict c) s = .next u.settle ∧ u.varState c.variant = .absent ∧ u.hbmFree = s.hbmFree + v.hbmPages ∧
          (∀ k, k ≠ c.variant → u.var k = s.var k) ∧ SendsLast (s.replyTo c opEvict stOk []) s u ∧
          u = { s with out := u.out, sessions := u.sessions, vars := u.vars, hbmFree := u.hbmFree, links := u.links,
                       ring := { s.ring with e2eTx := u.ring.e2eTx } }) ∧
      (forced = false → 0 < v.pins →
        ∃ u : State, exec (.evict c) s = .next u.settle ∧
          u.var c.variant = some { v with st := .evicting, evictTickets := [ticketOf c opEvict n ss.serial] } ∧
          u = { s with sessions := (s.awaiting c opEvict n).sessions, vars := u.vars })) ∧
    (Takes (specOf opEvict) c n ss s → ss.role ≠ .operator →
      ∃ u : State, exec (.evictForce c) s = .next u ∧ SendsOnly (s.replyTo c opEvict stNotPermitted []) s u ∧
        u = { s with out := u.out, sessions := u.sessions })

/-- EXPERT_ATTACH and EXPERT_DETACH (R194 to R196, R342, R343). A slot of the grant on an occupied position, free, is given to the extra
expert, whose working copy is derived into both slots from the masters at the variant's commit boundary; on this member's position the expert table gains its entry. A slot that is
attached, or not yet released, is SLOT_BUSY. A detached slot is the grant's again once no use accepted before holds a pin. -/
def Obligations.extra_experts_come_and_go : Prop :=
  ∀ (s : State) (c : Cmd) (n : Nat) (ss : Session) (v : Var) (x : Ctx) (extraNo slot : Nat) (e : Extra), Clear s ss →
    s.ctx c.ctx = some x → v.extras.find? (fun e => decide (e.decl.extraNo = extraNo)) = some e →
    (Uses opExpertAttach c n ss v s → x.settings.slotGrant.contains slot = true → s.vacantPos (slot / 64) = false →
      (s.slotAttached slot = true ∨ e.slot.isSome = true →
        ∃ u : State, exec (.expertAttach c extraNo slot) s = .next u.settle ∧ SendsOnly (s.replyTo c opExpertAttach stSlotBusy []) s u ∧
          u = { s.using c opExpertAttach n with out := u.out, sessions := u.sessions }) ∧
      (s.slotAttached slot = false → e.slot = none →
        ∃ (u : State) (w : Var), exec (.expertAttach c extraNo slot) s = .next u.settle ∧ u.var c.variant = some w ∧
          w.extras = v.extras.map (fun e => if e.decl.extraNo = extraNo then { e with slot := some slot } else e) ∧
          w.tensors = (s.deriveExtra (s.atBoundary c.variant v) v extraNo).tensors ∧ w.pins = v.pins ∧ w.releasing = v.releasing ∧
          (slot / 64 = s.pos → ∃ y, u.ring.experts.find (512 + slot % 64) = some y ∧ y.kind = 3 ∧ y.home = s.pos ∧ y.ctx = c.ctx ∧
            y.variant = c.variant ∧ y.extraNo = extraNo) ∧
          (slot / 64 ≠ s.pos → u.ring.experts = s.ring.experts) ∧ (∀ k, k ≠ c.variant → u.var k = s.var k) ∧
          SendsLast (s.replyTo c opExpertAttach stOk []) s u ∧ (∀ k, k ≠ cF8Saturations → u.counters.find k = s.counters.find k) ∧
          u = { s with out := u.out, sessions := u.sessions, counters := u.counters, vars := u.vars, links := u.links,
                       ring := { s.ring with experts := u.ring.experts, e2eTx := u.ring.e2eTx }, freeCount := u.freeCount })) ∧
    (Uses opExpertDetach c n ss v s → ∀ m, e.slot = some m →
      ∃ (u : State) (w : Var), exec (.expertDetach c extraNo) s = .next u.settle ∧ u.var c.variant = some w ∧
        w.extras = v.extras.map (fun e => if e.decl.extraNo = extraNo then { e with slot := none } else e) ∧
        w.releasing = (v.releasing ++ [(m, extraNo, s.holders c.variant)]).filter (fun r => decide (r.2.2 ≠ [])) ∧
        w.tensors = v.tensors ∧ (∀ k, k ≠ c.variant → u.var k = s.var k) ∧ SendsLast (s.replyTo c opExpertDetach stOk []) s u ∧
        u = { s with out := u.out, sessions := u.sessions, vars := u.vars, links := u.links,
                     ring := { s.ring with experts := u.ring.experts, e2eTx := u.ring.e2eTx } })

/-- VARIANT_EXPORT and CHECKPOINT (R197, R340, R348): a region too small is answered NOT_PERMITTED with the pages needed; else a pin is
taken and the stream of the pages opens. RESTORE (R349) of an ABSENT variant loads from the image, of a variant with a RESTORE under way
is BUSY. REPLAY (R350) from the log kept begins with its records. A region that does not begin at a multiple of 65,536 is NOT_PERMITTED
(R323, R324). -/
def Obligations.images_leave_and_come_back : Prop :=
  ∀ (s : State) (c : Cmd) (n : Nat) (ss : Session) (v : Var) (x : Ctx), Clear s ss → s.ctx c.ctx = some x →
    (∀ (dest : Region) (withLog : Option Bool),
      let i : Instr := match withLog with | none => .variantExport c dest | some w => .checkpoint c dest w
      let op := if withLog.isSome then opCheckpoint else opVariantExport
      let pages := (exportBodies (s.atBoundary c.variant v) x.seed (withLog.getD false)).length + 1
      Uses op c n ss v s →
      (dest.aligned = false → exec i s = .next ((s.awaiting c op n).answer (ticketOf c op n ss.serial) stNotPermitted)) ∧
      (dest.aligned = true → dest.pages < pages → ∃ u : State, exec i s = .next u.settle ∧ SendsOnly (s.replyTo c op stNotPermitted [p32 0x82 pages]) s u ∧
        u = { s.using c op n with out := u.out, sessions := u.sessions }) ∧
      (dest.aligned = true → pages ≤ dest.pages → v.pins < 65535 → ∃ (u : State) (y : Strm) (w : Var), exec i s = .next u.settle ∧
        u.strm s.nextId = some y ∧ y.kind = 5 ∧ y.ctx = c.ctx ∧ y.total = pages ∧ y.region = some dest ∧ y.issued = 0 ∧
        u.var c.variant = some w ∧ w = { v with pins := v.pins + 1, lastUse := s.intakeRounds } ∧
        u.ctx c.ctx = some { x with pageSeq := x.pageSeq + pages } ∧ u.out = s.out ∧
        u = { s with sessions := (s.awaiting c op n).sessions, vars := u.vars, ctxs := u.ctxs, streams := u.streams,
                     nextId := s.nextId + 1 })) ∧
    (∀ image : Region, Takes (specOf opRestore) c n ss s → s.granted c.ctx c.variant = true → image.aligned = false →
      exec (.restore c image) s = .next ((s.awaiting c opRestore n).answer (ticketOf c opRestore n ss.serial) stNotPermitted)) ∧
    (∀ image : Region, Takes (specOf opRestore) c n ss s → s.granted c.ctx c.variant = true → image.aligned = true →
      s.var c.variant = some v →
      (v.restore.isSome = true → ∃ u : State, exec (.restore c image) s = .next u.settle ∧
        SendsOnly (s.replyTo c opRestore stBusy []) s u ∧ u = { s with out := u.out, sessions := u.sessions }) ∧
      (v.restore = none → v.st = .absent → ∃ (u : State) (w : Var), exec (.restore c image) s = .next u.settle ∧
        u.var c.variant = some w ∧ w.st = .loading ∧ w.waitSpace = true ∧
        w.restore = some ⟨ticketOf c opRestore n ss.serial, image, true, true, false⟩ ∧ w.pins = v.pins + v.pendingPins ∧
        w.pendingPins = 0 ∧ (∀ k, k ≠ c.variant → u.var k = s.var k) ∧
        u = { s with sessions := (s.awaiting c opRestore n).sessions, vars := u.vars, park := u.park })) ∧
    (∀ first last, Uses opReplay c n ss v s → exec (.replay c first last none) s =
      .next ((s.using c opReplay n).startReplay (ticketOf c opReplay n ss.serial) first last v.log).settle) ∧
    (∀ first last (r : Region), Uses opReplay c n ss v s → exec (.replay c first last (some r)) s =
      if r.aligned = false then .next ((s.awaiting c opReplay n).answer (ticketOf c opReplay n ss.serial) stNotPermitted)
      else .next ((s.using c opReplay n).openService c.ctx (.replayLog (ticketOf c opReplay n ss.serial) c.variant first last) 6 1 (some r)
        [] 0).settle)

/-- LOAD_PART_PLACED (R183): the last part makes the variant RESIDENT; one before it only counts. WRITE_OUT_COMPLETE (R182): once its
pages are written a variant is ABSENT and not dirty, its HBM is free, and its other holders are told. -/
def Obligations.loads_and_write_outs_complete : Prop :=
  ∀ (s : State) (id : Nat) (v : Var), s.var id = some v → v.restore = none → v.evictTickets = [] →
    (∀ p, v.st = .loading → p ∈ v.partsWaiting →
      ((∃ q ∈ v.partsWaiting, q ≠ p) → ∃ u : State, exec (.loadPartPlaced id p) s = .next u.settle ∧
        u = s.setVar id { v with partsWaiting := v.partsWaiting.filter (fun q => decide (q ≠ p)) }) ∧
      ((∀ q ∈ v.partsWaiting, q = p) → (∀ k ∈ s.park, k.variant ≠ id) →
        ∃ u : State, exec (.loadPartPlaced id p) s = .next u.settle ∧ u = s.setVar id { v with partsWaiting := [], st := .resident })) ∧
    (v.st = .writing → v.pendingPins = 0 →
      (∃ k x, s.streams.find k = some x ∧ x.use = .writeOut id ∧ x.discard = false ∧ x.landed.length = x.total ∧ x.outstanding = []) →
      ∃ (u : State) (w : Var), exec (.writeOutComplete id) s = .next u.settle ∧ u.var id = some w ∧ w.st = .absent ∧ w.dirty = false ∧
        w.tensors = [] ∧ w.storePage = v.storePage ∧ w.stepCounter = v.stepCounter ∧ u.hbmFree = s.hbmFree + v.hbmPages ∧
        (∀ k, k ≠ id → u.var k = s.var k) ∧ FramesOnly s u ∧
        u = { s with vars := u.vars, streams := u.streams, hbmFree := u.hbmFree, out := u.out, links := u.links,
                     ring := { s.ring with e2eTx := u.ring.e2eTx } })

/-! ## Training (R112 to R142, R200 to R206, R344 to R347, R389 to R403) -/

/-- SET_RULE, FREEZE and FREEZE with THAW (R118, R119, R135, R346, R347). What a SET_RULE leaves out is unchanged, and neither committed
state nor a working copy changes. FREEZE marks the tensors named and no other; THAW unmarks them, and a base tensor is FROZEN. A value
of SET_RULE outside its range stops the model by name: the spec calls it undefined behaviour (R118). -/
def Obligations.settings_of_a_variant : Prop :=
  (∀ (s : State) (c : Cmd) (n : Nat) (ss : Session) (v : Var) (x : Ctx), Clear s ss → s.ctx c.ctx = some x →
    (∀ p : RuleParams, Uses opSetRule c n ss v s → RuleInRange p = true →
      ∃ (u : State) (w : Var), exec (.setRule c p) s = .next u.settle ∧ u.var c.variant = some w ∧
        w.settings.rule = p.rule.getD v.settings.rule ∧ w.settings.lr = p.lr.getD v.settings.lr ∧
        w.settings.k = p.k.getD v.settings.k ∧ w.settings.copyMode = p.copyMode.getD v.settings.copyMode ∧
        w.settings.learn = p.learn.getD v.settings.learn ∧ 
        w.sStartPending = (match p.sStart with | some k => some (s.nextId + 1, k) | none => v.sStartPending) ∧
        w = { v with settings := w.settings, sStartPending := w.sStartPending, lastUse := s.intakeRounds } ∧
        u.ctx c.ctx = some { x with schedule := p.stepSchedule.getD x.schedule } ∧ (∀ k, k ≠ c.variant → u.var k = s.var k) ∧
        (∀ k, k ≠ c.ctx → u.ctx k = s.ctx k) ∧ SendsOnly (s.replyTo c opSetRule stOk []) s u ∧
        u = { s with out := u.out, sessions := u.sessions, vars := u.vars, ctxs := u.ctxs, nextId := s.nextId + 1 }) ∧
    (∀ (l : List TensorRef) (thaw : Bool), Uses opFreeze c n ss v s →
      let i : Instr := if thaw then .thaw c l else .freeze c l
      (thaw = true → (∃ a m, .base a m ∈ l ∧ s.inLayerMap a m = true) → ∃ u : State, exec i s = .next u.settle ∧
        SendsOnly (s.replyTo c opFreeze stFrozen []) s u ∧ u = { s.using c opFreeze n with out := u.out, sessions := u.sessions }) ∧
      (s.refsExist v l = true → (thaw = true → ∀ a m, .base a m ∈ l → s.inLayerMap a m = false) →
        ∃ (u : State) (w : Var), exec i s = .next u.settle ∧ u.var c.variant = some w ∧ w.tensors.length = v.tensors.length ∧
          (∀ (k : Nat) (t : Tensor), v.tensors[k]? = some t → ∃ y : Tensor, w.tensors[k]? = some y ∧
            y.info = { t.info with frozen := if k ∈ namedSet l then !thaw else t.info.frozen } ∧
            y.committed = t.committed ∧ y.slot0 = t.slot0 ∧ y.slot1 = t.slot1 ∧ y.grads = t.grads) ∧
          w = { v with tensors := w.tensors, lastUse := s.intakeRounds } ∧ (∀ k, k ≠ c.variant → u.var k = s.var k) ∧
          SendsOnly (s.replyTo c opFreeze stOk []) s u ∧ u = { s with out := u.out, sessions := u.sessions, vars := u.vars }))) ∧
  (∀ (s : State) (c : Cmd) (n : Nat) (ss : Session) (p : RuleParams), Takes (specOf opSetRule) c n ss s →
    s.granted c.ctx c.variant = true →
    ((∃ r, p.rule = some r ∧ 3 < r) ∨ (∃ k, p.k = some k ∧ (k < 2 ∨ 64 < k)) ∨ (∃ m, p.copyMode = some m ∧ 1 < m) ∨
      (∃ w, p.lr = some w ∧ nonFinite w = true) ∨ (∃ w, p.beta1 = some w ∧ flt w 0x3F800000#32 = false) ∨
      (∃ b, p.learnBatch = some b ∧ b = 0)) →
    exec (.setRule c p) s = .fault .ruleRange)

/-- STEP with its own samples, EVAL and AUTOMATIC_STEP (R90, R119, R126, R136, R202, R204, R344, R345, R394, R399). An accepted STEP has the
next number, the settings of its acceptance, the tensors named or else every unfrozen one, its micro-batches and an open record, and
holds a pin; nothing is sent and no tensor changes; after a replay, the records above the step given last leave its log. One with a
micro-batch whose gradients exceed 2^27 elements is not taken. An accepted EVAL holds a pin and waits for its turn. AUTOMATIC_STEP, while
no packet waits, forms a round of every step that is due; nothing that is not due is taken. -/
def Obligations.steps_and_evaluations_are_accepted : Prop :=
  ∀ (s : State) (c : Cmd) (n : Nat) (ss : Session) (v : Var) (x : Ctx), s.TablesOk → s.ctx c.ctx = some x → v.pins < 65535 →
    (∀ p : StepParams, Uses opStep c n ss v s → p.samples ≠ [] → p.takeQueue = false → samplesOk p.samples = true →
      s.microRowsOk p.microRows = true → v.refuseTensors p.tensors = none →
      (batchesOf p.microRows p.samples).all (fun b => s.gradsFit (tokensOf b)) = true → v.largestGiven < 2 ^ 64 - 1 →
      let kept := if v.forked then v.log.filter (fun r => decide (r.step ≤ v.largestGiven)) else v.log
      let t := s.newStep v x c.variant c.ctx (some (ticketOf c opStep n ss.serial)) p p.samples s.nextId
      s.recordFits c.ctx { v with log := kept } (s.openRecord v x t false) = true →
      ∃ (u : State) (w : Var), exec (.step c p) s = .next u.settle ∧ u.steps = s.steps ++ [t] ∧ t.number = v.largestGiven + 1 ∧
        t.phase = .waiting ∧ t.settings = v.settings ∧ t.updateSet = (if p.tensors = [] then v.unfrozen else namedSet p.tensors) ∧
        t.batches = batchesOf p.microRows p.samples ∧ u.var c.variant = some w ∧
        w = { v with pins := v.pins + 1, lastUse := s.intakeRounds, largestGiven := v.largestGiven + 1,
                     log := kept ++ [s.openRecord v x t false], forked := false } ∧
        (∀ k, k ≠ c.variant → u.var k = s.var k) ∧ (∀ k, u.ctx k = s.ctx k) ∧
        u = { s with sessions := (s.awaiting c opStep n).sessions, vars := u.vars, ctxs := u.ctxs, steps := u.steps,
                     nextId := s.nextId + 1 }) ∧
    (∀ p : StepParams, Clear s ss → Uses opStep c n ss v s → p.samples ≠ [] → p.takeQueue = false → samplesOk p.samples = true →
      s.microRowsOk p.microRows = true → v.refuseTensors p.tensors = none →
      (batchesOf p.microRows p.samples).all (fun b => s.gradsFit (tokensOf b)) = false →
      ∃ u : State, exec (.step c p) s = .next u.settle ∧ SendsOnly (s.replyTo c opStep stNotPermitted []) s u ∧
        u = { s.using c opStep n with out := u.out, sessions := u.sessions }) ∧
    (∀ (samples : List Sample) (rows every : Nat), Uses opEval c n ss v s → tokensOf samples ≤ 65536 → samplesOk samples = true →
      s.microRowsOk rows = true → (every = 0 ∨ (s.evalsFor (fun e => decide (e.ctx = c.ctx) && decide (0 < e.every))).length < 4) →
      ∃ (u : State) (e : EvalRun), exec (.eval c samples rows every) s = .next u.settle ∧ u.evals.find s.nextId = some e ∧
        e.ticket = ticketOf c opEval n ss.serial ∧ e.variant = c.variant ∧ e.every = every ∧ e.active = true ∧ e.done = 0 ∧
        e.batches = batchesOf rows samples ∧
        u.var c.variant = some { v with pins := v.pins + 1, lastUse := s.intakeRounds } ∧
        (∀ k, k ≠ c.variant → u.var k = s.var k) ∧
        u = { s with sessions := (s.awaiting c opEval n).sessions, vars := u.vars, evals := u.evals, nextId := s.nextId + 1 }) ∧
    (∀ id, s.gafferUp = true → s.autoDue id = true → s.packetWaits = false →
      exec (.automaticStep id) s =
        .next (State.settle (State.goOffline (State.takeAutos { s with intakeRounds := s.intakeRounds + 1 }))).resetIfDue) ∧
    (∀ id w, s.autosDue = [id] → s.var id = some w → s.takeAutos = s.acceptStep none id w.ctx
      { samples := [], tensors := [], takeQueue := true, microRows := 1024 }) ∧
    (∀ id, s.autoDue id = false ∨ s.packetWaits = true → exec (.automaticStep id) s = .next s)

/-- CHECK (R76, R127, R128): when every micro-batch has drained, no lower step is left and, at the leader, every owner has reported, the set
of the step is read and cleared on every tile, and the leader tells every holder the outcome: a step whose gradients and statistics are
finite goes on to its update, highest layer first; any other ends SKIPPED with cause 1, its exponents lowered. An owner that does not lead
reports its own flags and statistics to the leader. A step that is not ready stays. -/
def Obligations.check_passes_or_skips : Prop :=
  ∀ (s : State) (id m : Nat) (t : TStep) (v : Var), s.findStep id m = some t → s.var id = some v → s.fw.offline = false →
    (s.checkReady t v = false → exec (.check id m) s = .next s) ∧
    (s.checkReady t v = true →
      let s1 := if t.phase = .waiting then s.openStep t v else s
      let stats := addStats t.allStats (s1.tileStats (m % 3))
      let bad := s.badGrads t v || anyNonfinite stats || t.checks.vals.any (fun r => r.1)
      (t.leader = true → ∃ u : State, u = (s1.clearSets (m % 3)).reduceAll v id (.checked m bad stats) ∧ u.mem = s.mem ∧
        (∀ k, (u.tile k).sets = ((s.tile k).sets.set (m % 3) [])) ∧
        (t.phase = .run → u.steps = s.steps ∧ u.vars = s.vars ∧ u.ctxs = s.ctxs) ∧
        (bad = true → exec (.check id m) s = .next (u.skipGradient t stats).settle) ∧
        (bad = false → ∃ (w : State) (y : TStep), exec (.check id m) s = .next w.settle ∧ w.findStep id m = some y ∧
          y = { t with phase := .updating, stats := stats, layersLeft := s.updateLayers v t.updateSet,
                       derives := derivesAt t.settings v.lastDerive t.number } ∧ w = { u with steps := w.steps })) ∧
      (t.leader = false → ∃ (u : State) (y : TStep), exec (.check id m) s = .next u ∧ u.findStep id m = some y ∧
        y = { t with phase := .checked } ∧
        u = State.ringSend { s with steps := u.steps, tiles := (s.clearSets (m % 3)).tiles } t.leaderAt 3 t.ctx (msgLength 3)
          (.reduce id (.check m (s.badGrads t v) stats))))

/-- UPDATE_LAYER and VOTE (R117, R127, R132, R134, R135, R138). A layer's update stages new state and fills the slot that is not current;
committed state and the current working copies of every tensor stay, and no tensor of another layer changes; one of the layer that the
step does not update takes its current copy into both slots. What leaves are frames with the new copies only. A vote, once the update's
unit is over and the copies of every other owner are here and may be written, writes these, and is finite when no update was not; an
owner that does not lead reports it. -/
def Obligations.updates_stage_and_vote : Prop :=
  ∀ (s : State) (id m : Nat) (t : TStep) (v : Var), s.findStep id m = some t → s.var id = some v → s.fw.offline = false →
    t.phase = .updating → t.variant = id → t.number = m →
    (∀ l rest, t.layersLeft = l :: rest → s.updateRuns t = true → s.layerHeld id v l = false →
      ∃ (u : State) (w : Var) (y : TStep), exec (.updateLayer id m) s = .next u.settle ∧ u.var id = some w ∧ u.findStep id m = some y ∧
        y.layersLeft = rest ∧ y.layersDone = l :: t.layersDone ∧ y.phase = .updating ∧ w.tensors.length = v.tensors.length ∧
        (∀ (k : Nat) (a : Tensor), v.tensors[k]? = some a → ∃ b : Tensor, w.tensors[k]? = some b ∧ b.committed = a.committed ∧
          w.curCopy b = v.curCopy a ∧ (a.info.layer ≠ l → b = a) ∧
          (t.updateSet.contains k = false → a.info.layer = l → b = { a with slot0 := v.curCopy a, slot1 := v.curCopy a }) ∧
          (t.updateSet.contains k = true → s.ownsTensor v k = false → b = a) ∧
          (t.updateSet.contains k = true → s.ownsTensor v k = true → a.info.layer = l → b.staged.isSome = true)) ∧
        w = { v with tensors := w.tensors } ∧ (∀ k, k ≠ cF8Saturations → u.counters.find k = s.counters.find k) ∧
        (∀ k, u.tile k = { s.tile k with sets := (u.tile k).sets }) ∧ FramesOnly s u ∧
        u = { s with counters := u.counters, vars := u.vars, steps := u.steps, tiles := u.tiles, freeCount := s.freeCount + 1,
                     out := u.out, links := u.links, ring := { s.ring with e2eTx := u.ring.e2eTx } }) ∧
    (t.layersLeft = [] → s.updateRuns t = false →
      (s.replicasReady t v = false → exec (.vote id m) s = .next s) ∧
      (s.replicasReady t v = true → ∃ (u : State) (y : TStep), exec (.vote id m) s = .next u ∧ u.findStep id m = some y ∧
        y.phase = .voted ∧ y.votes = t.votes.put s.pos ⟨!t.badUpdate, t.drift, t.compared⟩ ∧
        u.var id = some (s.writeReplicas t v) ∧ (∀ k, k ≠ id → u.var k = s.var k) ∧ u.mem = s.mem ∧
        (t.leader = true → u = { s with vars := u.vars, steps := u.steps }) ∧
        (t.leader = false → u = State.ringSend { s with vars := u.vars, steps := u.steps } t.leaderAt 3 t.ctx (msgLength 3)
          (.reduce id (.vote m ⟨!t.badUpdate, t.drift, t.compared⟩ (s.ownStaged t v))))))

/-- FLIP (R129, R130, R132): with the vote of every holder in and finite, the slot that is not current becomes current and the variant is at
this step and generation, dirty, its tensors not yet changed; with one vote not finite the step ends SKIPPED with cause 2. A step
whose votes are not all in stays. HEADER_WRITE_COMPLETE (R27, R119, R135, R389, R390): what the step staged becomes committed, in the other
half, and nothing it did not stage changes, but that the state of a rule the step no longer has starts again from zero where the tensor is
not frozen; at the leader the step ends when every owner has written its header, and any other owner reports its own to the leader.
While an export reads, the header waits (R197). -/
def Obligations.flips_and_headers_commit : Prop :=
  (∀ (s : State) (id m : Nat) (t : TStep) (v : Var) (x : Ctx), s.findStep id m = some t → s.var id = some v → s.ctx t.ctx = some x →
    s.fw.offline = false → t.leader = true → t.phase = .voted → t.variant = id → t.number = m →
    ((∃ p ∈ s.otherHolders v, t.votes.find p = none) → exec (.flip id m) s = .next s) ∧
    ((∀ p ∈ s.otherHolders v, (t.votes.find p).isSome = true) →
      (t.votes.vals.all (fun y => y.finite) = true →
        ∃ (u : State) (w : Var) (y : TStep), exec (.flip id m) s = .next u.settle ∧ u.var id = some w ∧ u.findStep id m = some y ∧
          y.phase = .flipped ∧ w.curSlot = !v.curSlot ∧ w.generation = m ∧ w.stepCounter = m ∧ w.dirty = true ∧
          w.st = v.st ∧ w.log = v.log ∧ w.tensors = v.tensors ∧ u.mem = s.mem) ∧
      (t.votes.vals.all (fun y => y.finite) = false →
        exec (.flip id m) s =
          .next ((s.reduceAll v id (.abandon m stSkipped)).endRecorded t stSkipped 2 .skippedUpdate).settle))) ∧
  (∀ (s : State) (id m : Nat) (t : TStep) (v : Var), s.findStep id m = some t → s.var id = some v → t.variant = id → t.number = m →
    t.phase = .flipped → s.pos ∉ t.headers →
    (s.exportReads id = true → exec (.headerWriteComplete id m) s = .next s) ∧
    (s.exportReads id = false →
      ∃ (u : State) (w : Var), u.var id = some w ∧ w = { v with tensors := w.tensors } ∧ w.tensors.length = v.tensors.length ∧
        (∀ (k : Nat) (a : Tensor), v.tensors[k]? = some a → ∃ b : Tensor, w.tensors[k]? = some b ∧ b.slot0 = a.slot0 ∧ b.slot1 = a.slot1 ∧
          (∀ y, t.updateSet.contains k = true → a.staged = some y → b = { a with committed := y, staged := none, half := !a.half }) ∧
          (t.updateSet.contains k = false ∨ a.staged = none →
            (a.info.frozen = true ∨ a.committed.rule = t.settings.rule → b = a) ∧
            (a.info.frozen = false → a.committed.rule ≠ t.settings.rule → b = { a with
              committed := zeroState t.settings.rule a.info.rows a.info.cols a.committed.master }))) ∧
        (∀ k, k ≠ id → u.var k = s.var k) ∧
        u = { s with vars := u.vars, steps := s.steps.map (fun y =>
          if y.variant = id && y.number = m then { y with headers := y.headers ++ [s.pos] } else y) } ∧
        (t.leader = true → exec (.headerWriteComplete id m) s = .next (u.finishStep id m).settle) ∧
        (t.leader = false → exec (.headerWriteComplete id m) s = .next (State.settle
          ((u.ringSend t.leaderAt 3 t.ctx (msgLength 3) (.reduce id (.headerDone m))).leaveStep t)))))

/-! ## Serving, units and tiles (R102 to R107, R207 to R230, R280 to R283, R441, R447) -/

/-- SUBMIT and CANCEL (R225, R226, R228, R351, R352). An accepted SUBMIT reserves its key-value state and a pin, and nothing is returned
yet; without the HBM it is BUSY with a count of 0. CANCEL is answered OK; with no target nothing else changes, and a request that computes
is marked to end after its token. -/
def Obligations.requests_begin_and_are_cancelled : Prop :=
  ∀ (s : State) (c : Cmd) (n : Nat) (ss : Session),
    (∀ (v : Var) (b : BaseShape) (p : SubmitParams), Uses opSubmit c n ss v s → s.base.shape = some b → submitOk b p = true →
      exec (.submit c p) s = .next (State.acceptSubmit { s.using c opSubmit n with nextId := s.nextId + 1 }
        (ticketOf c opSubmit n ss.serial) p s.nextId).settle ∧
      (0 < p.maxTokens → kvPagesOf b p ≤ s.hbmFree → v.pins < 65535 →
        ∃ (u : State) (r : Request), exec (.submit c p) s = .next u.settle ∧ u.requests.find s.nextId = some r ∧
          r.variant = c.variant ∧ r.ctx = c.ctx ∧ r.p = p ∧ r.produced = [] ∧ r.kv = [] ∧ r.kvPages = kvPagesOf b p ∧ r.experts = v.slots ∧
          u.var c.variant = some { v with pins := v.pins + 1, lastUse := s.intakeRounds } ∧
          (∀ k, k ≠ c.variant → u.var k = s.var k) ∧
          u = { s with sessions := (s.awaiting c opSubmit n).sessions, vars := u.vars, requests := u.requests,
                       hbmFree := s.hbmFree - kvPagesOf b p, nextId := s.nextId + 1 }) ∧
      (Clear s ss → s.hbmFree < kvPagesOf b p →
        (∀ x, s.ctx c.ctx = some x → (x.counters.getD tRequestsEnded Counter.zero).value + 1 < 0xFFFFFFFFF000) →
        ∃ u : State, exec (.submit c p) s = .next u.settle ∧ SendsOnly (s.replyTo c opSubmit stBusy [p32 0x85 0]) s u)) ∧
    (∀ target, Takes (specOf opCancel) c n ss s → Clear s ss →
      ((∀ p ∈ s.requests, p.2.ticket.targetOf (ticketOf c opCancel n ss.serial) target = false) →
        (∀ p ∈ s.park, p.ticket.targetOf (ticketOf c opCancel n ss.serial) target = false) →
        (∀ p ∈ s.evals, p.2.ticket.targetOf (ticketOf c opCancel n ss.serial) target = false) →
        ∃ u : State, exec (.cancel c target) s = .next u.settle ∧ SendsOnly (s.replyTo c opCancel stOk []) s u ∧
          u = { s with out := u.out, sessions := u.sessions }) ∧
      (∀ id r, s.requests = [(id, r)] → r.ticket.targetOf (ticketOf c opCancel n ss.serial) target = true → s.computing r id = true →
        s.park = [] → s.evals = [] →
        ∃ u : State, exec (.cancel c target) s = .next u.settle ∧ SendsOnly (s.replyTo c opCancel stOk []) s u ∧
          u = { s with out := u.out, sessions := u.sessions, requests := [(id, { r with cancelled := true })] }))

/-- HOLD_LIMIT_EXPIRY and LAYER_CONTINUE (R209, R224, R227). An open parison closes behind those that wait. A row whose answers are all
there, no earlier position of its request behind it, enters the next layer, where its request keeps its key and value; one that has passed the
last layer is done, and the last row of its request yields a token. A row that may not go on stays. A micro-batch goes on to its next leg once every bundle it sent is
answered, and not before. -/
def Obligations.parisons_close_and_rows_go_on : Prop :=
  ∀ (s : State) (ctx : Nat) (c : Ctx), s.ctx ctx = some c →
    (c.st = .active ∨ c.st = .suspended →
      exec (.holdLimitExpiry ctx) s = .next (s.setCtx ctx c.closeParison).settle ∧ c.closeParison.openParison = none ∧
      c.closeParison.closed = c.closed ++ c.openParison.toList) ∧
    (∀ (b : BaseShape) (p : Parison) (tiles : List Nat) (row : Nat) (r : Row), s.base.shape = some b →
      c.running = some ⟨.parison p, tiles⟩ → p.rows[row]? = some r →
      (p.mayContinue b.layers r = false → exec (.layerContinue ctx row) s = .next s) ∧
      (p.mayContinue b.layers r = true → r.layer < b.layers →
        ∃ (u : State) (y : Row), exec (.layerContinue ctx row) s = .next (u.dispatchLayer ctx r.layer).settle ∧ y.layer = r.layer + 1 ∧
          y.request = r.request ∧ y.position = r.position ∧
          u.ctx ctx = some { c with running := some ⟨.parison { p with rows := p.rows.set row y }, tiles⟩ } ∧
          (∀ k, k ≠ r.request → u.requests.find k = s.requests.find k) ∧
          (∀ k, k ≠ cF8Saturations → u.counters.find k = s.counters.find k) ∧
          u = { s with counters := u.counters, ctxs := u.ctxs, requests := u.requests }) ∧
      (p.mayContinue b.layers r = true → r.layer = b.layers → 0 < b.layers → r.last = true →
        ∃ (u : State) (y : Row), exec (.layerContinue ctx row) s = .next (u.yieldToken b y).settle ∧
          y = (finishLayer (s.rowModel b p r) r (b.layers - 1)).1 ∧
          u.ctx ctx = some { c with running := some ⟨.parison { p with rows := p.rows.set row { y with layer := b.layers + 1 } }, tiles⟩ } ∧
          (∀ k, k ≠ cF8Saturations → u.counters.find k = s.counters.find k) ∧ u = { s with counters := u.counters, ctxs := u.ctxs })) ∧
    (∀ (p : MicroPass) (row : Nat), s.passOf c = some p →
      (c.travel.sent ≠ [] → exec (.layerContinue ctx row) s = .next s.settle) ∧
      (∀ g, c.travel.sent = [] → p.ending = false → (p.inp.legs p.from?)[c.travel.legs]? = some g →
        ∃ u : State, exec (.layerContinue ctx row) s =
            .next (State.settle (eachDo (s.legBundles ctx c p g) (fun b s => s.sendTravel ctx b) u)) ∧
          u.ctx ctx = some { c with travel := { c.travel with legs := c.travel.legs + 1, sent := s.legBundles ctx c p g } } ∧
          (∀ k, k ≠ ctx → u.ctx k = s.ctx k) ∧
          u = { s with ctxs := u.ctxs, nextId := s.nextId + (s.legBundles ctx c p g).length }))

/-- UNIT_START (R280, R281): with every tile of its group held for it and free, a context that has a unit ready runs it on them. A context
that does not hold its tiles does not start. A tile that is held, awake, for a context has come to it without blocks, buffers or rounding
values of another, its stash area zero. UNIT_END (R281): a unit that is over charges v with its tiles times its cycles, scaled by 65,536
and its weight; its tiles return to the pool and its stash goes, and then what it brings happens. A unit that is not over goes on. -/
def Obligations.units_start_and_end : Prop :=
  (∀ (s : State) (ctx : Nat) (c : Ctx) (w : Work), s.ctx ctx = some c → s.nextWork ctx c = some w →
    (s.allHeld ctx (s.runTiles c) = false → exec (.unitStart ctx) s = .next s) ∧
    (s.allHeld ctx (s.runTiles c) = true → s.power.mode = .active → s.fw.offline = false →
      ∃ (u : State) (y : Ctx), exec (.unitStart ctx) s = .next (u.beginWork ctx w).makeStarts.settle ∧ u.ctx ctx = some y ∧
        y.running = some ⟨s.runningWork w, s.runTiles c⟩ ∧ y.st = c.st ∧ y.v = c.v ∧ y.settings = c.settings ∧
        (∀ k, k ≠ ctx → u.ctx k = s.ctx k) ∧
        (∀ n, n ∈ s.runTiles c → (u.tile n).held = some ctx ∧ ((s.tile n).waking = false → (u.tile n).power = .run)) ∧
        (∀ n, n ∉ s.runTiles c → u.tile n = s.tile n) ∧ (∀ k, k < s.nextId → u.strm k = s.strm k) ∧
        u = { s with ctxs := u.ctxs, tiles := u.tiles, streams := u.streams, nextId := u.nextId })) ∧
  (∀ (s : State) (n ctx : Nat) (k : Tile),
    (s.tiles.wf → s.holdTiles.tiles.find n = some k → k.held = some ctx → k.waking = false → k.power ≠ .off → k.lastCtx = some ctx) ∧
    (s.tiles.find n = some k → k.lastCtx ≠ some ctx → ∃ u : State, s.changeCtx n ctx = u ∧
      u.tiles.find n = some { k with lastCtx := some ctx, loaded := [], marver := [], rounding := List.replicate 32 0,
                                     deriv := List.replicate 32 0 } ∧
      (∀ m, m ≠ n → u.tiles.find m = s.tiles.find m) ∧
      (∀ a, readByte u.mem a = if tileAddr n (tileBytes - s.stashArea n) ≤ a ∧ a < tileAddr n (tileBytes - s.stashArea n) + s.stashArea n
        then 0 else readByte s.mem a) ∧ u = { s with mem := u.mem, tiles := u.tiles })) ∧
  (∀ (s : State) (ctx cycles : Nat) (c : Ctx) (r : Running), s.ctx ctx = some c → c.running = some r →
    (s.unitOver c r.work r.tiles = false → exec (.unitEnd ctx cycles) s = .next s) ∧
    (s.unitOver c r.work r.tiles = true →
      ∃ (u : State) (y : Ctx), exec (.unitEnd ctx cycles) s = .next (u.endWork ctx r.work r.tiles c.stash).settle ∧
        u.ctx ctx = some y ∧ y.running = none ∧ y.stash = c.stash.filter (fun e => decide (e.place = .spilled)) ∧
        y.v = (c.v + cycles * r.tiles.length * 65536 / c.settings.weight) % 2 ^ 64 ∧ y.st = c.st ∧
        (∀ k, k ≠ ctx → u.ctx k = s.ctx k) ∧
        (∀ n, n ∈ r.tiles → (u.tile n).held = none ∧ ((s.tile n).waking = false → (u.tile n).power = .idle)) ∧
        (∀ n, n ∉ r.tiles → u.tile n = s.tile n) ∧
        (s.streams.wf → ∀ k x, s.strm k = some x → (x.ctx ≠ ctx ∨ (x.use ≠ .answers ∧ ∀ n, x.use ≠ .feed n)) → u.strm k = some x) ∧
        (s.streams.wf → (∀ p ∈ s.streams, (p.2.use = .answers ∨ ∃ n, p.2.use = .feed n) → p.2.desc = []) → u.mem = s.mem) ∧
        u = { s with ctxs := u.ctxs, tiles := u.tiles, sessions := u.sessions, streams := u.streams, mem := u.mem }))

/-- The stash (R85, R104, R105, R107). A set that fits beside those on tile is held there, with what the layer's backward pass reads; where
a home has no room for it the policy decides; below the lowest layer the step trains none is held, nor before the layer's
experts have answered. A spilled set's space is free once its write is complete, and it comes back when the forward pass is over and it fits. TILE_NAP_ENTRY and
TILE_WAKE_COMPLETE (R441): an idle tile that nothing needs naps; one that wakes runs or idles again, its stationary registers and marver
buffers gone, is zeroed where it is held for another context than its last, and keeps the rest. A tile in any other state stays. -/
def Obligations.stash_and_naps : Prop :=
  (∀ (s : State) (ctx : Nat) (c : Ctx) (t : TStep) (i : Nat), s.ctx ctx = some c → s.runningStep ctx = some (t, i) →
    (∀ z : StashSize, z.microBatch = i → t.ending = none → (∀ r ∈ t.recomputed, r.1 ≠ i) → t.backAt = none →
      (∀ e ∈ c.stash, e.size.layer < z.layer ∧ e.place ≠ .waiting) → z.layer < s.layers → s.lowestLayer t ≤ z.layer →
      s.forwardPast c z.layer = true →
      (z.homesOk = false ∨ t.homeFull.contains (i, z.layer) = true →
        exec (.layerForwardEnd ctx z) s = .next (s.exhausted ctx c t i z (s.layerRows t i z.layer))) ∧
      (z.homesOk = true → t.homeFull.contains (i, z.layer) = false → tileShare c.stash true + z.share ≤ t.regionBytes - t.stashWork →
        ∃ u : State, exec (.layerForwardEnd ctx z) s = .next u ∧
          u.ctx ctx = some { c with stash := c.stash ++ [⟨z, .onTile, s.layerRows t i z.layer⟩] } ∧
          (∀ k, k ≠ ctx → u.ctx k = s.ctx k) ∧ u = { s with ctxs := u.ctxs, steps := u.steps })) ∧
    (∀ z : StashSize, z.layer < s.lowestLayer t ∨ s.forwardPast c z.layer = false → exec (.layerForwardEnd ctx z) s = .next s) ∧
    (∀ b l, exec (.spillWriteComplete ctx b l) s = .next (s.setCtx ctx { c with
      stash := placeWaiting (t.regionBytes - t.stashWork) (c.stash.map (fun e =>
        if e.place = .spilling ∧ e.size.microBatch = b ∧ e.size.layer = l then { e with place := .spilled } else e)) })) ∧
    (∀ e, c.stash = [e] → e.place = .spilled → s.forwardOver c t i = true → e.size.share ≤ t.regionBytes - t.stashWork →
      exec (.stashBringBack ctx) s = .next (s.setCtx ctx { c with stash := [{ e with place := .onTile }] })) ∧
    (s.forwardOver c t i = false → exec (.stashBringBack ctx) s = .next s)) ∧
  (∀ (s : State) (n : Nat) (t : Tile), s.tile n = t →
    (s.vacant n = false → t.power = .idle → t.queue = [] → t.held = none → t.waking = false → s.tileRuns n = false →
      exec (.tileNapEntry n) s = .next { s with tiles := s.tiles.put n { t with power := .nap } }) ∧
    (t.power ≠ .idle ∨ t.queue ≠ [] ∨ t.held.isSome = true ∨ s.vacant n = true → exec (.tileNapEntry n) s = .next s) ∧
    (t.power = .nap → t.waking = true →
      exec (.tileWakeComplete n) s = .next (State.changeHeld n { s with tiles := s.tiles.put n { t with
        power := if s.tileRuns n = true ∨ t.queue ≠ [] then .run else .idle, waking := false, loaded := [], marver := [] } })) ∧
    (t.waking = false → exec (.tileWakeComplete n) s = .next s))

/-- Bundles that arrive (R218, R220, R223, R224). Once all its pieces are delivered, a FWD_OUT or BWD_OUT of another incarnation goes, one
for an expert not homed here is bounced without rows, and any other queues in arrival order. A FWD_BACK gives its values to the rows
that await it, an answer to a bundle of the micro-batch that runs is the micro-batch's, and a BOUNCE sends its rows again. A bundle of
another kind, or none of whose pieces is here, changes nothing. Bundles at a home, and the moves of experts (R217, R223, R447). The bundle that has waited longest starts on the coolest free sub-group; when it
ends, the tiles it ran on read zero and idle, and the answer goes to its token module. Once the experts that move have been placed, the
table names their new homes under the next epoch, and the rows held for them are sent. -/
def Obligations.bundles_arrive_and_run : Prop :=
  (∀ (s u : State) (p : Nat) (frames : List Frame) (b : Bundle), frames ≠ [] →
    (∀ f ∈ frames, f.msgType = 2 ∧ f.bcast = false ∧ f.dst = s.pos ∧ f.payload = .bundle b) → State.takeAll p frames s = (true, u) →
    (∀ i : Instr, (i = .fwdOut p frames b ∧ b.kind = 1) ∨ (i = .bwdOut p frames b ∧ b.kind = 3) →
      (u.incarnation b.ctx ≠ b.incarnation → exec i s = .next u) ∧
      (u.incarnation b.ctx = b.incarnation → u.homes b.expert = true →
        exec i s = .next { u with bundles := u.bundles ++ [⟨b, none⟩] }) ∧
      (u.incarnation b.ctx = b.incarnation → u.homes b.expert = false →
        exec i s = .next (u.sendBundle b.srcPos
          { b with kind := 5, elemFmt := 0, rows := 0, payload := [], rowFp := [], rowNos := [], ranks := [], srcPos := u.pos }))) ∧
    (b.kind = 2 → exec (.fwdBack p frames b) s = .next (u.takeBack b)) ∧
    (∀ (c : Ctx) (q : Parison) (tiles : List Nat) (r : Row), u.ctx b.ctx = some c → c.running = some ⟨.parison q, tiles⟩ →
      q.id = b.parison → c.incarnation = b.incarnation → b.kind = 2 → b.step = 0 → q.rows = [r] → r.layer = b.layer + 1 →
      r.awaiting = [b.expert] →
      (u.takeBack b).ctx b.ctx = some { c with running := some ⟨.parison { q with
        rows := [{ r with awaiting := [], answers := r.answers ++ [(b.expert, b.payload.take u.dModel)] }] }, tiles⟩ }) ∧
    (b.kind = 4 → exec (.bwdBack p frames b) s = .next (u.takeBack b)) ∧
    (∀ (c : Ctx) (w : Work) (tiles : List Nat) (y : Bundle), u.ctx b.ctx = some c → c.running = some ⟨w, tiles⟩ → (∀ q, w ≠ .parison q) →
      c.incarnation = b.incarnation → c.travel.sent = [y] → c.travel.answers = [] →
      (y.kind + 1 = b.kind → y.layer = b.layer → y.expert = b.expert → y.parison = b.parison → y.step = b.step → y.microBatch = b.microBatch →
        u.takeBack b = u.setCtx b.ctx { c with travel := { c.travel with
          sent := [], answers := [{ b with rowNos := y.rowNos, ranks := y.ranks }] } }) ∧
      (y.expert ≠ b.expert → u.takeBack b = u.setCtx b.ctx c)) ∧
    (b.kind = 5 → u.incarnation b.ctx = b.incarnation → exec (.bounce p frames b) s = .next (u.sendExpert b.ctx b.layer b.expert)) ∧
    (b.kind ≠ 1 → exec (.fwdOut p frames b) s = .next s) ∧ exec (.fwdOut p [] b) s = .next s) ∧
  (∀ s : State,
    (∀ q x rest, s.power.mode = .active → s.fw.offline = false → s.bundles = x :: rest → x.running = none →
      s.coolest s.freeQuads = some q →
      ∃ u : State, exec .bundleRun s = .next u ∧ u.bundles = { x with running := some q } :: rest ∧
        (∀ n ∈ s.quadTiles q, (u.tile n).power = .run) ∧ (∀ n, n ∉ s.quadTiles q → u.tile n = s.tile n) ∧
        u = { s with bundles := u.bundles, tiles := u.tiles }) ∧
    (s.freeQuads = [] → exec .bundleRun s = .next s) ∧
    (∀ tag x q, s.bundles.find? (fun x => x.running.isSome && decide (x.b.tag = tag)) = some x → x.running = some q →
      ∃ u : State, exec (.bundleRunEnd tag) s = .next (u.finishBundle x.b) ∧ u.bundles = s.bundles.erase x ∧
        (∀ n ∈ s.quadTiles q, (u.tile n).power = .idle ∧ ∀ a, a < tileBytes → readByte u.mem (tileAddr n a) = 0) ∧
        (∀ n, n ∉ s.quadTiles q → u.tile n = s.tile n) ∧
        (∀ a, (∀ n ∈ s.quadTiles q, a < tileAddr n 0 ∨ tileAddr n 0 + tileBytes ≤ a) → readByte u.mem a = readByte s.mem a) ∧
        u = { s with bundles := u.bundles, tiles := u.tiles, mem := u.mem }) ∧
    (s.ring.moving = [] → exec .expertReplacementDone s = .next s) ∧
    (∀ e home x, s.ring.moving = [(e, home)] → s.ring.experts.find e = some x →
      ∃ u : State, u.ring.moving = [] ∧ u.ring.expertEpoch = (s.ring.expertEpoch + 1) % 256 ∧
        u.ring.experts.find e = some (s.rehome e x home ((s.ring.expertEpoch + 1) % 256)) ∧
        (home ≠ x.home → ∃ page, s.rehome e x home ((s.ring.expertEpoch + 1) % 256) = { x with
          home := home, isLocal := decide (home = s.pos), epoch := (s.ring.expertEpoch + 1) % 256, weightsPage := page }) ∧
        (∀ k, k ≠ e → u.ring.experts.find k = s.ring.experts.find k) ∧
        ((home ≠ s.pos ∨ x.home = s.pos) → s.ring.experts.wf → u.hbmFree = s.hbmFree ∧ u.base = s.base) ∧
        (home = s.pos → x.home ≠ s.pos → x.kind = 2 → s.ring.experts.wf →
          u.hbmFree = s.hbmFree - s.expertPages ∧ u.base = { s.base with pages := s.base.pages + s.expertPages }) ∧
        u = { s with ring := u.ring, freeCount := s.freeCount + 1, hbmFree := u.hbmFree, base := u.base } ∧
        exec .expertReplacementDone s = .next (State.settle (eachDo u.ctxs.keys (fun n s =>
          eachDo [e] (fun e s => eachDo (List.range s.layers) (fun l s => s.sendExpert n l e) s) s) u))))

/-! ## Windows, programs and streams (R143, R154 to R172, R282, R353 to R359) -/

/-- MAP_WINDOW (R155, R353). INBOUND maps a range of the context's own under a new key; OUTBOUND a host region, every page present; PRESENT
sets the present bits of a range and no other; UNMAP frees a number that no stream and no running program names, and is BUSY otherwise.
A number that is mapped is not mapped again, and a region off a multiple of 65,536 is not mapped (R323, R324). LOAD_PROGRAM and RUN_PROGRAM (R354, R356). A program of known operations replaces what its
number held and is answered with its digest; one that runs is not replaced. A RUN_PROGRAM of a loaded program waits its turn behind the
context's others; of one that is not loaded it is NOT_PERMITTED. -/
def Obligations.windows_and_programs : Prop :=
  (∀ (s : State) (c : Cmd) (n : Nat) (ss : Session) (x : Ctx) (w : Nat), Clear s ss → s.ctx c.ctx = some x →
    Takes (specOf opMapWindow) c n ss s →
    (∀ a len, x.windows.find w = none → a % 64 = 0 → len % 64 = 0 → s.ownRange x a len true = true →
      ∃ (u : State) (key : Nat), exec (.mapWindowInbound c w a len) s = .next u ∧ key < 2 ^ 32 ∧
        u.ctx c.ctx = some { x with windows := x.windows.put w (.inbound a len key) } ∧ (∀ k, k ≠ c.ctx → u.ctx k = s.ctx k) ∧
        SendsOnly (s.replyTo c opMapWindow stOk [p32 0x81 key]) s u ∧
        u = { s with out := u.out, sessions := u.sessions, ctxs := u.ctxs, nextId := s.nextId + 1 }) ∧
    (∀ r, x.windows.find w = none → r.aligned = true →
      ∃ u : State, exec (.mapWindowOutbound c w r) s = .next u ∧
        u.ctx c.ctx = some { x with windows := x.windows.put w (.outbound r []) } ∧ (∀ k, k ≠ c.ctx → u.ctx k = s.ctx k) ∧
        SendsOnly (s.replyTo c opMapWindow stOk []) s u ∧ u = { s with out := u.out, sessions := u.sessions, ctxs := u.ctxs }) ∧
    (∀ r, r.aligned = false → ∃ u : State, exec (.mapWindowOutbound c w r) s = .next u ∧
      SendsOnly (s.replyTo c opMapWindow stNotPermitted []) s u ∧ u = { s with out := u.out, sessions := u.sessions }) ∧
    (∀ a len r, (x.windows.find w).isSome = true → ∃ u : State, exec (.mapWindowInbound c w a len) s = .next u ∧
      exec (.mapWindowOutbound c w r) s = .next u ∧ SendsOnly (s.replyTo c opMapWindow stNotPermitted []) s u ∧
      u = { s with out := u.out, sessions := u.sessions }) ∧
    (∀ first pages present r absent, x.windows.find w = some (.outbound r absent) →
      ∃ (u : State) (l : List Nat), exec (.mapWindowPresent c w first pages present) s = .next u ∧
        u.ctx c.ctx = some { x with windows := x.windows.put w (.outbound r l) } ∧ (∀ k, k ≠ c.ctx → u.ctx k = s.ctx k) ∧
        (∀ p, p < r.pages → (p ∈ l ↔ if first ≤ p ∧ p < first + pages then present = false else p ∈ absent)) ∧
        SendsOnly (s.replyTo c opMapWindow stOk []) s u ∧ u = { s with out := u.out, sessions := u.sessions, ctxs := u.ctxs }) ∧
    ((x.windows.find w).isSome = true → (s.streamNames c.ctx w = true ∨ x.programNames w = true) →
      ∃ u : State, exec (.mapWindowUnmap c w) s = .next u ∧ SendsOnly (s.replyTo c opMapWindow stBusy []) s u ∧
        u = { s with out := u.out, sessions := u.sessions }) ∧
    ((x.windows.find w).isSome = true → s.streamNames c.ctx w = false → x.programNames w = false →
      ∃ (u : State) (y : Ctx), exec (.mapWindowUnmap c w) s = .next u ∧ u.ctx c.ctx = some y ∧ y = { x with windows := y.windows } ∧
        y.windows.find w = none ∧ (∀ k, k ≠ w → y.windows.find k = x.windows.find k) ∧ (∀ k, k ≠ c.ctx → u.ctx k = s.ctx k) ∧
        SendsOnly (s.replyTo c opMapWindow stOk []) s u ∧ u = { s with out := u.out, sessions := u.sessions, ctxs := u.ctxs })) ∧
  (∀ (s : State) (c : Cmd) (n : Nat) (ss : Session) (x : Ctx) (k : Nat), Clear s ss → s.ctx c.ctx = some x →
    (∀ p : Bytes, Takes (specOf opLoadProgram) c n ss s → p.length % 80 = 0 → k < 64 → opsKnown p = true →
      ((∀ r, x.prog = some r → r.programNo ≠ k) → ∃ u : State, exec (.loadProgram c k p) s = .next u ∧
        u.ctx c.ctx = some { x with programs := x.programs.put k (p, sha384 p) } ∧ (∀ m, m ≠ c.ctx → u.ctx m = s.ctx m) ∧
        SendsOnly (s.replyTo c opLoadProgram stOk [(0x81, sha384 p)]) s u ∧
        u = { s with out := u.out, sessions := u.sessions, ctxs := u.ctxs }) ∧
      (∀ r, x.prog = some r → r.programNo = k → ∃ u : State, exec (.loadProgram c k p) s = .next u ∧
        SendsOnly (s.replyTo c opLoadProgram stBusy []) s u ∧ u = { s with out := u.out, sessions := u.sessions })) ∧
    (Takes (specOf opRunProgram) c n ss s →
      ((x.programs.find k).isSome = true → exec (.runProgram c k) s =
        .next (State.settle ((s.awaiting c opRunProgram n).modCtx c.ctx (fun y =>
          { y with runQueue := y.runQueue ++ [(ticketOf c opRunProgram n ss.serial, k)] })))) ∧
      (x.programs.find k = none → ∃ u : State, exec (.runProgram c k) s = .next u ∧
        SendsOnly (s.replyTo c opRunProgram stNotPermitted [p32 0x81 0, p32 0x82 0]) s u ∧
        u = { s with out := u.out, sessions := u.sessions })))

/-- STREAM_OPEN, STREAM_RESERVE, STREAM_OPEN with resume, STREAM_CLOSE and STREAM_STALL (R157, R167, R170, R172, R358, R359). With a slot
and what it needs free a stream runs and its id is returned; without them it waits and opens later; without a slot it is BUSY. A halted
stream runs on for the command that resumed it. STREAM_CLOSE is always OK, and a stream that stalls is counted on its engine; the
stream of answers to a unit's bundles stalls only while one is awaited (log 180, the model's reading). -/
def Obligations.streams_open_and_end : Prop :=
  ∀ (s : State) (c : Cmd) (n : Nat) (ss : Session) (x : Ctx), s.ctx c.ctx = some x →
    (∀ d : Bytes, Takes (specOf opStreamOpen) c n ss s → sdValid s.profile.split d = true → s.ownsEnds x d = true →
      sdUnchecked d = false → s.streams.find s.nextId = none →
      let y := s.strmOf c.ctx x.nextStream x (.command (ticketOf c opStreamOpen n ss.serial)) d
      (s.noSlot y x = true → Clear s ss → ∃ u : State, exec (.streamOpen c d) s = .next u.makeStarts.settle ∧
        SendsOnly (s.replyTo c opStreamOpen stBusy []) s u ∧ u = { s with out := u.out, sessions := u.sessions }) ∧
      (s.noSlot y x = false → ∃ u : State, exec (.streamOpen c d) s = .next u.makeStarts.settle ∧
        (s.canOpen y = false → u.strm s.nextId = some y ∧ u.out = s.out) ∧
        (s.canOpen y = true → (∃ z, u.strm s.nextId = some z ∧ z = { y with st := .running, baseSeq := z.baseSeq }) ∧
          (Clear s ss → u.out = s.out ++ [.packet (s.replyOf (ticketOf c opStreamOpen n ss.serial) false stOk [p32 0x81 x.nextStream])])) ∧
        (∀ k, k ≠ s.nextId → u.strm k = s.strm k) ∧
        u = { s with out := u.out, sessions := u.sessions, ctxs := u.ctxs, streams := u.streams, nextId := s.nextId + 1 })) ∧
    (∀ d : Bytes, Takes (specOf opStreamOpen) c n ss s → sdValid s.profile.split d = false →
      exec (.streamOpen c d) s = .fault .streamDescriptor) ∧
    (∀ id, Takes (specOf opStreamOpen) c n ss s →
      (s.streamsById c.ctx id StreamState.isHalted = [] → Clear s ss → ∃ u : State, exec (.streamOpenResume c id) s = .next u ∧
        SendsOnly (s.replyTo c opStreamOpen stNotPermitted []) s u ∧ u = { s with out := u.out, sessions := u.sessions }) ∧
      (∀ k rest y t0, s.streamsById c.ctx id StreamState.isHalted = k :: rest → s.strm k = some y → y.use = .command t0 →
        ∃ u : State, exec (.streamOpenResume c id) s = .next u.makeStarts.settle ∧
          u.strm k = some { y with st := .running, use := .command (ticketOf c opStreamOpen n ss.serial) } ∧
          (∀ m, m ≠ k → u.strm m = s.strm m) ∧
          u = { s with sessions := (s.awaiting c opStreamOpen n).sessions, streams := u.streams })) ∧
    (∀ id, Takes (specOf opStreamClose) c n ss s →
      (s.streamsById c.ctx id StreamState.isOpen = [] → Clear s ss → ∃ u : State, exec (.streamClose c id) s = .next u ∧
        SendsOnly (s.replyTo c opStreamClose stOk []) s u ∧ u = { s with out := u.out, sessions := u.sessions }) ∧
      (∀ k rest y, s.streamsById c.ctx id StreamState.isOpen = k :: rest → s.strm k = some y → s.bufferRead y = false →
        exec (.streamClose c id) s = .next (State.settle (State.makeStarts
          (((s.awaiting c opStreamClose n).failStrm k stTaskAborted).answer (ticketOf c opStreamClose n ss.serial) stOk))))) ∧
    (∀ (k : Nat) (y : Strm), s.strm k = some y → y.ctx = c.ctx → y.st = .waiting → y.desc ≠ [] →
      (s.noSlot y x = true ∨ s.canOpen y = false → exec (.streamReserve k) s = .next s ∨
        exec (.streamReserve k) s = .next s.makeStarts.settle) ∧
      (s.noSlot y x = false → s.canOpen y = true → ∃ (u : State) (z : Strm), exec (.streamReserve k) s = .next u.makeStarts.settle ∧
        u.strm k = some z ∧ z = { y with st := .running, baseSeq := x.pageSeq } ∧ (∀ m, m ≠ k → u.strm m = s.strm m))) ∧
    (∀ (k : Nat) (y : Strm), s.strm k = some y → y.st = .running → s.hbmUp = true → s.mayStall y = true →
      ∃ u : State, exec (.streamStall k) s = .next (u.failStrm k stStreamStall).makeStarts.settle ∧ u.strm k = some y ∧
        u.stalls.find y.engine = some ((s.stalls.getOr y.engine Counter.zero).addError 1) ∧
        u = { s with stalls := u.stalls, counters := u.counters, sessions := u.sessions }) ∧
    (∀ (k : Nat) (y : Strm), s.strm k = some y → y.st ≠ .running ∨ s.mayStall y = false → exec (.streamStall k) s = .next s)

/-- Operations of a program that do not compute (R282, R355). ARRAY queues its operation on a tile of the context, or waits on a full
queue; ROUNDING and DERIVATIVE set their registers; WAIT_TILE goes on with empty queues; WAIT_STREAM goes on when the slot's stream has
ended with OK; STREAM opens one; BOUNDARY is a preemption point. An operation on a tile that is not the context's ends the program
NOT_PERMITTED. -/
def Obligations.program_operations : Prop :=
  ∀ (s : State) (ctx : Nat) (c : Ctx) (p : ProgRun) (o : Bytes),
    let next : Ctx := { c with prog := some { p with index := p.index + 1 } }
    (s.nextOp ctx 0x01 = some (c, p, o) →
      (s.ownTile c (poTarget o) = false → exec (.array ctx) s = .next (s.endProgram ctx stNotPermitted).makeStarts.settle) ∧
      (s.ownTile c (poTarget o) = true → s.ownOperation c (poTarget o) (slice (poBody o) 0 32) = true →
        (32 ≤ (s.tile (poTarget o)).queue.length → exec (.array ctx) s = .next s) ∧
        ((s.tile (poTarget o)).queue.length < 32 → ∃ u : State, exec (.array ctx) s = .next u.makeStarts.settle ∧
          (u.tile (poTarget o)).queue = (s.tile (poTarget o)).queue ++ [⟨slice (poBody o) 0 32, ctx, 0, false⟩] ∧
          (∀ k, k ≠ poTarget o → u.tile k = s.tile k) ∧ u.ctx ctx = some next ∧ (∀ k, k ≠ ctx → u.ctx k = s.ctx k) ∧
          u = { s with tiles := u.tiles, ctxs := u.ctxs }))) ∧
    (s.nextOp ctx 0x02 = some (c, p, o) → sdValid s.profile.split (poBody o) = true → sdUnchecked (poBody o) = false →
      poTarget o < 64 → s.ownsEnds c (poBody o) = true → s.slotStream ctx (poTarget o) = none → s.streams.find s.nextId = none →
      let y := s.strmOf ctx (0x80000000 + poTarget o) c (.program (poTarget o)) (poBody o)
      (s.noSlot y c = true ∨ s.canOpen y = false → exec (.stream ctx) s = .next s) ∧
      (s.noSlot y c = false → s.canOpen y = true → ∃ (u : State) (z : Strm), exec (.stream ctx) s = .next u.makeStarts.settle ∧
        u.strm s.nextId = some z ∧ z = { y with st := .running, baseSeq := z.baseSeq } ∧ (∀ k, k ≠ s.nextId → u.strm k = s.strm k) ∧
        (∃ d, u.ctx ctx = some { next with pageSeq := d }) ∧
        u = { s with streams := u.streams, ctxs := u.ctxs, nextId := s.nextId + 1 })) ∧
    (s.nextOp ctx 0x03 = some (c, p, o) → ∀ k y, s.slotStream ctx (poTarget o) = some (k, y) →
      (y.st = .ended stOk → exec (.waitStream ctx) s = .next (s.setCtx ctx next)) ∧
      (∀ st, y.st = .ended st → st ≠ stOk → exec (.waitStream ctx) s = .next (s.endProgram ctx st).makeStarts.settle) ∧
      (y.st = .running → exec (.waitStream ctx) s = .next s)) ∧
    (s.nextOp ctx 0x04 = some (c, p, o) → (∀ n ∈ targetTiles c (poTarget o), s.ownTile c n = true) →
      ((∀ n ∈ targetTiles c (poTarget o), (s.tile n).queue = []) → exec (.waitTile ctx) s = .next (s.setCtx ctx next)) ∧
      ((∃ n ∈ targetTiles c (poTarget o), (s.tile n).queue ≠ []) → exec (.waitTile ctx) s = .next s)) ∧
    (s.nextOp ctx 0x05 = some (c, p, o) →
      exec (.boundary ctx) s = .next (s.setCtx ctx { c with prog := some { p with index := p.index + 1, atBoundary := true } })) ∧
    (s.nextOp ctx 0x06 = some (c, p, o) → s.ownTile c (poTarget o) = true →
      exec (.rounding ctx) s = .next { s.setCtx ctx next with
        tiles := s.tiles.put (poTarget o) { s.tile (poTarget o) with rounding := slice (poBody o) 0 32 } }) ∧
    (s.nextOp ctx 0x07 = some (c, p, o) → s.ownTile c (poTarget o) = true →
      exec (.derivative ctx) s = .next { s.setCtx ctx next with
        tiles := s.tiles.put (poTarget o) { s.tile (poTarget o) with deriv := slice (poBody o) 0 32 } })

/-- Operations of a program that train (R27, R128, R143, R355, R395). FINITE_CHECK clears the set of its step on the context's tiles and
goes on, or ends the program SKIPPED when a flag was set. UPDATE applies its rule, or ends the program: FROZEN when its master lies in
the base model, NOT_PERMITTED outside the context's own memory, undefined when a running operation reads the slot or an input it
writes (R47). COMMIT writes every
UPDATE since the last, and its record; a log range without room refuses it before anything is written. -/
def Obligations.program_training : Prop :=
  ∀ (s : State) (ctx : Nat) (c : Ctx) (p : ProgRun) (o : Bytes),
    (s.nextOp ctx 0x08 = some (c, p, o) → ∀ bad : Bool,
      let set := field (poBody o) 0 8 % 3
      let others := (fcOwners o).filter (fun k => decide (k ≠ s.pos))
      ∃ u : State, (∀ n ∈ c.settings.group, s.vacant n = false → (u.tile n).sets = (s.tile n).sets.set set []) ∧
        u.mem = s.mem ∧ u.vars = s.vars ∧ u.ctxs = s.ctxs ∧
        (anyNonfinite (s.groupStats c set) = true ∨ (bad = true ∧ others ≠ []) →
          exec (.finiteCheck ctx bad) s = .next (u.endProgram ctx stSkipped).makeStarts.settle) ∧
        (anyNonfinite (s.groupStats c set) = false → bad = false ∨ others = [] →
          exec (.finiteCheck ctx bad) s = .next (u.setCtx ctx { c with prog := some { p with index := p.index + 1 } }))) ∧
    (s.nextOp ctx 0x09 = some (c, p, o) →
      let u := updateOf o
      let tiles := targetTiles c (poTarget o)
      (∀ st, s.refuseUpdate c o = some st → exec (.update ctx) s = .next (s.endProgram ctx st).makeStarts.settle) ∧
      (s.refuseUpdate c o = none →
        regionsOk ((updateRegions s.baseFormat u tiles.length).filter (fun r => decide (0 < r.2))) = true →
        (u.inPlace = true → u.rows * u.cols ≤ 2 ^ 32) →
        (s.slotRead u tiles = true → exec (.update ctx) s = .fault .slotInUse) ∧
        (s.slotRead u tiles = false → s.updateSpoils u tiles = true → exec (.update ctx) s = .fault .overlap) ∧
        (s.slotRead u tiles = false → s.updateSpoils u tiles = false →
          exec (.update ctx) s = .next (s.runUpdate ctx o tiles).makeStarts.settle))) ∧
    (∀ e, s.base.extent = some e → overlaps (poMaster o) (masterBytes (updateOf o)) e.1 e.2 = true →
      s.refuseUpdate c o = some stFrozen) ∧
    (s.nextOp ctx 0x0A = some (c, p, o) → Memory.wf s.mem →
      let log := field (poBody o) 8 8
      let room := field (poBody o) 16 4
      let record := transportRecord ctx c p (field (poBody o) 0 8)
      (log % 64 ≠ 0 ∨ room < record.length ∨ ownExtent c log room = false →
        exec (.commit ctx) s = .next (s.endProgram ctx stNotPermitted).makeStarts.settle) ∧
      (log % 64 = 0 → record.length ≤ room → ownExtent c log room = true →
        ∃ u : State, exec (.commit ctx) s = .next u.makeStarts.settle ∧ (∀ i, i < record.length → readByte u.mem (log + i) = record.getD i 0) ∧
          u.ctx ctx = some { c with prog := some { p with index := p.index + 1, openUpdates := [] } } ∧
          (∀ k, k ≠ ctx → u.ctx k = s.ctx k) ∧
          (p.openUpdates = [] → ∀ a, (a < log ∨ log + record.length ≤ a) → readByte u.mem a = readByte s.mem a) ∧
          u = { s with mem := u.mem, ctxs := u.ctxs }))

/-! ## The array and the streams that move (R35, R44 to R55, R96, R143, R149, R160 to R173) -/

/-- NOP, MATMUL, ELEMENTWISE and MARVER_FILL (R9, R35, R44, R49, R51, R55, R96, R279). The operation at the front of a ready tile's queue
completes: its result is written where its descriptor says and nowhere else, it leaves the queue, and its completion code follows those
before. An undefined one stops by name; one that touches
memory not its context's does not start, and ends its program (R9, R279). A fill takes the next piece of the earliest operation that uses
a marver mode. -/
def Obligations.array_operations_complete : Prop :=
  ∀ (s : State) (n : Nat) (q : QueueOp) (rest : List QueueOp), s.tileReady n = true → (s.tile n).queue = q :: rest →
    let x := s.arrayIn n
    (aoOp q.desc = 0 → reservedCodes q.desc = false → ∃ u : State, exec (.nop n) s = .next u.makeStarts.settle ∧ (u.tile n).queue = rest ∧
      (u.tile n).completions = (s.tile n).completions ++ [0] ∧ (∀ k, k ≠ n → u.tile k = s.tile k) ∧ u = { s with tiles := u.tiles }) ∧
    (3 ≤ aoOp q.desc ∨ reservedCodes q.desc = true → exec (.nop n) s = .fault .reservedCode) ∧
    (s.operationOwned n q = false →
      (aoOp q.desc = 1 → ∀ e, exec (.matmul n e) s = .next (s.refuseOperation n q).makeStarts.settle) ∧
      (aoOp q.desc = 2 → ∀ e, exec (.elementwise n e) s = .next (s.refuseOperation n q).makeStarts.settle)) ∧
    (aoOp q.desc = 1 → (∀ o ∈ onArray x (q :: rest), s.operationOwned n o = true) →
      (∀ f, matmulFault x (s.tile n).loaded q.desc = some f → ∀ e, exec (.matmul n e) s = .fault f) ∧
      ((∀ o ∈ onArray x (q :: rest), matmulFault x (s.tile n).loaded o.desc = none) →
        (∀ e, exec (.matmul n e) s = .next (s.runMatmul n (onArray x (q :: rest)) e).makeStarts.settle) ∧
        (onArray x (q :: rest) = [q] → Memory.wf s.mem → ∃ u : State, exec (.matmul n .clean) s = .next u.makeStarts.settle ∧
          (u.tile n).queue = rest ∧ (u.tile n).completions = (s.tile n).completions ++ [0] ∧
          u.mem = (matmulWrites x q.desc (matmulRows x (s.blockFor n q.desc) q.desc)).foldl
            (fun m w => writeBytes m (tileAddr n w.1) w.2) s.mem ∧
          (∀ a, (∀ w ∈ matmulWrites x q.desc (matmulRows x (s.blockFor n q.desc) q.desc),
            a < tileAddr n w.1 ∨ tileAddr n w.1 + w.2.length ≤ a) → readByte u.mem a = readByte s.mem a) ∧
          (∀ k, k ≠ n → u.tile k = s.tile k) ∧ u = { s with tiles := u.tiles, mem := u.mem, counters := u.counters }))) ∧
    (aoOp q.desc = 2 → s.operationOwned n q = true →
      (∀ f, ewFault x q.desc = some f → ∀ e, exec (.elementwise n e) s = .fault f) ∧
      (ewFault x q.desc = none → Memory.wf s.mem →
        let vals := ((List.range (aoRows q.desc)).map (ewRow x q.desc)).flatMap (fun r => r)
        let dst := offsetOf (aoDst q.desc)
        ∃ u : State, exec (.elementwise n .clean) s = .next u.makeStarts.settle ∧ (u.tile n).queue = rest ∧
          (u.tile n).completions = (s.tile n).completions ++ [0] ∧
          u.mem = writeBytes s.mem (tileAddr n dst) (vals.flatMap (fun v => v.bytes)) ∧
          (∀ a, a < tileAddr n dst ∨ tileAddr n dst + (vals.flatMap (fun v => v.bytes)).length ≤ a →
            readByte u.mem a = readByte s.mem a) ∧
          (∀ k, k ≠ n → u.tile k = s.tile k) ∧ u = { s with tiles := u.tiles, mem := u.mem, counters := u.counters })) ∧
    ((s.tile n).marver.length < 2 → s.operationOwned n q = true → marverOk x q.desc = true → q.marverDone < marverPieces x q.desc →
      exec (.marverFill n) s = .next { s with tiles := s.tiles.put n { s.tile n with
        marver := (s.tile n).marver ++ [marverFilled x q.desc q.marverDone],
        queue := { q with marverDone := q.marverDone + 1 } :: rest } }) ∧
    (2 ≤ (s.tile n).marver.length → exec (.marverFill n) s = .next s)

/-- COPY, STRIDED, ROTATE and REDUCE_HOP (R69, R160, R163, R165). Between ends in module memory, the next transfer of a running stream with
a credit left carries the bytes of its source and is outstanding; a hop at its owner carries the FP32 sums. Memory does not change
before it lands. A stream of another kind, or one that does not run, stays. TRANSFER_LAND (R160, R170). A transfer between ends in
module memory lands: its bytes stand at its destination and nowhere else, and its credit is free; of a stream that was abandoned nothing
is written; one that would change an input of an operation that has not completed stops by name, for it is undefined (R47). A transfer
that is not outstanding changes nothing. A stream that feeds an array keeps half a buffer ahead (R164). -/
def Obligations.transfers_are_issued_and_land : Prop :=
  (∀ (s : State) (k : Nat) (y : Strm), s.strm k = some y → y.st = .running → s.hbmUp = true →
    (y.kind = 1 → y.desc = [] → exec (.copy k) s = .next (s.feedOne k y).makeStarts.settle) ∧
    (∀ i : Instr, ((i = .copy k ∧ y.kind = 1 ∧ y.desc ≠ []) ∨ (i = .strided k ∧ y.kind = 2) ∨ (i = .rotate k ∧ y.kind = 4)) →
      exec i s = .next (s.moveOne k y).makeStarts.settle ∧
      (y.mayIssue = true → isLocal (sdSrcKind y.desc) = true → isLocal (sdDstKind y.desc) = true →
        s.endSleeps (sdSrcKind y.desc) (sdSrc y.desc) = false →
        ∃ u : State, exec i s = .next u.makeStarts.settle ∧
          u.strm k = some { y with issued := y.issued + 1, outstanding := y.outstanding ++
            [(y.issued, (sdSrcAddrs y.desc y.issued).map (readByte s.mem))] } ∧
          (∀ m, m ≠ k → u.strm m = s.strm m) ∧ u = { s with streams := u.streams })) ∧
    (y.kind = 3 → y.mayIssue = true → isLocal (sdSrcKind y.desc) = true → isLocal (sdDstKind y.desc) = true →
      s.endSleeps (sdSrcKind y.desc) (sdSrc y.desc) = false → ∀ partials,
      ∃ u : State, exec (.reduceHop k partials) s = .next u.makeStarts.settle ∧
        u.strm k = some { y with issued := y.issued + 1, outstanding := y.outstanding ++
          [(y.issued, (hopSums (slice partials 0 256) (readWords s.mem (modAddr (sdSrc y.desc) + 1024 * y.issued) 256)).flatMap
            (fun w => leBytes 4 w.toNat))] } ∧
        (∀ m, m ≠ k → u.strm m = s.strm m) ∧ u = { s with streams := u.streams, tiles := u.tiles }) ∧
    (y.kind ≠ 1 → exec (.copy k) s = .next s) ∧ (y.kind ≠ 2 → exec (.strided k) s = .next s) ∧
    (y.kind ≠ 3 → ∀ b, exec (.reduceHop k b) s = .next s) ∧ (y.kind ≠ 4 → exec (.rotate k) s = .next s)) ∧
  (∀ (s : State) (k i : Nat) (y : Strm) (bytes : Bytes), s.strm k = some y →
    (y.outstanding.find? (fun p => decide (p.1 = i)) = none → ∀ e, exec (.transferLand k i bytes e) s = .next s) ∧
    (∀ data, y.outstanding.find? (fun p => decide (p.1 = i)) = some (i, data) → s.hbmUp = true → y.desc ≠ [] →
      isLocal (sdSrcKind y.desc) = true → isLocal (sdDstKind y.desc) = true →
      (y.discard = true → ∀ e, ∃ u : State, exec (.transferLand k i bytes e) s = .next u.makeStarts.settle ∧
        (∀ a, a < (sdBuffer y.desc).1 ∨ (sdBuffer y.desc).1 + (sdBuffer y.desc).2 ≤ a → readByte u.mem a = readByte s.mem a) ∧
        (∀ m, m ≠ k → u.strm m = s.strm m) ∧ u = { s with streams := u.streams, mem := u.mem }) ∧
      (y.discard = false → s.spoilsInputs (landAddrs y i) = true → exec (.transferLand k i bytes .clean) s = .fault .overlap) ∧
      (y.discard = false → s.spoilsInputs (landAddrs y i) = false → (∀ n, y.use ≠ .feed n) →
        s.endSleeps (sdDstKind y.desc) (sdDst y.desc) = false → Memory.wf s.mem →
        ∃ u : State, exec (.transferLand k i bytes .clean) s = .next u.makeStarts.settle ∧
          u.strm k = some { y with outstanding := y.outstanding.filter (fun p => decide (p.1 ≠ i)), landed := y.landed ++ [i] } ∧
          u.mem = ((landAddrs y i).zip data).foldl (fun m p => writeByte m p.1 p.2) s.mem ∧
          (∀ a, a ∉ landAddrs y i → readByte u.mem a = readByte s.mem a) ∧ (∀ m, m ≠ k → u.strm m = s.strm m) ∧
          u = { s with streams := u.streams, mem := u.mem, ctxs := u.ctxs, sessions := u.sessions })))
/-- PAGE_OUT and PAGE_IN (R163, R187, R426 to R429). The next page of a stream of the module's own leaves for its region, sealed under the
context's page key with the next page_seq; a page asked for is taken when it is authentic, and counted and refused when it is not; an
error of the read ends the stream, and a stall is counted. PATROL_SCRUB (R149, R152). A line of this grade's HBM read clean changes
nothing; a corrected one is counted; an uncorrectable one is counted, its page is retired from allocation, and what its area held is
lost. A CRC covers committed state only. -/
def Obligations.pages_move_and_lines_are_scrubbed : Prop :=
  (∀ (s : State) (k : Nat) (y : Strm) (c : Ctx) (r : Region), s.strm k = some y → y.st = .running → s.hbmUp = true → y.desc = [] →
    y.mayIssue = true → y.region = some r → s.ctx y.ctx = some c →
    (∀ key, y.kind = 5 → c.pageKey = some key → s.hostBlocked r = false → (∀ v, y.use ≠ .writeOut v) →
      ∃ u : State, exec (.pageOut k) s = .next u.makeStarts.settle ∧
        u.out = s.out ++ [.page r (s.pagePlace y y.issued)
          (sealPage y.ctx c key y y.issued (y.pages.getD y.issued .filler))] ∧
        (sealPage y.ctx c key y y.issued (y.pages.getD y.issued .filler)).key = key ∧
        (sealPage y.ctx c key y y.issued (y.pages.getD y.issued .filler)).pageSeq = y.baseSeq + y.issued ∧
        u.strm k = some { y with issued := y.issued + 1, outstanding := y.outstanding ++ [(y.issued, [])] } ∧
        (∀ m, m ≠ k → u.strm m = s.strm m) ∧
        u = { s with out := u.out, streams := u.streams, freeCount := s.freeCount + 1 }) ∧
    (y.kind = 5 → s.hostBlocked r = true → exec (.pageOut k) s = .next s) ∧
    (y.kind = 6 → ∃ u : State, u = { s with out := u.out, ports := u.ports } ∧ .pageRead r (s.pagePlace y y.issued) ∈ u.out ∧
      (∀ p, s.judgePage y c p = .taken → exec (.pageIn k (.data p)) s = .next (u.takePage k p).makeStarts.settle ∧
        ∃ d, (u.takePage k p).strm k = some { y with
          issued := y.issued + 1, outstanding := y.outstanding ++ [(y.issued, d)], pages := y.pages ++ [p.body] }) ∧
      (∀ p h, s.judgePage y c p = .head h → exec (.pageIn k (.data p)) s = .next (State.settle (State.makeStarts
        ((u.takePage k p).modStrm k (fun x => { x with head := some h, total := 1 + h.dataPages }))))) ∧
      (∀ p, s.judgePage y c p = .unauthentic → exec (.pageIn k (.data p)) s =
        .next (State.settle (State.makeStarts ((u.countError cPagesAuthFailed 1).failRead k stAdapterLoadFailed true)))) ∧
      (∀ p, s.judgePage y c p = .foreign → exec (.pageIn k (.data p)) s =
        .next (State.settle (State.makeStarts (u.failRead k stNotPermitted false)))) ∧
      exec (.pageIn k .error) s = .next (State.settle (State.makeStarts (u.failRead k stAdapterLoadFailed false))) ∧
      exec (.pageIn k .stalled) s = .next (State.settle (State.makeStarts (u.stallStrm k))))) ∧
  (∀ (s : State) (a : Nat) (area : HbmArea), s.hbmUp = true →
    (s.inHbm a = false → ∀ o, exec (.patrolScrub a area o) s = .next s) ∧
    (s.inHbm a = true →
      exec (.patrolScrub a area .clean) s = .next s.settle ∧
      exec (.patrolScrub a area .corrected) s = .next (s.countError cHbmCorrected 1).settle ∧
      (∃ u : State, exec (.patrolScrub a area .uncorrectable) s = .next (u.hbmLost area).settle ∧ (a - hbmBase) / 65536 ∈ u.hbmRetired ∧
        ((a - hbmBase) / 65536 ∉ s.hbmRetired → u.hbmFree = s.hbmFree - 1) ∧
        (u.flash.faults.head?.map (fun f => (f.kind, f.detail0))) = some (fkHbmUncorrectable, a) ∧
        u = { s with counters := u.counters, sessions := u.sessions, flash := u.flash, freeCount := u.freeCount,
                     hbmRetired := u.hbmRetired, hbmFree := u.hbmFree }) ∧
      ((∀ v, area ≠ .committed v) → exec (.patrolScrub a area .crcMismatch) s = .next s.settle)))

/-! ## The ring (R217, R233, R239 to R272) -/

/-- Frames a ring port delivers (R217, R222, R241 to R245, R254). A STREAM frame waits in the local pool; IDLE brings its control block
only; a REDUCE and an ANNOUNCE do what they carry; an LLDP records the neighbour, and raises NEIGHBOUR_JOINED for a new one. A frame that
its link does not accept does nothing of the kind. A passing frame leaves by the other port, or is dropped and counted. -/
def Obligations.frames_are_delivered : Prop :=
  ∀ (s u : State) (p : Nat) (f : Frame), s.ringPort p = true → s.board.bypassOpen = true →
    (s.forMe f = true → s.take p f = (true, u) →
      (f.msgType = 1 → exec (.caneStreamFrame p f) s =
        .next { u with links := u.links.put p { u.link p with localPool := (u.link p).localPool ++ [f] } }) ∧
      (f.msgType = 8 → exec (.idle p f) s = .next u) ∧
      (∀ v m, f.msgType = 3 → f.payload = .reduce v m → exec (.reduce p f) s = .next (u.takeReduce v f.src m).settle) ∧
      (∀ m, f.msgType = 5 → f.payload = .announce m → exec (.announce p f) s = .next (u.takeAnnounce f.src f.ctx m).settle) ∧
      (∀ d, f.msgType = 6 → f.payload = .lldp d → exec (.lldp p (some f) d) s = .next (u.meetNeighbour p d) ∧
        ((u.meetNeighbour p d).port p).neighbour = some d) ∧
      (∀ e, f.msgType = 7 → f.payload = .rekey e → ((u.link p).rekey ≠ .idle ∨ u.lowerSerial (u.link p) = true) →
        exec (.rekey p f) s = .next u) ∧
      (∀ e, f.msgType = 7 → f.payload = .rekey e → (u.link p).rekey = .idle → u.lowerSerial (u.link p) = false →
        exec (.rekey p f) s = .next (State.switchKey
          { u with links := u.links.put p { u.link p with keys := (u.link p).keys + 1 } } p e))) ∧
    (s.forMe f = true → s.take p f = (false, u) →
      (f.msgType = 1 → exec (.caneStreamFrame p f) s = .next u) ∧ (f.msgType = 3 → exec (.reduce p f) s = .next u) ∧
      (f.msgType = 5 → exec (.announce p f) s = .next u)) ∧
    (s.passes f = true → s.accept p f = (true, u) →
      (u.passDrops f = true → reservedType f.msgType = false → exec (.frameForward p f) s = .next (u.dropPassing p f)) ∧
      (u.passDrops f = false → exec (.frameForward p f) s = .next (State.pumpBoth
        { u with links := u.links.put p { u.link p with passing := (u.link p).passing ++ [⟨f, u.sliceFor p f⟩] } } p))) ∧
    (s.passes f = false → exec (.frameForward p f) s = .next s) ∧
    (∀ (v n : Nat) (w : Vote) (l : List (Nat × TensorState)) (t : TStep), u.findStep v n = some t → t.leader = true →
      ∃ y, (u.takeReduce v f.src (.vote n w l)).findStep v n = some y ∧ y = { t with votes := t.votes.put f.src w }) ∧
    (∀ (v n : Nat) (bad : Bool) (l : List LayerStat) (t : TStep), u.findStep v n = some t → t.leader = true →
      ∃ y, (u.takeReduce v f.src (.check n bad l)).findStep v n = some y ∧ y = { t with checks := t.checks.put f.src (bad, l) })

/-- The state of a ring link (R248 to R252, R264, R268 to R271). Loss of signal holds its traffic; establishment brings it up at the rate
trained; a hold that expires takes it down; three bad windows in a row retrain it at the next lower rate; a training that fails is
counted; a rekey is started by the member of lower serial and asked for by the other. -/
def Obligations.ring_links_change_state : Prop :=
  ∀ (s : State) (p : Nat) (l : Link), s.ringPort p = true → s.link p = l →
    (l.st = .up → exec (.ringSignalLoss p) s =
      .next { s with links := s.links.put p { l with st := .held, badWindows := 0, tagFails := 0 } }) ∧
    (∀ q rate, s.board.bypassOpen = true → rate ≤ 3 → l.st ≠ .up → (∃ o, l.partner = some o ∧ o.serial = q.serial) →
      ∃ u : State, exec (.linkEstablished p q rate) s =
          .next (State.settle (State.makeStarts (((u.resend p).sendLldp p).pumpBoth p))) ∧
        u = { s with links := u.links } ∧ (u.link p).st = .up ∧ (u.link p).rate = rate ∧ (u.link p).partner = some q ∧
        (u.link p).epoch = s.linkEpoch l q ∧ (u.link p).replay = l.replay ∧ (u.link p).sendQueue = l.sendQueue ∧
        (u.link p).keys = l.keys + 1 ∧ ∀ k, k ≠ p → u.link k = s.link k) ∧
    (∀ q rate, s.board.bypassOpen = true → rate ≤ 3 → l.st ≠ .up → l.partner = none →
      exec (.linkEstablished p q rate) s =
        .next (State.settle (State.makeStarts (((s.relink p q rate).sendLldp p).pumpBoth p))) ∧
      ((s.relink p q rate).link p).st = .up ∧ ((s.relink p q rate).link p).localHeld = 1024 ∧
      ((s.relink p q rate).link p).txFrame = 0) ∧
    (∀ q rate, (l.st = .up ∨ s.board.bypassOpen = false ∨ 3 < rate) → exec (.linkEstablished p q rate) s = .next s) ∧
    (l.st ≠ .held → exec (.linkHoldExpiry p) s = .next s) ∧
    (l.st = .held → (s.port p).neighbour = none → ∃ u : State, exec (.linkHoldExpiry p) s =
        .next (State.settle (State.makeStarts
          ((u.endRingStreams p (fun x => decide (sdDstKind x.desc = p) && x.inFrames l.replay)).turnRound p))) ∧
      (u.link p).st = .down ∧ (∃ f, u.flash.faults.head? = some f ∧ f.kind = fkLinkDown ∧ f.index = p) ∧
      (∀ k, k ≠ p → u.link k = s.link k) ∧
      u = { s with links := u.links, sessions := u.sessions, counters := u.counters, flash := u.flash, freeCount := u.freeCount }) ∧
    (l.st = .up →
      exec (.berWindow p false) s = .next { s with links := s.links.put p { l with badWindows := 0 } } ∧
      (l.badWindows < 2 → exec (.berWindow p true) s =
        .next { s with links := s.links.put p { l with badWindows := l.badWindows + 1 } }) ∧
      (2 ≤ l.badWindows → l.rate < 3 → ∃ u : State, exec (.berWindow p true) s = .next u ∧
        u.link p = { l with rate := l.rate + 1, st := .held, badWindows := 0, tagFails := 0 } ∧
        (∀ k, k ≠ p → u.link k = s.link k) ∧ u = { s with links := u.links }) ∧
      (∀ lane z q, lane < 8 → 1 ≤ q → q ≤ 4 → exec (.eqAdapt p lane z q) s =
        .next { s with links := s.links.put p { l with lanes := l.lanes.put lane z, eqReq := q } }) ∧
      (s.lowerSerial l = true → exec (.rekeyDue p) s = .next (s.startRekey p)) ∧
      (s.lowerSerial l = false → exec (.rekeyDue p) s = .next { s with links := s.links.put p { l with rekeyReq := true } }) ∧
      exec (.lldpTimer p) s = .next (s.sendLldp p)) ∧
    (∀ lane z q, 8 ≤ lane → exec (.eqAdapt p lane z q) s = .next s) ∧
    (l.st = .dark → (s.ring.st = .member ∨ s.ring.st = .out) → ∃ u : State, exec (.caneTrainingFailed p) s = .next u ∧
      (u.link p).st = .down ∧ (u.link p).stored = false ∧
      u.counters.find cCaneTrainingFailures = some ((s.counters.getOr cCaneTrainingFailures Counter.zero).addError 1) ∧
      u = { s with links := u.links, counters := u.counters, sessions := u.sessions }) ∧
    (l.st = .up → exec (.caneTrainingFailed p) s = .next s)

/-- Roll calls (R255 to R257, R267). The anchor issues one with the next roll_seq, when its period ends and when its collect pass does not
come back; no other member does. A collect pass gains a member's entry and goes on; a published one becomes every member's table. A
member that loses its anchor waits by its serial, and then issues a roll call as anchor. -/
def Obligations.roll_calls_go_round : Prop :=
  ∀ s : State,
    (s.isAnchor = true → exec .rollCallTimer s = .next s.issueRoll.settle ∧
      (s.ring.collectOut = true → exec .collectPassTimeout s = .next s.issueRoll.settle)) ∧
    (s.isAnchor = false → exec .rollCallTimer s = .next s.settle ∧ exec .collectPassTimeout s = .next s.settle) ∧
    (s.ring.st = .member → s.ring.anchor ≠ s.pos →
      exec .anchorLost s = .next { s with ring := { s.ring with backoff := true } }) ∧
    (s.ring.st = .member → s.ring.backoff = true →
      exec .anchorBackoffExpiry s =
        .next (State.settle (State.issueRoll { s with ring := { s.ring with backoff := false, anchor := s.pos } }))) ∧
    (s.ring.backoff = false → exec .anchorBackoffExpiry s = .next s) ∧
    (∀ (u : State) (p : Nat) (f : Frame) (r : RollCall), s.ringPort p = true → s.board.bypassOpen = true → f.msgType = 4 →
      f.payload = .roll r →
      (f.bcast = false → r.pass = 1 → s.accept p f = (true, u) → u.inRing = true → u.isAnchor = false →
        let v := if f.dst = u.pos then u.freeLocal p f else u.freePassing p ⟨f, u.sliceFor p f⟩
        exec (.rollCallCollect p f) s = .next (v.writeEntry p f r).settle) ∧
      (f.bcast = true → r.pass = 2 → s.take p f = (true, u) → u.inRing = true → u.isAnchor = false →
        exec (.rollCallPublish p f) s = .next (u.takeTable r).makeStarts.settle) ∧
      (f.bcast = true → exec (.rollCallCollect p f) s = .next s) ∧ (f.bcast = false → exec (.rollCallPublish p f) s = .next s))

/-- Joining and leaving (R258, R260, R262, R263, R265, R323, R324, R360, R362). RING_JOIN with a region off a multiple of 65,536 is
NOT_PERMITTED. RING_JOIN of a module that is out begins to listen, and of a member is
OK at once; a joiner that heard no roll call waits by its serial, and one admitted opens its bypass after two quiet passes, or is refused
where what admitted it holds no longer (R21, R263); the first of a
ring becomes its anchor at position 0, a MEMBER, under the next ring epoch. RING_LEAVE of a member with nothing homed here leaves; drained,
it closes its bypass, and is out of the ring. -/
def Obligations.modules_join_and_leave : Prop :=
  ∀ (s : State) (c : Cmd) (n : Nat) (ss : Session), Clear s ss →
    (∀ r, Takes (specOf opRingJoin) c n ss s → r.aligned = false → ∃ u : State, exec (.ringJoin c (some r)) s = .next u ∧
      SendsOnly (s.replyTo c opRingJoin stNotPermitted []) s u ∧ u = { s with out := u.out, sessions := u.sessions }) ∧
    (∀ image, Takes (specOf opRingJoin) c n ss s → (∀ r, image = some r → r.aligned = true) → s.ringRoles = true →
      (s.ring.st = .member → ∃ u : State, exec (.ringJoin c image) s = .next u ∧
        SendsOnly (s.replyTo c opRingJoin stOk [p8 0x81 s.pos, p32 0x82 s.ring.ringEpoch]) s u ∧
        u = { s with out := u.out, sessions := u.sessions }) ∧
      (s.ring.st = .out → s.board.bypassMoving = none → s.board.bypassOpen = false → ∃ u : State, exec (.ringJoin c image) s = .next u ∧
        u.ring.st = .listening ∧ u.ring.joinTicket = some (ticketOf c opRingJoin n ss.serial) ∧ u.ring.joinImage = image ∧
        u.ring.heard = none ∧ u = { s with sessions := (s.awaiting c opRingJoin n).sessions, links := u.links, ring := u.ring }) ∧
      (s.ring.st = .leaving ∨ s.ring.st = .closing → ∃ u : State, exec (.ringJoin c image) s = .next u ∧
        SendsOnly (s.replyTo c opRingJoin stBusy []) s u ∧ u = { s with out := u.out, sessions := u.sessions })) ∧
    (Takes (specOf opRingLeave) c n ss s →
      (s.ring.st = .member → s.mayLeave = true → exec (.ringLeave c) s = .next { s.awaiting c opRingLeave n with
        ring := { s.ring with st := .leaving, leaveTicket := some (ticketOf c opRingLeave n ss.serial) } }) ∧
      (s.ring.st ≠ .member ∨ s.mayLeave = false → ∃ u : State, exec (.ringLeave c) s = .next u ∧
        SendsOnly (s.replyTo c opRingLeave stBusy []) s u ∧ u = { s with out := u.out, sessions := u.sessions })) ∧
    (s.ring.st = .listening → s.ring.heard = none →
      exec .noRingTimeout s = .next { s with ring := { s.ring with backoff := true } }) ∧
    (∀ p, s.ring.st = .admitted p → s.board.bypassMoving = none → s.baseReady = true →
      (s.ring.quietPasses < 2 → exec .joinQuietPasses s = .next s) ∧
      (∀ cause, 2 ≤ s.ring.quietPasses → s.admittedCause = some cause → exec .joinQuietPasses s = .next (s.refuseJoin cause)) ∧
      (2 ≤ s.ring.quietPasses → s.admittedCause = none → exec .joinQuietPasses s = .next { s with
        ring := { s.ring with st := .opening p, backoff := false }, board := { s.board with bypassMoving := some true } })) ∧
    (∀ p, s.ring.st = .opening p → s.board.bypassMoving = some true → s.ring.heard = none → s.ring.joinTicket = none →
      ∃ u : State, exec .bypassSettled s = .next u.settle ∧ u.board.bypassOpen = true ∧ u.board.bypassMoving = none ∧
        u.ring.st = .member ∧ u.ring.position = some 0 ∧ u.ring.anchor = 0 ∧ u.ring.ringEpoch = (s.ring.ringEpoch + 1) % 2 ^ 32 ∧
        u = { s with board := u.board, ring := u.ring, sessions := u.sessions, counters := u.counters }) ∧
    (∀ e, s.ring.st = .leaving → s.entryAt s.pos = some e → e.state = 3 → s.ring.moving = [] → s.portDrained west = true →
      s.portDrained east = true → s.bundles = [] →
      exec .leaveDrained s = .next { s with ring := { s.ring with st := .closing }, board := { s.board with bypassMoving := some false } }) ∧
    (s.ring.st = .closing → s.board.bypassMoving = some false → ∃ u : State, exec .bypassSettled s = .next u.settle ∧
      u.board.bypassOpen = false ∧ u.board.bypassMoving = none ∧ u.ring.st = .out ∧ u.ring.position = none ∧ u.ring.table = none ∧
      u.ring.ringEpoch = (s.ring.ringEpoch + 1) % 2 ^ 32 ∧ u.mem = s.mem ∧ u.ctxs = s.ctxs) ∧
    (s.board.bypassMoving = none → exec .bypassSettled s = .next s)

/-! ## The fabric (R154, R155, R233 to R237, R254, R308) -/

/-- Frames, congestion and pause (R234 to R236). A frame outside 64 to 9,216 bytes, or without room in its priority's MiB, is dropped and
counted; any other of a lossless priority enters the receive buffer, and a mark is answered. A CNP cuts the rate to three quarters, no
lower than 100 Mb/s; a quiet period raises it half the way to its target. A pause stops one of the two lossless priorities. -/
def Obligations.fabric_traffic_is_controlled : Prop :=
  ∀ (s : State) (p : Nat), s.fabric p = true → (s.port p).up = true →
    (∀ f : RoceFrame, (f.length < 64 ∨ 9216 < f.length ∨ 1 < f.tags ∨ (s.lossless (s.priorityOf f) = true ∧
        1048576 < (s.port p).used (s.priorityOf f) + f.length)) →
      exec (.rocePacketReceive p f) s = .next (s.countError cEthDropped 1)) ∧
    (∀ (f : RoceFrame) (q : Qp), frameOk f = true → s.rxRoom p f = true → s.qps.find f.qp = some q → q.port = p → q.st ≠ .error →
      s.lossless (s.priorityOf f) = true → (s.port p).used (s.priorityOf f) + f.length < 786432 → f.ce = false → s.power.mode = .active →
      exec (.rocePacketReceive p f) s = .next { s with
        ports := s.ports.put p { s.port p with rx := (s.port p).rx ++ [⟨s.priorityOf f, f.qp, f.length⟩] } }) ∧
    (∀ k q, s.qps.find k = some q → q.st ≠ .error →
      exec (.cnpReceive k) s = .next { s with
        qps := s.qps.put k { q with target := q.rate, rate := max (q.rate * 3 / 4) 100000000, rises := 0 } } ∧
      (q.rises < 5 → exec (.cnpRateTimer k) s = .next { s with
        qps := s.qps.put k { q with rises := q.rises + 1, rate := (q.rate + q.target) / 2 } }) ∧
      (5 ≤ q.rises → ∃ u : State, exec (.cnpRateTimer k) s = .next u ∧ u.qps.find k = some { q with
        rises := q.rises + 1, target := min (q.target + 5000000000) 800000000000,
        rate := (q.rate + min (q.target + 5000000000) 800000000000) / 2 } ∧ u = { s with qps := u.qps })) ∧
    (∀ f : RoceFrame, s.priorityOf f = if f.tags = 0 then s.profile.dscp.getD (f.dscp % 64) 0 else f.priority) ∧
    (∀ k n, s.lossless k = true → k ∉ (s.port p).pausedBy → exec (.pfcFrameReceive p k true n) s =
      .next (State.settle { s with ports := s.ports.put p { s.port p with pausedBy := (s.port p).pausedBy ++ [k] } }).resetIfDue) ∧
    (∀ k n b, s.lossless k = false → exec (.pfcFrameReceive p k b n) s = .next s)

/-- Connections and ports (R233, R234, R237, R254, R308). A host establishes a queue pair, of 4,096 at most, in the HELLO state at full
rate; a transport error puts one in error, its waiting packets gone and its session closed; a port that comes up sends its LLDPDU, and one
that goes down puts its queue pairs in error and forgets its neighbour (stated for queue pairs that carry no session). LLDP keeps one
neighbour a port. -/
def Obligations.connections_come_and_go : Prop :=
  ∀ (s : State) (p : Nat), s.fabric p = true →
    (∀ k, (s.port p).up = true → s.qps.find k = none → (s.qps.vals.filter (fun q => decide (q.st ≠ .error))).length < 4096 →
      s.power.mode = .active → exec (.cmConnect p k) s = .next { s with qps := s.qps.put k (newQp p), out := s.out ++ [.connected k p] }) ∧
    (∀ k q, (s.port p).up = true → s.qps.find k = some q → q.st ≠ .error → exec (.cmConnect p k) s = .next s) ∧
    (∀ k q, s.qps.find k = some q → (q.st = .hello ∨ q.st = .openState) →
      ∃ u : State, exec (.transportError k) s = .next u.settle.resetIfDue ∧ u.qps.find k = some { q with st := .error, inbox := [] } ∧
        (∀ m, m ≠ k → u.qps.find m = s.qps.find m) ∧ u = { s with qps := u.qps, ports := u.ports, out := u.out }) ∧
    (s.portsRun = true → (s.port p).up = false → s.ringPort p = false →
      exec (.fabricPortLinkUp p) s = .next { s with
        ports := s.ports.put p { s.port p with up := true },
        out := s.out ++ [.lldpdu p (State.ownLldpdu { s with ports := s.ports.put p { s.port p with up := true } } p)] }) ∧
    (∀ k q n ss, s.qps.find k = some q → q.st = .session n → s.sessions.find n = some ss → ss.qp = k →
      (∀ x ∈ s.requests, x.2.ticket.serial ≠ ss.serial) → (∀ x ∈ s.park, x.ticket.serial ≠ ss.serial) →
      (∀ x ∈ s.evals, x.2.ticket.serial ≠ ss.serial) →
      ∃ u : State, exec (.transportError k) s = .next u.settle.resetIfDue ∧ u.qps.find k = some { q with st := .error, inbox := [] } ∧
        u.sessions.find n = none ∧ (∀ m, m ≠ n → u.sessions.find m = s.sessions.find m) ∧
        u = { s with qps := u.qps, ports := u.ports, sessions := u.sessions, out := u.out }) ∧
    ((s.port p).up = true → (∀ x ∈ s.qps, x.2.port = p → ∀ n, x.2.st ≠ .session n) →
      ∃ u : State, exec (.fabricPortDown p) s = .next u.settle.resetIfDue ∧
        (∀ k q, s.qps.find k = some q → q.port = p → u.qps.find k = some { q with st := .error, inbox := [] }) ∧
        (∀ k, (∀ q, s.qps.find k = some q → q.port ≠ p) → u.qps.find k = s.qps.find k) ∧
        (u.port p).up = false ∧ (u.port p).neighbour = none ∧ (u.port p).rx = [] ∧
        u = { s with qps := u.qps, ports := u.ports, out := u.out }) ∧
    (∀ d, (s.port p).up = true → exec (.lldp p none d) s =
      .next { s with ports := s.ports.put p { s.port p with neighbour := some d } }) ∧
    ((s.port p).up = false → s.ringPort p = false → exec (.lldpTimer p) s = .next s)

/-- INBOUND_RDMA_ACCESS (R154 to R156). Within the window of a key, a write stands in memory at its address and nowhere else, and a read
is answered with what stands there; an access outside the window, or under a key no window has, is NAKed and its queue pair is in error,
memory unchanged. A message of more than 2^31 bytes is dropped and counted (R234), and a write to an input of an operation that has not
completed stops by name, for it is undefined (R47). -/
def Obligations.inbound_access_is_checked : Prop :=
  ∀ (s : State) (qp key a k lo len : Nat) (q : Qp) (c : Ctx), s.qps.find qp = some q → q.st ≠ .error → s.power.mode = .active →
    (s.port q.port).rx = [] → (s.port q.port).xoffSent = [] → (a < statusBase ∨ statusBase + statusSize ≤ a) →
    (∀ op, 2 ^ 31 < rdmaBytes op → exec (.inboundRdmaAccess qp key a op) s = .next ((s.drainQp qp).countError cEthDropped 1)) ∧
    ((s.inboundWindow q key = some (k, lo, len) → s.ctx k = some c → lo ≤ a →
      (∀ b : Bytes, b.length ≤ 2 ^ 31 → a + b.length ≤ lo + len → s.ownRange c a b.length true = true →
        s.spoilsInputs ((List.range b.length).map (a + ·)) = true → exec (.inboundRdmaAccess qp key a (.write b)) s = .fault .overlap) ∧
      (∀ b : Bytes, b.length ≤ 2 ^ 31 → a + b.length ≤ lo + len → s.ownRange c a b.length true = true → Memory.wf s.mem →
        s.spoilsInputs ((List.range b.length).map (a + ·)) = false →
        ∃ u : State, exec (.inboundRdmaAccess qp key a (.write b)) s = .next u ∧
          (∀ i, readByte u.mem i = if a ≤ i ∧ i < a + b.length then b.getD (i - a) 0 else readByte s.mem i) ∧
          u = { s with mem := u.mem, tiles := u.tiles, ports := u.ports }) ∧
      (∀ n, n ≤ 2 ^ 31 → a + n ≤ lo + len → s.ownRange c a n true = true →
        ∃ u : State, exec (.inboundRdmaAccess qp key a (.read n)) s = .next u ∧ u.out = s.out ++ [.rdmaReply qp (readBytes s.mem a n)] ∧
          u = { s with out := u.out, tiles := u.tiles, ports := u.ports }) ∧
      (∀ op, rdmaBytes op ≤ 2 ^ 31 → lo + len < a + rdmaBytes op → (q.st = .hello ∨ q.st = .openState) →
        ∃ u : State, exec (.inboundRdmaAccess qp key a op) s = .next u.settle ∧ u.out = s.out ++ [.nak qp .remoteAccess] ∧
          u.qps.find qp = some { q with st := .error, inbox := [] } ∧ u.mem = s.mem)) ∧
    (s.inboundWindow q key = none → (q.st = .hello ∨ q.st = .openState) → ∀ op, rdmaBytes op ≤ 2 ^ 31 →
      ∃ u : State, exec (.inboundRdmaAccess qp key a op) s = .next u.settle ∧ u.out = s.out ++ [.nak qp .remoteAccess] ∧
        u.qps.find qp = some { q with st := .error, inbox := [] } ∧ u.mem = s.mem))

/-! ## The base model, retirement and crossings (R216, R373, R375, R376, R380, R382, R437, R439) -/

/-- BASE_LOAD and its completion (R323, R324, R375, R376). With a context it is BUSY; beside no other load it begins one,
or is NOT_PERMITTED where its region is off a multiple of 65,536; beside one of the same digest
it joins, of another it is BUSY. Completed with the model asked for and room for it, every BASE_LOAD is answered and the expert table
begins; unreadable, or of another digest, no load is left. -/
def Obligations.base_model_is_loaded : Prop :=
  ∀ (s : State) (c : Cmd) (n : Nat) (ss : Session) (image : Region) (digest : Bytes) (placement : Option (List Nat))
      (range : Option (Nat × Nat)),
    (Clear s ss → Takes (specOf opBaseLoad) c n ss s →
      (s.ctxs ≠ [] → ∃ u : State, exec (.baseLoad c image digest placement range) s = .next u ∧
        SendsOnly (s.replyTo c opBaseLoad stBusy []) s u ∧ u = { s with out := u.out, sessions := u.sessions }) ∧
      (s.ctxs = [] → s.base.loading = none → image.aligned = false → ∃ u : State,
        exec (.baseLoad c image digest placement range) s = .next u ∧ SendsOnly (s.replyTo c opBaseLoad stNotPermitted []) s u ∧
          u = { s with out := u.out, sessions := u.sessions }) ∧
      (s.ctxs = [] → s.base.loading = none → image.aligned = true → s.ring.st = .out →
        exec (.baseLoad c image digest placement range) s = .next { s.awaiting c opBaseLoad n with
          out := s.out ++ [.hostRead image 0],
          base := { s.base with loading := some digest, tickets := [ticketOf c opBaseLoad n ss.serial], image := some image,
                                placement := placement, range := range } }) ∧
      (∀ d, s.ctxs = [] → s.base.loading = some d → d ≠ digest → ∃ u : State,
        exec (.baseLoad c image digest placement range) s = .next u ∧ SendsOnly (s.replyTo c opBaseLoad stBusy []) s u ∧
          u = { s with out := u.out, sessions := u.sessions }) ∧
      (s.ctxs = [] → s.base.loading = some digest → s.base.tickets ≠ [] →
        exec (.baseLoad c image digest placement range) s = .next { s.awaiting c opBaseLoad n with
          base := { s.base with tickets := s.base.tickets ++ [ticketOf c opBaseLoad n ss.serial] } })) ∧
    (∀ b pages ext, s.base.loading = some b.digest → s.base.tickets ≠ [] → s.placementOk b = true → s.fitBase b = some (pages, ext) →
      exec (.baseLoadComplete (.data b)) s = .next (s.placeBase b pages ext).settle ∧
      (s.placeBase b pages ext).base.shape = some b ∧ (s.placeBase b pages ext).base.loading = none ∧
      (s.placeBase b pages ext).base.pages = pages ∧ (s.placeBase b pages ext).hbmFree = s.hbmFree + s.base.pages - pages ∧
      (s.transport = false → (s.placeBase b pages ext).ring.experts = s.baseTable b)) ∧
    (∀ d r, s.base.loading = some d → s.base.tickets ≠ [] → (∀ b, r = .data b → b.digest ≠ d) →
      ∃ (u : State) (status : Nat), exec (.baseLoadComplete r) s = .next u.settle ∧ u = s.failBaseLoad status ∧
        ((∃ b, r = .data b) → status = stNotPermitted) ∧ (r = .error ∨ r = .stalled → status = stStreamStall)) ∧
    (∀ r, s.base.loading = none → exec (.baseLoadComplete r) s = .next s)

/-- RETIRE_TILE and CROSSING_TIMEOUT (R373, R380, R382, R437, R439). A tile above 255 is refused, and one of a quadrant without a spare
answered NO_SPARE, nothing changed; else the quadrant's spare takes the number, its memory reads zero and the tile is listed as retired,
and the answer counts the spares left. A crossing that stalls is recorded: out of a core domain its quadrant leaves service, out of the
vector engines' or another shared domain the module fails. A crossing with a domain that does not run is in hold. -/
def Obligations.tiles_retire_and_crossings_stall : Prop :=
  ∀ (s : State) (c : Cmd) (n : Nat) (ss : Session) (tile : Nat),
    (Clear s ss → Takes (specOf opRetireTile) c n ss s →
      (256 ≤ tile → ∃ u : State, exec (.retireTile c tile) s = .next u ∧ SendsOnly (s.replyTo c opRetireTile stNotPermitted []) s u ∧
        u = { s with out := u.out, sessions := u.sessions }) ∧
      (tile < 256 → s.spares.find (quadOf tile) = none → ∃ u : State, exec (.retireTile c tile) s = .next u ∧
        SendsOnly (s.replyTo c opRetireTile stNoSpare []) s u ∧ u = { s with out := u.out, sessions := u.sessions }) ∧
      (∀ i j, tile < 256 → s.spares.find (quadOf tile) = some i → s.phys.find tile = some j → s.ctxs = [] → s.streams = [] →
        ∃ u : State, exec (.retireTile c tile) s =
            .next (State.settle (u.answerWith (ticketOf c opRetireTile n ss.serial) stOk [p16 0x81 u.sparesLeft])) ∧
          u.phys.find tile = some i ∧ u.spares.find (quadOf tile) = none ∧ (quadOf tile, j) ∈ u.flash.retired ∧
          (u.tile tile).power = .idle ∧ (u.tile tile).queue = [] ∧
          (∀ a, readByte u.mem a = if tileAddr tile 0 ≤ a ∧ a < tileAddr tile 0 + tileBytes then 0 else readByte s.mem a) ∧
          (∀ k, k ≠ tile → u.phys.find k = s.phys.find k ∧ u.tile k = s.tile k))) ∧
    (∀ src dst, (s.domainRuns src = false ∨ s.domainRuns dst = false ∨ src = 0 ∨ src = dst) →
      exec (.crossingTimeout src dst) s = .next s) ∧
    (∀ src dst, s.domainRuns src = true → s.domainRuns dst = true → src ≠ 0 → src ≠ dst →
      (∀ q, domainQuad src = some q → exec (.crossingTimeout src dst) s = .next ((s.quadrantOut q).noteStall src dst 2).settle ∧
        ((s.quadrantOut q).quad q).outOfService = true) ∧
      (∀ p, domainQuad src = none → domainPort src = some p →
        exec (.crossingTimeout src dst) s = .next ((s.dropPort p).noteStall src dst 3).resetIfDue) ∧
      (domainQuad src = none → domainPort src = none → domainOptics src = none → src ≠ 59 →
        ∃ u : State, exec (.crossingTimeout src dst) s = .next u ∧ u.power.mode = .failed ∧ u.sessions = [] ∧
          (∃ f ∈ u.flash.faults, f.kind = fkCdcStall ∧ f.detail0 = src ∧ f.detail1 = dst)))
end

