-- ==== Sys2Proof/Laws/State.lean ====
section
/-! SUPPORT. What each named update of the state leaves as it was, and what it writes: one lemma per field. -/

namespace Sys2Proof.Machine

variable (s : State)

/-! ## setCtx -/

@[simp] theorem State.setCtx_pending (n : Nat) (c : Ctx) : (s.setCtx n c).pending = s.pending := rfl
@[simp] theorem State.setCtx_out (n : Nat) (c : Ctx) : (s.setCtx n c).out = s.out := rfl
@[simp] theorem State.setCtx_freeCount (n : Nat) (c : Ctx) : (s.setCtx n c).freeCount = s.freeCount := rfl
@[simp] theorem State.setCtx_mem (n : Nat) (c : Ctx) : (s.setCtx n c).mem = s.mem := rfl
@[simp] theorem State.setCtx_fuses (n : Nat) (c : Ctx) : (s.setCtx n c).fuses = s.fuses := rfl
@[simp] theorem State.setCtx_flash (n : Nat) (c : Ctx) : (s.setCtx n c).flash = s.flash := rfl
@[simp] theorem State.setCtx_board (n : Nat) (c : Ctx) : (s.setCtx n c).board = s.board := rfl
@[simp] theorem State.setCtx_power (n : Nat) (c : Ctx) : (s.setCtx n c).power = s.power := rfl
@[simp] theorem State.setCtx_profile (n : Nat) (c : Ctx) : (s.setCtx n c).profile = s.profile := rfl
@[simp] theorem State.setCtx_profileNo (n : Nat) (c : Ctx) : (s.setCtx n c).profileNo = s.profileNo := rfl
@[simp] theorem State.setCtx_selected (n : Nat) (c : Ctx) : (s.setCtx n c).selected = s.selected := rfl
@[simp] theorem State.setCtx_fw (n : Nat) (c : Ctx) : (s.setCtx n c).fw = s.fw := rfl
@[simp] theorem State.setCtx_base (n : Nat) (c : Ctx) : (s.setCtx n c).base = s.base := rfl
@[simp] theorem State.setCtx_drbgRequests (n : Nat) (c : Ctx) : (s.setCtx n c).drbgRequests = s.drbgRequests := rfl
@[simp] theorem State.setCtx_drbgSeedAt (n : Nat) (c : Ctx) : (s.setCtx n c).drbgSeedAt = s.drbgSeedAt := rfl
@[simp] theorem State.setCtx_qps (n : Nat) (c : Ctx) : (s.setCtx n c).qps = s.qps := rfl
@[simp] theorem State.setCtx_sessions (n : Nat) (c : Ctx) : (s.setCtx n c).sessions = s.sessions := rfl
@[simp] theorem State.setCtx_intakeRounds (n : Nat) (c : Ctx) : (s.setCtx n c).intakeRounds = s.intakeRounds := rfl
@[simp] theorem State.setCtx_roundSubmits (n : Nat) (c : Ctx) : (s.setCtx n c).roundSubmits = s.roundSubmits := rfl
@[simp] theorem State.setCtx_counters (n : Nat) (c : Ctx) : (s.setCtx n c).counters = s.counters := rfl
@[simp] theorem State.setCtx_ctxs (n : Nat) (c : Ctx) : (s.setCtx n c).ctxs = s.ctxs.put n c := rfl
@[simp] theorem State.setCtx_createCounts (n : Nat) (c : Ctx) : (s.setCtx n c).createCounts = s.createCounts := rfl
@[simp] theorem State.setCtx_vars (n : Nat) (c : Ctx) : (s.setCtx n c).vars = s.vars := rfl
@[simp] theorem State.setCtx_park (n : Nat) (c : Ctx) : (s.setCtx n c).park = s.park := rfl
@[simp] theorem State.setCtx_reclaimFull (n : Nat) (c : Ctx) : (s.setCtx n c).reclaimFull = s.reclaimFull := rfl
@[simp] theorem State.setCtx_pinWaits (n : Nat) (c : Ctx) : (s.setCtx n c).pinWaits = s.pinWaits := rfl
@[simp] theorem State.setCtx_spaceWaits (n : Nat) (c : Ctx) : (s.setCtx n c).spaceWaits = s.spaceWaits := rfl
@[simp] theorem State.setCtx_steps (n : Nat) (c : Ctx) : (s.setCtx n c).steps = s.steps := rfl
@[simp] theorem State.setCtx_evals (n : Nat) (c : Ctx) : (s.setCtx n c).evals = s.evals := rfl
@[simp] theorem State.setCtx_requests (n : Nat) (c : Ctx) : (s.setCtx n c).requests = s.requests := rfl
@[simp] theorem State.setCtx_replays (n : Nat) (c : Ctx) : (s.setCtx n c).replays = s.replays := rfl
@[simp] theorem State.setCtx_nextId (n : Nat) (c : Ctx) : (s.setCtx n c).nextId = s.nextId := rfl
@[simp] theorem State.setCtx_tiles (n : Nat) (c : Ctx) : (s.setCtx n c).tiles = s.tiles := rfl
@[simp] theorem State.setCtx_phys (n : Nat) (c : Ctx) : (s.setCtx n c).phys = s.phys := rfl
@[simp] theorem State.setCtx_spares (n : Nat) (c : Ctx) : (s.setCtx n c).spares = s.spares := rfl
@[simp] theorem State.setCtx_streams (n : Nat) (c : Ctx) : (s.setCtx n c).streams = s.streams := rfl
@[simp] theorem State.setCtx_stalls (n : Nat) (c : Ctx) : (s.setCtx n c).stalls = s.stalls := rfl
@[simp] theorem State.setCtx_hbmFree (n : Nat) (c : Ctx) : (s.setCtx n c).hbmFree = s.hbmFree := rfl
@[simp] theorem State.setCtx_hbmRetired (n : Nat) (c : Ctx) : (s.setCtx n c).hbmRetired = s.hbmRetired := rfl
@[simp] theorem State.setCtx_ports (n : Nat) (c : Ctx) : (s.setCtx n c).ports = s.ports := rfl
@[simp] theorem State.setCtx_links (n : Nat) (c : Ctx) : (s.setCtx n c).links = s.links := rfl
@[simp] theorem State.setCtx_ring (n : Nat) (c : Ctx) : (s.setCtx n c).ring = s.ring := rfl
@[simp] theorem State.setCtx_bundles (n : Nat) (c : Ctx) : (s.setCtx n c).bundles = s.bundles := rfl
@[simp] theorem State.setCtx_homeStash (n : Nat) (c : Ctx) : (s.setCtx n c).homeStash = s.homeStash := rfl

/-! ## modCtx -/

@[simp] theorem State.modCtx_pending (n : Nat) (f : Ctx → Ctx) : (s.modCtx n f).pending = s.pending := rfl
@[simp] theorem State.modCtx_out (n : Nat) (f : Ctx → Ctx) : (s.modCtx n f).out = s.out := rfl
@[simp] theorem State.modCtx_freeCount (n : Nat) (f : Ctx → Ctx) : (s.modCtx n f).freeCount = s.freeCount := rfl
@[simp] theorem State.modCtx_mem (n : Nat) (f : Ctx → Ctx) : (s.modCtx n f).mem = s.mem := rfl
@[simp] theorem State.modCtx_fuses (n : Nat) (f : Ctx → Ctx) : (s.modCtx n f).fuses = s.fuses := rfl
@[simp] theorem State.modCtx_flash (n : Nat) (f : Ctx → Ctx) : (s.modCtx n f).flash = s.flash := rfl
@[simp] theorem State.modCtx_board (n : Nat) (f : Ctx → Ctx) : (s.modCtx n f).board = s.board := rfl
@[simp] theorem State.modCtx_power (n : Nat) (f : Ctx → Ctx) : (s.modCtx n f).power = s.power := rfl
@[simp] theorem State.modCtx_profile (n : Nat) (f : Ctx → Ctx) : (s.modCtx n f).profile = s.profile := rfl
@[simp] theorem State.modCtx_profileNo (n : Nat) (f : Ctx → Ctx) : (s.modCtx n f).profileNo = s.profileNo := rfl
@[simp] theorem State.modCtx_selected (n : Nat) (f : Ctx → Ctx) : (s.modCtx n f).selected = s.selected := rfl
@[simp] theorem State.modCtx_fw (n : Nat) (f : Ctx → Ctx) : (s.modCtx n f).fw = s.fw := rfl
@[simp] theorem State.modCtx_base (n : Nat) (f : Ctx → Ctx) : (s.modCtx n f).base = s.base := rfl
@[simp] theorem State.modCtx_drbgRequests (n : Nat) (f : Ctx → Ctx) : (s.modCtx n f).drbgRequests = s.drbgRequests := rfl
@[simp] theorem State.modCtx_drbgSeedAt (n : Nat) (f : Ctx → Ctx) : (s.modCtx n f).drbgSeedAt = s.drbgSeedAt := rfl
@[simp] theorem State.modCtx_qps (n : Nat) (f : Ctx → Ctx) : (s.modCtx n f).qps = s.qps := rfl
@[simp] theorem State.modCtx_sessions (n : Nat) (f : Ctx → Ctx) : (s.modCtx n f).sessions = s.sessions := rfl
@[simp] theorem State.modCtx_intakeRounds (n : Nat) (f : Ctx → Ctx) : (s.modCtx n f).intakeRounds = s.intakeRounds := rfl
@[simp] theorem State.modCtx_roundSubmits (n : Nat) (f : Ctx → Ctx) : (s.modCtx n f).roundSubmits = s.roundSubmits := rfl
@[simp] theorem State.modCtx_counters (n : Nat) (f : Ctx → Ctx) : (s.modCtx n f).counters = s.counters := rfl
@[simp] theorem State.modCtx_ctxs (n : Nat) (f : Ctx → Ctx) : (s.modCtx n f).ctxs = s.ctxs.modify n f := rfl
@[simp] theorem State.modCtx_createCounts (n : Nat) (f : Ctx → Ctx) : (s.modCtx n f).createCounts = s.createCounts := rfl
@[simp] theorem State.modCtx_vars (n : Nat) (f : Ctx → Ctx) : (s.modCtx n f).vars = s.vars := rfl
@[simp] theorem State.modCtx_park (n : Nat) (f : Ctx → Ctx) : (s.modCtx n f).park = s.park := rfl
@[simp] theorem State.modCtx_reclaimFull (n : Nat) (f : Ctx → Ctx) : (s.modCtx n f).reclaimFull = s.reclaimFull := rfl
@[simp] theorem State.modCtx_pinWaits (n : Nat) (f : Ctx → Ctx) : (s.modCtx n f).pinWaits = s.pinWaits := rfl
@[simp] theorem State.modCtx_spaceWaits (n : Nat) (f : Ctx → Ctx) : (s.modCtx n f).spaceWaits = s.spaceWaits := rfl
@[simp] theorem State.modCtx_steps (n : Nat) (f : Ctx → Ctx) : (s.modCtx n f).steps = s.steps := rfl
@[simp] theorem State.modCtx_evals (n : Nat) (f : Ctx → Ctx) : (s.modCtx n f).evals = s.evals := rfl
@[simp] theorem State.modCtx_requests (n : Nat) (f : Ctx → Ctx) : (s.modCtx n f).requests = s.requests := rfl
@[simp] theorem State.modCtx_replays (n : Nat) (f : Ctx → Ctx) : (s.modCtx n f).replays = s.replays := rfl
@[simp] theorem State.modCtx_nextId (n : Nat) (f : Ctx → Ctx) : (s.modCtx n f).nextId = s.nextId := rfl
@[simp] theorem State.modCtx_tiles (n : Nat) (f : Ctx → Ctx) : (s.modCtx n f).tiles = s.tiles := rfl
@[simp] theorem State.modCtx_phys (n : Nat) (f : Ctx → Ctx) : (s.modCtx n f).phys = s.phys := rfl
@[simp] theorem State.modCtx_spares (n : Nat) (f : Ctx → Ctx) : (s.modCtx n f).spares = s.spares := rfl
@[simp] theorem State.modCtx_streams (n : Nat) (f : Ctx → Ctx) : (s.modCtx n f).streams = s.streams := rfl
@[simp] theorem State.modCtx_stalls (n : Nat) (f : Ctx → Ctx) : (s.modCtx n f).stalls = s.stalls := rfl
@[simp] theorem State.modCtx_hbmFree (n : Nat) (f : Ctx → Ctx) : (s.modCtx n f).hbmFree = s.hbmFree := rfl
@[simp] theorem State.modCtx_hbmRetired (n : Nat) (f : Ctx → Ctx) : (s.modCtx n f).hbmRetired = s.hbmRetired := rfl
@[simp] theorem State.modCtx_ports (n : Nat) (f : Ctx → Ctx) : (s.modCtx n f).ports = s.ports := rfl
@[simp] theorem State.modCtx_links (n : Nat) (f : Ctx → Ctx) : (s.modCtx n f).links = s.links := rfl
@[simp] theorem State.modCtx_ring (n : Nat) (f : Ctx → Ctx) : (s.modCtx n f).ring = s.ring := rfl
@[simp] theorem State.modCtx_bundles (n : Nat) (f : Ctx → Ctx) : (s.modCtx n f).bundles = s.bundles := rfl
@[simp] theorem State.modCtx_homeStash (n : Nat) (f : Ctx → Ctx) : (s.modCtx n f).homeStash = s.homeStash := rfl

/-! ## setVar -/

@[simp] theorem State.setVar_pending (n : Nat) (v : Var) : (s.setVar n v).pending = s.pending := rfl
@[simp] theorem State.setVar_out (n : Nat) (v : Var) : (s.setVar n v).out = s.out := rfl
@[simp] theorem State.setVar_freeCount (n : Nat) (v : Var) : (s.setVar n v).freeCount = s.freeCount := rfl
@[simp] theorem State.setVar_mem (n : Nat) (v : Var) : (s.setVar n v).mem = s.mem := rfl
@[simp] theorem State.setVar_fuses (n : Nat) (v : Var) : (s.setVar n v).fuses = s.fuses := rfl
@[simp] theorem State.setVar_flash (n : Nat) (v : Var) : (s.setVar n v).flash = s.flash := rfl
@[simp] theorem State.setVar_board (n : Nat) (v : Var) : (s.setVar n v).board = s.board := rfl
@[simp] theorem State.setVar_power (n : Nat) (v : Var) : (s.setVar n v).power = s.power := rfl
@[simp] theorem State.setVar_profile (n : Nat) (v : Var) : (s.setVar n v).profile = s.profile := rfl
@[simp] theorem State.setVar_profileNo (n : Nat) (v : Var) : (s.setVar n v).profileNo = s.profileNo := rfl
@[simp] theorem State.setVar_selected (n : Nat) (v : Var) : (s.setVar n v).selected = s.selected := rfl
@[simp] theorem State.setVar_fw (n : Nat) (v : Var) : (s.setVar n v).fw = s.fw := rfl
@[simp] theorem State.setVar_base (n : Nat) (v : Var) : (s.setVar n v).base = s.base := rfl
@[simp] theorem State.setVar_drbgRequests (n : Nat) (v : Var) : (s.setVar n v).drbgRequests = s.drbgRequests := rfl
@[simp] theorem State.setVar_drbgSeedAt (n : Nat) (v : Var) : (s.setVar n v).drbgSeedAt = s.drbgSeedAt := rfl
@[simp] theorem State.setVar_qps (n : Nat) (v : Var) : (s.setVar n v).qps = s.qps := rfl
@[simp] theorem State.setVar_sessions (n : Nat) (v : Var) : (s.setVar n v).sessions = s.sessions := rfl
@[simp] theorem State.setVar_intakeRounds (n : Nat) (v : Var) : (s.setVar n v).intakeRounds = s.intakeRounds := rfl
@[simp] theorem State.setVar_roundSubmits (n : Nat) (v : Var) : (s.setVar n v).roundSubmits = s.roundSubmits := rfl
@[simp] theorem State.setVar_counters (n : Nat) (v : Var) : (s.setVar n v).counters = s.counters := rfl
@[simp] theorem State.setVar_ctxs (n : Nat) (v : Var) : (s.setVar n v).ctxs = s.ctxs := rfl
@[simp] theorem State.setVar_createCounts (n : Nat) (v : Var) : (s.setVar n v).createCounts = s.createCounts := rfl
@[simp] theorem State.setVar_vars (n : Nat) (v : Var) : (s.setVar n v).vars = s.vars.put n v := rfl
@[simp] theorem State.setVar_park (n : Nat) (v : Var) : (s.setVar n v).park = s.park := rfl
@[simp] theorem State.setVar_reclaimFull (n : Nat) (v : Var) : (s.setVar n v).reclaimFull = s.reclaimFull := rfl
@[simp] theorem State.setVar_pinWaits (n : Nat) (v : Var) : (s.setVar n v).pinWaits = s.pinWaits := rfl
@[simp] theorem State.setVar_spaceWaits (n : Nat) (v : Var) : (s.setVar n v).spaceWaits = s.spaceWaits := rfl
@[simp] theorem State.setVar_steps (n : Nat) (v : Var) : (s.setVar n v).steps = s.steps := rfl
@[simp] theorem State.setVar_evals (n : Nat) (v : Var) : (s.setVar n v).evals = s.evals := rfl
@[simp] theorem State.setVar_requests (n : Nat) (v : Var) : (s.setVar n v).requests = s.requests := rfl
@[simp] theorem State.setVar_replays (n : Nat) (v : Var) : (s.setVar n v).replays = s.replays := rfl
@[simp] theorem State.setVar_nextId (n : Nat) (v : Var) : (s.setVar n v).nextId = s.nextId := rfl
@[simp] theorem State.setVar_tiles (n : Nat) (v : Var) : (s.setVar n v).tiles = s.tiles := rfl
@[simp] theorem State.setVar_phys (n : Nat) (v : Var) : (s.setVar n v).phys = s.phys := rfl
@[simp] theorem State.setVar_spares (n : Nat) (v : Var) : (s.setVar n v).spares = s.spares := rfl
@[simp] theorem State.setVar_streams (n : Nat) (v : Var) : (s.setVar n v).streams = s.streams := rfl
@[simp] theorem State.setVar_stalls (n : Nat) (v : Var) : (s.setVar n v).stalls = s.stalls := rfl
@[simp] theorem State.setVar_hbmFree (n : Nat) (v : Var) : (s.setVar n v).hbmFree = s.hbmFree := rfl
@[simp] theorem State.setVar_hbmRetired (n : Nat) (v : Var) : (s.setVar n v).hbmRetired = s.hbmRetired := rfl
@[simp] theorem State.setVar_ports (n : Nat) (v : Var) : (s.setVar n v).ports = s.ports := rfl
@[simp] theorem State.setVar_links (n : Nat) (v : Var) : (s.setVar n v).links = s.links := rfl
@[simp] theorem State.setVar_ring (n : Nat) (v : Var) : (s.setVar n v).ring = s.ring := rfl
@[simp] theorem State.setVar_bundles (n : Nat) (v : Var) : (s.setVar n v).bundles = s.bundles := rfl
@[simp] theorem State.setVar_homeStash (n : Nat) (v : Var) : (s.setVar n v).homeStash = s.homeStash := rfl

/-! ## modVar -/

@[simp] theorem State.modVar_pending (n : Nat) (f : Var → Var) : (s.modVar n f).pending = s.pending := rfl
@[simp] theorem State.modVar_out (n : Nat) (f : Var → Var) : (s.modVar n f).out = s.out := rfl
@[simp] theorem State.modVar_freeCount (n : Nat) (f : Var → Var) : (s.modVar n f).freeCount = s.freeCount := rfl
@[simp] theorem State.modVar_mem (n : Nat) (f : Var → Var) : (s.modVar n f).mem = s.mem := rfl
@[simp] theorem State.modVar_fuses (n : Nat) (f : Var → Var) : (s.modVar n f).fuses = s.fuses := rfl
@[simp] theorem State.modVar_flash (n : Nat) (f : Var → Var) : (s.modVar n f).flash = s.flash := rfl
@[simp] theorem State.modVar_board (n : Nat) (f : Var → Var) : (s.modVar n f).board = s.board := rfl
@[simp] theorem State.modVar_power (n : Nat) (f : Var → Var) : (s.modVar n f).power = s.power := rfl
@[simp] theorem State.modVar_profile (n : Nat) (f : Var → Var) : (s.modVar n f).profile = s.profile := rfl
@[simp] theorem State.modVar_profileNo (n : Nat) (f : Var → Var) : (s.modVar n f).profileNo = s.profileNo := rfl
@[simp] theorem State.modVar_selected (n : Nat) (f : Var → Var) : (s.modVar n f).selected = s.selected := rfl
@[simp] theorem State.modVar_fw (n : Nat) (f : Var → Var) : (s.modVar n f).fw = s.fw := rfl
@[simp] theorem State.modVar_base (n : Nat) (f : Var → Var) : (s.modVar n f).base = s.base := rfl
@[simp] theorem State.modVar_drbgRequests (n : Nat) (f : Var → Var) : (s.modVar n f).drbgRequests = s.drbgRequests := rfl
@[simp] theorem State.modVar_drbgSeedAt (n : Nat) (f : Var → Var) : (s.modVar n f).drbgSeedAt = s.drbgSeedAt := rfl
@[simp] theorem State.modVar_qps (n : Nat) (f : Var → Var) : (s.modVar n f).qps = s.qps := rfl
@[simp] theorem State.modVar_sessions (n : Nat) (f : Var → Var) : (s.modVar n f).sessions = s.sessions := rfl
@[simp] theorem State.modVar_intakeRounds (n : Nat) (f : Var → Var) : (s.modVar n f).intakeRounds = s.intakeRounds := rfl
@[simp] theorem State.modVar_roundSubmits (n : Nat) (f : Var → Var) : (s.modVar n f).roundSubmits = s.roundSubmits := rfl
@[simp] theorem State.modVar_counters (n : Nat) (f : Var → Var) : (s.modVar n f).counters = s.counters := rfl
@[simp] theorem State.modVar_ctxs (n : Nat) (f : Var → Var) : (s.modVar n f).ctxs = s.ctxs := rfl
@[simp] theorem State.modVar_createCounts (n : Nat) (f : Var → Var) : (s.modVar n f).createCounts = s.createCounts := rfl
@[simp] theorem State.modVar_vars (n : Nat) (f : Var → Var) : (s.modVar n f).vars = s.vars.modify n f := rfl
@[simp] theorem State.modVar_park (n : Nat) (f : Var → Var) : (s.modVar n f).park = s.park := rfl
@[simp] theorem State.modVar_reclaimFull (n : Nat) (f : Var → Var) : (s.modVar n f).reclaimFull = s.reclaimFull := rfl
@[simp] theorem State.modVar_pinWaits (n : Nat) (f : Var → Var) : (s.modVar n f).pinWaits = s.pinWaits := rfl
@[simp] theorem State.modVar_spaceWaits (n : Nat) (f : Var → Var) : (s.modVar n f).spaceWaits = s.spaceWaits := rfl
@[simp] theorem State.modVar_steps (n : Nat) (f : Var → Var) : (s.modVar n f).steps = s.steps := rfl
@[simp] theorem State.modVar_evals (n : Nat) (f : Var → Var) : (s.modVar n f).evals = s.evals := rfl
@[simp] theorem State.modVar_requests (n : Nat) (f : Var → Var) : (s.modVar n f).requests = s.requests := rfl
@[simp] theorem State.modVar_replays (n : Nat) (f : Var → Var) : (s.modVar n f).replays = s.replays := rfl
@[simp] theorem State.modVar_nextId (n : Nat) (f : Var → Var) : (s.modVar n f).nextId = s.nextId := rfl
@[simp] theorem State.modVar_tiles (n : Nat) (f : Var → Var) : (s.modVar n f).tiles = s.tiles := rfl
@[simp] theorem State.modVar_phys (n : Nat) (f : Var → Var) : (s.modVar n f).phys = s.phys := rfl
@[simp] theorem State.modVar_spares (n : Nat) (f : Var → Var) : (s.modVar n f).spares = s.spares := rfl
@[simp] theorem State.modVar_streams (n : Nat) (f : Var → Var) : (s.modVar n f).streams = s.streams := rfl
@[simp] theorem State.modVar_stalls (n : Nat) (f : Var → Var) : (s.modVar n f).stalls = s.stalls := rfl
@[simp] theorem State.modVar_hbmFree (n : Nat) (f : Var → Var) : (s.modVar n f).hbmFree = s.hbmFree := rfl
@[simp] theorem State.modVar_hbmRetired (n : Nat) (f : Var → Var) : (s.modVar n f).hbmRetired = s.hbmRetired := rfl
@[simp] theorem State.modVar_ports (n : Nat) (f : Var → Var) : (s.modVar n f).ports = s.ports := rfl
@[simp] theorem State.modVar_links (n : Nat) (f : Var → Var) : (s.modVar n f).links = s.links := rfl
@[simp] theorem State.modVar_ring (n : Nat) (f : Var → Var) : (s.modVar n f).ring = s.ring := rfl
@[simp] theorem State.modVar_bundles (n : Nat) (f : Var → Var) : (s.modVar n f).bundles = s.bundles := rfl
@[simp] theorem State.modVar_homeStash (n : Nat) (f : Var → Var) : (s.modVar n f).homeStash = s.homeStash := rfl

/-! ## modTile -/

@[simp] theorem State.modTile_pending (n : Nat) (f : Tile → Tile) : (s.modTile n f).pending = s.pending := rfl
@[simp] theorem State.modTile_out (n : Nat) (f : Tile → Tile) : (s.modTile n f).out = s.out := rfl
@[simp] theorem State.modTile_freeCount (n : Nat) (f : Tile → Tile) : (s.modTile n f).freeCount = s.freeCount := rfl
@[simp] theorem State.modTile_mem (n : Nat) (f : Tile → Tile) : (s.modTile n f).mem = s.mem := rfl
@[simp] theorem State.modTile_fuses (n : Nat) (f : Tile → Tile) : (s.modTile n f).fuses = s.fuses := rfl
@[simp] theorem State.modTile_flash (n : Nat) (f : Tile → Tile) : (s.modTile n f).flash = s.flash := rfl
@[simp] theorem State.modTile_board (n : Nat) (f : Tile → Tile) : (s.modTile n f).board = s.board := rfl
@[simp] theorem State.modTile_power (n : Nat) (f : Tile → Tile) : (s.modTile n f).power = s.power := rfl
@[simp] theorem State.modTile_profile (n : Nat) (f : Tile → Tile) : (s.modTile n f).profile = s.profile := rfl
@[simp] theorem State.modTile_profileNo (n : Nat) (f : Tile → Tile) : (s.modTile n f).profileNo = s.profileNo := rfl
@[simp] theorem State.modTile_selected (n : Nat) (f : Tile → Tile) : (s.modTile n f).selected = s.selected := rfl
@[simp] theorem State.modTile_fw (n : Nat) (f : Tile → Tile) : (s.modTile n f).fw = s.fw := rfl
@[simp] theorem State.modTile_base (n : Nat) (f : Tile → Tile) : (s.modTile n f).base = s.base := rfl
@[simp] theorem State.modTile_drbgRequests (n : Nat) (f : Tile → Tile) : (s.modTile n f).drbgRequests = s.drbgRequests := rfl
@[simp] theorem State.modTile_drbgSeedAt (n : Nat) (f : Tile → Tile) : (s.modTile n f).drbgSeedAt = s.drbgSeedAt := rfl
@[simp] theorem State.modTile_qps (n : Nat) (f : Tile → Tile) : (s.modTile n f).qps = s.qps := rfl
@[simp] theorem State.modTile_sessions (n : Nat) (f : Tile → Tile) : (s.modTile n f).sessions = s.sessions := rfl
@[simp] theorem State.modTile_intakeRounds (n : Nat) (f : Tile → Tile) : (s.modTile n f).intakeRounds = s.intakeRounds := rfl
@[simp] theorem State.modTile_roundSubmits (n : Nat) (f : Tile → Tile) : (s.modTile n f).roundSubmits = s.roundSubmits := rfl
@[simp] theorem State.modTile_counters (n : Nat) (f : Tile → Tile) : (s.modTile n f).counters = s.counters := rfl
@[simp] theorem State.modTile_ctxs (n : Nat) (f : Tile → Tile) : (s.modTile n f).ctxs = s.ctxs := rfl
@[simp] theorem State.modTile_createCounts (n : Nat) (f : Tile → Tile) : (s.modTile n f).createCounts = s.createCounts := rfl
@[simp] theorem State.modTile_vars (n : Nat) (f : Tile → Tile) : (s.modTile n f).vars = s.vars := rfl
@[simp] theorem State.modTile_park (n : Nat) (f : Tile → Tile) : (s.modTile n f).park = s.park := rfl
@[simp] theorem State.modTile_reclaimFull (n : Nat) (f : Tile → Tile) : (s.modTile n f).reclaimFull = s.reclaimFull := rfl
@[simp] theorem State.modTile_pinWaits (n : Nat) (f : Tile → Tile) : (s.modTile n f).pinWaits = s.pinWaits := rfl
@[simp] theorem State.modTile_spaceWaits (n : Nat) (f : Tile → Tile) : (s.modTile n f).spaceWaits = s.spaceWaits := rfl
@[simp] theorem State.modTile_steps (n : Nat) (f : Tile → Tile) : (s.modTile n f).steps = s.steps := rfl
@[simp] theorem State.modTile_evals (n : Nat) (f : Tile → Tile) : (s.modTile n f).evals = s.evals := rfl
@[simp] theorem State.modTile_requests (n : Nat) (f : Tile → Tile) : (s.modTile n f).requests = s.requests := rfl
@[simp] theorem State.modTile_replays (n : Nat) (f : Tile → Tile) : (s.modTile n f).replays = s.replays := rfl
@[simp] theorem State.modTile_nextId (n : Nat) (f : Tile → Tile) : (s.modTile n f).nextId = s.nextId := rfl
@[simp] theorem State.modTile_tiles (n : Nat) (f : Tile → Tile) : (s.modTile n f).tiles = s.tiles.put n (f (s.tile n)) := rfl
@[simp] theorem State.modTile_phys (n : Nat) (f : Tile → Tile) : (s.modTile n f).phys = s.phys := rfl
@[simp] theorem State.modTile_spares (n : Nat) (f : Tile → Tile) : (s.modTile n f).spares = s.spares := rfl
@[simp] theorem State.modTile_streams (n : Nat) (f : Tile → Tile) : (s.modTile n f).streams = s.streams := rfl
@[simp] theorem State.modTile_stalls (n : Nat) (f : Tile → Tile) : (s.modTile n f).stalls = s.stalls := rfl
@[simp] theorem State.modTile_hbmFree (n : Nat) (f : Tile → Tile) : (s.modTile n f).hbmFree = s.hbmFree := rfl
@[simp] theorem State.modTile_hbmRetired (n : Nat) (f : Tile → Tile) : (s.modTile n f).hbmRetired = s.hbmRetired := rfl
@[simp] theorem State.modTile_ports (n : Nat) (f : Tile → Tile) : (s.modTile n f).ports = s.ports := rfl
@[simp] theorem State.modTile_links (n : Nat) (f : Tile → Tile) : (s.modTile n f).links = s.links := rfl
@[simp] theorem State.modTile_ring (n : Nat) (f : Tile → Tile) : (s.modTile n f).ring = s.ring := rfl
@[simp] theorem State.modTile_bundles (n : Nat) (f : Tile → Tile) : (s.modTile n f).bundles = s.bundles := rfl
@[simp] theorem State.modTile_homeStash (n : Nat) (f : Tile → Tile) : (s.modTile n f).homeStash = s.homeStash := rfl

/-! ## modPort -/

@[simp] theorem State.modPort_pending (n : Nat) (f : Port → Port) : (s.modPort n f).pending = s.pending := rfl
@[simp] theorem State.modPort_out (n : Nat) (f : Port → Port) : (s.modPort n f).out = s.out := rfl
@[simp] theorem State.modPort_freeCount (n : Nat) (f : Port → Port) : (s.modPort n f).freeCount = s.freeCount := rfl
@[simp] theorem State.modPort_mem (n : Nat) (f : Port → Port) : (s.modPort n f).mem = s.mem := rfl
@[simp] theorem State.modPort_fuses (n : Nat) (f : Port → Port) : (s.modPort n f).fuses = s.fuses := rfl
@[simp] theorem State.modPort_flash (n : Nat) (f : Port → Port) : (s.modPort n f).flash = s.flash := rfl
@[simp] theorem State.modPort_board (n : Nat) (f : Port → Port) : (s.modPort n f).board = s.board := rfl
@[simp] theorem State.modPort_power (n : Nat) (f : Port → Port) : (s.modPort n f).power = s.power := rfl
@[simp] theorem State.modPort_profile (n : Nat) (f : Port → Port) : (s.modPort n f).profile = s.profile := rfl
@[simp] theorem State.modPort_profileNo (n : Nat) (f : Port → Port) : (s.modPort n f).profileNo = s.profileNo := rfl
@[simp] theorem State.modPort_selected (n : Nat) (f : Port → Port) : (s.modPort n f).selected = s.selected := rfl
@[simp] theorem State.modPort_fw (n : Nat) (f : Port → Port) : (s.modPort n f).fw = s.fw := rfl
@[simp] theorem State.modPort_base (n : Nat) (f : Port → Port) : (s.modPort n f).base = s.base := rfl
@[simp] theorem State.modPort_drbgRequests (n : Nat) (f : Port → Port) : (s.modPort n f).drbgRequests = s.drbgRequests := rfl
@[simp] theorem State.modPort_drbgSeedAt (n : Nat) (f : Port → Port) : (s.modPort n f).drbgSeedAt = s.drbgSeedAt := rfl
@[simp] theorem State.modPort_qps (n : Nat) (f : Port → Port) : (s.modPort n f).qps = s.qps := rfl
@[simp] theorem State.modPort_sessions (n : Nat) (f : Port → Port) : (s.modPort n f).sessions = s.sessions := rfl
@[simp] theorem State.modPort_intakeRounds (n : Nat) (f : Port → Port) : (s.modPort n f).intakeRounds = s.intakeRounds := rfl
@[simp] theorem State.modPort_roundSubmits (n : Nat) (f : Port → Port) : (s.modPort n f).roundSubmits = s.roundSubmits := rfl
@[simp] theorem State.modPort_counters (n : Nat) (f : Port → Port) : (s.modPort n f).counters = s.counters := rfl
@[simp] theorem State.modPort_ctxs (n : Nat) (f : Port → Port) : (s.modPort n f).ctxs = s.ctxs := rfl
@[simp] theorem State.modPort_createCounts (n : Nat) (f : Port → Port) : (s.modPort n f).createCounts = s.createCounts := rfl
@[simp] theorem State.modPort_vars (n : Nat) (f : Port → Port) : (s.modPort n f).vars = s.vars := rfl
@[simp] theorem State.modPort_park (n : Nat) (f : Port → Port) : (s.modPort n f).park = s.park := rfl
@[simp] theorem State.modPort_reclaimFull (n : Nat) (f : Port → Port) : (s.modPort n f).reclaimFull = s.reclaimFull := rfl
@[simp] theorem State.modPort_pinWaits (n : Nat) (f : Port → Port) : (s.modPort n f).pinWaits = s.pinWaits := rfl
@[simp] theorem State.modPort_spaceWaits (n : Nat) (f : Port → Port) : (s.modPort n f).spaceWaits = s.spaceWaits := rfl
@[simp] theorem State.modPort_steps (n : Nat) (f : Port → Port) : (s.modPort n f).steps = s.steps := rfl
@[simp] theorem State.modPort_evals (n : Nat) (f : Port → Port) : (s.modPort n f).evals = s.evals := rfl
@[simp] theorem State.modPort_requests (n : Nat) (f : Port → Port) : (s.modPort n f).requests = s.requests := rfl
@[simp] theorem State.modPort_replays (n : Nat) (f : Port → Port) : (s.modPort n f).replays = s.replays := rfl
@[simp] theorem State.modPort_nextId (n : Nat) (f : Port → Port) : (s.modPort n f).nextId = s.nextId := rfl
@[simp] theorem State.modPort_tiles (n : Nat) (f : Port → Port) : (s.modPort n f).tiles = s.tiles := rfl
@[simp] theorem State.modPort_phys (n : Nat) (f : Port → Port) : (s.modPort n f).phys = s.phys := rfl
@[simp] theorem State.modPort_spares (n : Nat) (f : Port → Port) : (s.modPort n f).spares = s.spares := rfl
@[simp] theorem State.modPort_streams (n : Nat) (f : Port → Port) : (s.modPort n f).streams = s.streams := rfl
@[simp] theorem State.modPort_stalls (n : Nat) (f : Port → Port) : (s.modPort n f).stalls = s.stalls := rfl
@[simp] theorem State.modPort_hbmFree (n : Nat) (f : Port → Port) : (s.modPort n f).hbmFree = s.hbmFree := rfl
@[simp] theorem State.modPort_hbmRetired (n : Nat) (f : Port → Port) : (s.modPort n f).hbmRetired = s.hbmRetired := rfl
@[simp] theorem State.modPort_ports (n : Nat) (f : Port → Port) : (s.modPort n f).ports = s.ports.put n (f (s.port n)) := rfl
@[simp] theorem State.modPort_links (n : Nat) (f : Port → Port) : (s.modPort n f).links = s.links := rfl
@[simp] theorem State.modPort_ring (n : Nat) (f : Port → Port) : (s.modPort n f).ring = s.ring := rfl
@[simp] theorem State.modPort_bundles (n : Nat) (f : Port → Port) : (s.modPort n f).bundles = s.bundles := rfl
@[simp] theorem State.modPort_homeStash (n : Nat) (f : Port → Port) : (s.modPort n f).homeStash = s.homeStash := rfl

/-! ## modLink -/

@[simp] theorem State.modLink_pending (n : Nat) (f : Link → Link) : (s.modLink n f).pending = s.pending := rfl
@[simp] theorem State.modLink_out (n : Nat) (f : Link → Link) : (s.modLink n f).out = s.out := rfl
@[simp] theorem State.modLink_freeCount (n : Nat) (f : Link → Link) : (s.modLink n f).freeCount = s.freeCount := rfl
@[simp] theorem State.modLink_mem (n : Nat) (f : Link → Link) : (s.modLink n f).mem = s.mem := rfl
@[simp] theorem State.modLink_fuses (n : Nat) (f : Link → Link) : (s.modLink n f).fuses = s.fuses := rfl
@[simp] theorem State.modLink_flash (n : Nat) (f : Link → Link) : (s.modLink n f).flash = s.flash := rfl
@[simp] theorem State.modLink_board (n : Nat) (f : Link → Link) : (s.modLink n f).board = s.board := rfl
@[simp] theorem State.modLink_power (n : Nat) (f : Link → Link) : (s.modLink n f).power = s.power := rfl
@[simp] theorem State.modLink_profile (n : Nat) (f : Link → Link) : (s.modLink n f).profile = s.profile := rfl
@[simp] theorem State.modLink_profileNo (n : Nat) (f : Link → Link) : (s.modLink n f).profileNo = s.profileNo := rfl
@[simp] theorem State.modLink_selected (n : Nat) (f : Link → Link) : (s.modLink n f).selected = s.selected := rfl
@[simp] theorem State.modLink_fw (n : Nat) (f : Link → Link) : (s.modLink n f).fw = s.fw := rfl
@[simp] theorem State.modLink_base (n : Nat) (f : Link → Link) : (s.modLink n f).base = s.base := rfl
@[simp] theorem State.modLink_drbgRequests (n : Nat) (f : Link → Link) : (s.modLink n f).drbgRequests = s.drbgRequests := rfl
@[simp] theorem State.modLink_drbgSeedAt (n : Nat) (f : Link → Link) : (s.modLink n f).drbgSeedAt = s.drbgSeedAt := rfl
@[simp] theorem State.modLink_qps (n : Nat) (f : Link → Link) : (s.modLink n f).qps = s.qps := rfl
@[simp] theorem State.modLink_sessions (n : Nat) (f : Link → Link) : (s.modLink n f).sessions = s.sessions := rfl
@[simp] theorem State.modLink_intakeRounds (n : Nat) (f : Link → Link) : (s.modLink n f).intakeRounds = s.intakeRounds := rfl
@[simp] theorem State.modLink_roundSubmits (n : Nat) (f : Link → Link) : (s.modLink n f).roundSubmits = s.roundSubmits := rfl
@[simp] theorem State.modLink_counters (n : Nat) (f : Link → Link) : (s.modLink n f).counters = s.counters := rfl
@[simp] theorem State.modLink_ctxs (n : Nat) (f : Link → Link) : (s.modLink n f).ctxs = s.ctxs := rfl
@[simp] theorem State.modLink_createCounts (n : Nat) (f : Link → Link) : (s.modLink n f).createCounts = s.createCounts := rfl
@[simp] theorem State.modLink_vars (n : Nat) (f : Link → Link) : (s.modLink n f).vars = s.vars := rfl
@[simp] theorem State.modLink_park (n : Nat) (f : Link → Link) : (s.modLink n f).park = s.park := rfl
@[simp] theorem State.modLink_reclaimFull (n : Nat) (f : Link → Link) : (s.modLink n f).reclaimFull = s.reclaimFull := rfl
@[simp] theorem State.modLink_pinWaits (n : Nat) (f : Link → Link) : (s.modLink n f).pinWaits = s.pinWaits := rfl
@[simp] theorem State.modLink_spaceWaits (n : Nat) (f : Link → Link) : (s.modLink n f).spaceWaits = s.spaceWaits := rfl
@[simp] theorem State.modLink_steps (n : Nat) (f : Link → Link) : (s.modLink n f).steps = s.steps := rfl
@[simp] theorem State.modLink_evals (n : Nat) (f : Link → Link) : (s.modLink n f).evals = s.evals := rfl
@[simp] theorem State.modLink_requests (n : Nat) (f : Link → Link) : (s.modLink n f).requests = s.requests := rfl
@[simp] theorem State.modLink_replays (n : Nat) (f : Link → Link) : (s.modLink n f).replays = s.replays := rfl
@[simp] theorem State.modLink_nextId (n : Nat) (f : Link → Link) : (s.modLink n f).nextId = s.nextId := rfl
@[simp] theorem State.modLink_tiles (n : Nat) (f : Link → Link) : (s.modLink n f).tiles = s.tiles := rfl
@[simp] theorem State.modLink_phys (n : Nat) (f : Link → Link) : (s.modLink n f).phys = s.phys := rfl
@[simp] theorem State.modLink_spares (n : Nat) (f : Link → Link) : (s.modLink n f).spares = s.spares := rfl
@[simp] theorem State.modLink_streams (n : Nat) (f : Link → Link) : (s.modLink n f).streams = s.streams := rfl
@[simp] theorem State.modLink_stalls (n : Nat) (f : Link → Link) : (s.modLink n f).stalls = s.stalls := rfl
@[simp] theorem State.modLink_hbmFree (n : Nat) (f : Link → Link) : (s.modLink n f).hbmFree = s.hbmFree := rfl
@[simp] theorem State.modLink_hbmRetired (n : Nat) (f : Link → Link) : (s.modLink n f).hbmRetired = s.hbmRetired := rfl
@[simp] theorem State.modLink_ports (n : Nat) (f : Link → Link) : (s.modLink n f).ports = s.ports := rfl
@[simp] theorem State.modLink_links (n : Nat) (f : Link → Link) : (s.modLink n f).links = s.links.put n (f (s.link n)) := rfl
@[simp] theorem State.modLink_ring (n : Nat) (f : Link → Link) : (s.modLink n f).ring = s.ring := rfl
@[simp] theorem State.modLink_bundles (n : Nat) (f : Link → Link) : (s.modLink n f).bundles = s.bundles := rfl
@[simp] theorem State.modLink_homeStash (n : Nat) (f : Link → Link) : (s.modLink n f).homeStash = s.homeStash := rfl

/-! ## modStrm -/

@[simp] theorem State.modStrm_pending (n : Nat) (f : Strm → Strm) : (s.modStrm n f).pending = s.pending := rfl
@[simp] theorem State.modStrm_out (n : Nat) (f : Strm → Strm) : (s.modStrm n f).out = s.out := rfl
@[simp] theorem State.modStrm_freeCount (n : Nat) (f : Strm → Strm) : (s.modStrm n f).freeCount = s.freeCount := rfl
@[simp] theorem State.modStrm_mem (n : Nat) (f : Strm → Strm) : (s.modStrm n f).mem = s.mem := rfl
@[simp] theorem State.modStrm_fuses (n : Nat) (f : Strm → Strm) : (s.modStrm n f).fuses = s.fuses := rfl
@[simp] theorem State.modStrm_flash (n : Nat) (f : Strm → Strm) : (s.modStrm n f).flash = s.flash := rfl
@[simp] theorem State.modStrm_board (n : Nat) (f : Strm → Strm) : (s.modStrm n f).board = s.board := rfl
@[simp] theorem State.modStrm_power (n : Nat) (f : Strm → Strm) : (s.modStrm n f).power = s.power := rfl
@[simp] theorem State.modStrm_profile (n : Nat) (f : Strm → Strm) : (s.modStrm n f).profile = s.profile := rfl
@[simp] theorem State.modStrm_profileNo (n : Nat) (f : Strm → Strm) : (s.modStrm n f).profileNo = s.profileNo := rfl
@[simp] theorem State.modStrm_selected (n : Nat) (f : Strm → Strm) : (s.modStrm n f).selected = s.selected := rfl
@[simp] theorem State.modStrm_fw (n : Nat) (f : Strm → Strm) : (s.modStrm n f).fw = s.fw := rfl
@[simp] theorem State.modStrm_base (n : Nat) (f : Strm → Strm) : (s.modStrm n f).base = s.base := rfl
@[simp] theorem State.modStrm_drbgRequests (n : Nat) (f : Strm → Strm) : (s.modStrm n f).drbgRequests = s.drbgRequests := rfl
@[simp] theorem State.modStrm_drbgSeedAt (n : Nat) (f : Strm → Strm) : (s.modStrm n f).drbgSeedAt = s.drbgSeedAt := rfl
@[simp] theorem State.modStrm_qps (n : Nat) (f : Strm → Strm) : (s.modStrm n f).qps = s.qps := rfl
@[simp] theorem State.modStrm_sessions (n : Nat) (f : Strm → Strm) : (s.modStrm n f).sessions = s.sessions := rfl
@[simp] theorem State.modStrm_intakeRounds (n : Nat) (f : Strm → Strm) : (s.modStrm n f).intakeRounds = s.intakeRounds := rfl
@[simp] theorem State.modStrm_roundSubmits (n : Nat) (f : Strm → Strm) : (s.modStrm n f).roundSubmits = s.roundSubmits := rfl
@[simp] theorem State.modStrm_counters (n : Nat) (f : Strm → Strm) : (s.modStrm n f).counters = s.counters := rfl
@[simp] theorem State.modStrm_ctxs (n : Nat) (f : Strm → Strm) : (s.modStrm n f).ctxs = s.ctxs := rfl
@[simp] theorem State.modStrm_createCounts (n : Nat) (f : Strm → Strm) : (s.modStrm n f).createCounts = s.createCounts := rfl
@[simp] theorem State.modStrm_vars (n : Nat) (f : Strm → Strm) : (s.modStrm n f).vars = s.vars := rfl
@[simp] theorem State.modStrm_park (n : Nat) (f : Strm → Strm) : (s.modStrm n f).park = s.park := rfl
@[simp] theorem State.modStrm_reclaimFull (n : Nat) (f : Strm → Strm) : (s.modStrm n f).reclaimFull = s.reclaimFull := rfl
@[simp] theorem State.modStrm_pinWaits (n : Nat) (f : Strm → Strm) : (s.modStrm n f).pinWaits = s.pinWaits := rfl
@[simp] theorem State.modStrm_spaceWaits (n : Nat) (f : Strm → Strm) : (s.modStrm n f).spaceWaits = s.spaceWaits := rfl
@[simp] theorem State.modStrm_steps (n : Nat) (f : Strm → Strm) : (s.modStrm n f).steps = s.steps := rfl
@[simp] theorem State.modStrm_evals (n : Nat) (f : Strm → Strm) : (s.modStrm n f).evals = s.evals := rfl
@[simp] theorem State.modStrm_requests (n : Nat) (f : Strm → Strm) : (s.modStrm n f).requests = s.requests := rfl
@[simp] theorem State.modStrm_replays (n : Nat) (f : Strm → Strm) : (s.modStrm n f).replays = s.replays := rfl
@[simp] theorem State.modStrm_nextId (n : Nat) (f : Strm → Strm) : (s.modStrm n f).nextId = s.nextId := rfl
@[simp] theorem State.modStrm_tiles (n : Nat) (f : Strm → Strm) : (s.modStrm n f).tiles = s.tiles := rfl
@[simp] theorem State.modStrm_phys (n : Nat) (f : Strm → Strm) : (s.modStrm n f).phys = s.phys := rfl
@[simp] theorem State.modStrm_spares (n : Nat) (f : Strm → Strm) : (s.modStrm n f).spares = s.spares := rfl
@[simp] theorem State.modStrm_streams (n : Nat) (f : Strm → Strm) : (s.modStrm n f).streams = s.streams.modify n f := rfl
@[simp] theorem State.modStrm_stalls (n : Nat) (f : Strm → Strm) : (s.modStrm n f).stalls = s.stalls := rfl
@[simp] theorem State.modStrm_hbmFree (n : Nat) (f : Strm → Strm) : (s.modStrm n f).hbmFree = s.hbmFree := rfl
@[simp] theorem State.modStrm_hbmRetired (n : Nat) (f : Strm → Strm) : (s.modStrm n f).hbmRetired = s.hbmRetired := rfl
@[simp] theorem State.modStrm_ports (n : Nat) (f : Strm → Strm) : (s.modStrm n f).ports = s.ports := rfl
@[simp] theorem State.modStrm_links (n : Nat) (f : Strm → Strm) : (s.modStrm n f).links = s.links := rfl
@[simp] theorem State.modStrm_ring (n : Nat) (f : Strm → Strm) : (s.modStrm n f).ring = s.ring := rfl
@[simp] theorem State.modStrm_bundles (n : Nat) (f : Strm → Strm) : (s.modStrm n f).bundles = s.bundles := rfl
@[simp] theorem State.modStrm_homeStash (n : Nat) (f : Strm → Strm) : (s.modStrm n f).homeStash = s.homeStash := rfl

/-! ## modSession -/

@[simp] theorem State.modSession_pending (n : Nat) (f : Session → Session) : (s.modSession n f).pending = s.pending := rfl
@[simp] theorem State.modSession_out (n : Nat) (f : Session → Session) : (s.modSession n f).out = s.out := rfl
@[simp] theorem State.modSession_freeCount (n : Nat) (f : Session → Session) : (s.modSession n f).freeCount = s.freeCount := rfl
@[simp] theorem State.modSession_mem (n : Nat) (f : Session → Session) : (s.modSession n f).mem = s.mem := rfl
@[simp] theorem State.modSession_fuses (n : Nat) (f : Session → Session) : (s.modSession n f).fuses = s.fuses := rfl
@[simp] theorem State.modSession_flash (n : Nat) (f : Session → Session) : (s.modSession n f).flash = s.flash := rfl
@[simp] theorem State.modSession_board (n : Nat) (f : Session → Session) : (s.modSession n f).board = s.board := rfl
@[simp] theorem State.modSession_power (n : Nat) (f : Session → Session) : (s.modSession n f).power = s.power := rfl
@[simp] theorem State.modSession_profile (n : Nat) (f : Session → Session) : (s.modSession n f).profile = s.profile := rfl
@[simp] theorem State.modSession_profileNo (n : Nat) (f : Session → Session) : (s.modSession n f).profileNo = s.profileNo := rfl
@[simp] theorem State.modSession_selected (n : Nat) (f : Session → Session) : (s.modSession n f).selected = s.selected := rfl
@[simp] theorem State.modSession_fw (n : Nat) (f : Session → Session) : (s.modSession n f).fw = s.fw := rfl
@[simp] theorem State.modSession_base (n : Nat) (f : Session → Session) : (s.modSession n f).base = s.base := rfl
@[simp] theorem State.modSession_drbgRequests (n : Nat) (f : Session → Session) : (s.modSession n f).drbgRequests = s.drbgRequests := rfl
@[simp] theorem State.modSession_drbgSeedAt (n : Nat) (f : Session → Session) : (s.modSession n f).drbgSeedAt = s.drbgSeedAt := rfl
@[simp] theorem State.modSession_qps (n : Nat) (f : Session → Session) : (s.modSession n f).qps = s.qps := rfl
@[simp] theorem State.modSession_sessions (n : Nat) (f : Session → Session) : (s.modSession n f).sessions = s.sessions.modify n f := rfl
@[simp] theorem State.modSession_intakeRounds (n : Nat) (f : Session → Session) : (s.modSession n f).intakeRounds = s.intakeRounds := rfl
@[simp] theorem State.modSession_roundSubmits (n : Nat) (f : Session → Session) : (s.modSession n f).roundSubmits = s.roundSubmits := rfl
@[simp] theorem State.modSession_counters (n : Nat) (f : Session → Session) : (s.modSession n f).counters = s.counters := rfl
@[simp] theorem State.modSession_ctxs (n : Nat) (f : Session → Session) : (s.modSession n f).ctxs = s.ctxs := rfl
@[simp] theorem State.modSession_createCounts (n : Nat) (f : Session → Session) : (s.modSession n f).createCounts = s.createCounts := rfl
@[simp] theorem State.modSession_vars (n : Nat) (f : Session → Session) : (s.modSession n f).vars = s.vars := rfl
@[simp] theorem State.modSession_park (n : Nat) (f : Session → Session) : (s.modSession n f).park = s.park := rfl
@[simp] theorem State.modSession_reclaimFull (n : Nat) (f : Session → Session) : (s.modSession n f).reclaimFull = s.reclaimFull := rfl
@[simp] theorem State.modSession_pinWaits (n : Nat) (f : Session → Session) : (s.modSession n f).pinWaits = s.pinWaits := rfl
@[simp] theorem State.modSession_spaceWaits (n : Nat) (f : Session → Session) : (s.modSession n f).spaceWaits = s.spaceWaits := rfl
@[simp] theorem State.modSession_steps (n : Nat) (f : Session → Session) : (s.modSession n f).steps = s.steps := rfl
@[simp] theorem State.modSession_evals (n : Nat) (f : Session → Session) : (s.modSession n f).evals = s.evals := rfl
@[simp] theorem State.modSession_requests (n : Nat) (f : Session → Session) : (s.modSession n f).requests = s.requests := rfl
@[simp] theorem State.modSession_replays (n : Nat) (f : Session → Session) : (s.modSession n f).replays = s.replays := rfl
@[simp] theorem State.modSession_nextId (n : Nat) (f : Session → Session) : (s.modSession n f).nextId = s.nextId := rfl
@[simp] theorem State.modSession_tiles (n : Nat) (f : Session → Session) : (s.modSession n f).tiles = s.tiles := rfl
@[simp] theorem State.modSession_phys (n : Nat) (f : Session → Session) : (s.modSession n f).phys = s.phys := rfl
@[simp] theorem State.modSession_spares (n : Nat) (f : Session → Session) : (s.modSession n f).spares = s.spares := rfl
@[simp] theorem State.modSession_streams (n : Nat) (f : Session → Session) : (s.modSession n f).streams = s.streams := rfl
@[simp] theorem State.modSession_stalls (n : Nat) (f : Session → Session) : (s.modSession n f).stalls = s.stalls := rfl
@[simp] theorem State.modSession_hbmFree (n : Nat) (f : Session → Session) : (s.modSession n f).hbmFree = s.hbmFree := rfl
@[simp] theorem State.modSession_hbmRetired (n : Nat) (f : Session → Session) : (s.modSession n f).hbmRetired = s.hbmRetired := rfl
@[simp] theorem State.modSession_ports (n : Nat) (f : Session → Session) : (s.modSession n f).ports = s.ports := rfl
@[simp] theorem State.modSession_links (n : Nat) (f : Session → Session) : (s.modSession n f).links = s.links := rfl
@[simp] theorem State.modSession_ring (n : Nat) (f : Session → Session) : (s.modSession n f).ring = s.ring := rfl
@[simp] theorem State.modSession_bundles (n : Nat) (f : Session → Session) : (s.modSession n f).bundles = s.bundles := rfl
@[simp] theorem State.modSession_homeStash (n : Nat) (f : Session → Session) : (s.modSession n f).homeStash = s.homeStash := rfl

/-! ## modQp -/

@[simp] theorem State.modQp_pending (n : Nat) (f : Qp → Qp) : (s.modQp n f).pending = s.pending := rfl
@[simp] theorem State.modQp_out (n : Nat) (f : Qp → Qp) : (s.modQp n f).out = s.out := rfl
@[simp] theorem State.modQp_freeCount (n : Nat) (f : Qp → Qp) : (s.modQp n f).freeCount = s.freeCount := rfl
@[simp] theorem State.modQp_mem (n : Nat) (f : Qp → Qp) : (s.modQp n f).mem = s.mem := rfl
@[simp] theorem State.modQp_fuses (n : Nat) (f : Qp → Qp) : (s.modQp n f).fuses = s.fuses := rfl
@[simp] theorem State.modQp_flash (n : Nat) (f : Qp → Qp) : (s.modQp n f).flash = s.flash := rfl
@[simp] theorem State.modQp_board (n : Nat) (f : Qp → Qp) : (s.modQp n f).board = s.board := rfl
@[simp] theorem State.modQp_power (n : Nat) (f : Qp → Qp) : (s.modQp n f).power = s.power := rfl
@[simp] theorem State.modQp_profile (n : Nat) (f : Qp → Qp) : (s.modQp n f).profile = s.profile := rfl
@[simp] theorem State.modQp_profileNo (n : Nat) (f : Qp → Qp) : (s.modQp n f).profileNo = s.profileNo := rfl
@[simp] theorem State.modQp_selected (n : Nat) (f : Qp → Qp) : (s.modQp n f).selected = s.selected := rfl
@[simp] theorem State.modQp_fw (n : Nat) (f : Qp → Qp) : (s.modQp n f).fw = s.fw := rfl
@[simp] theorem State.modQp_base (n : Nat) (f : Qp → Qp) : (s.modQp n f).base = s.base := rfl
@[simp] theorem State.modQp_drbgRequests (n : Nat) (f : Qp → Qp) : (s.modQp n f).drbgRequests = s.drbgRequests := rfl
@[simp] theorem State.modQp_drbgSeedAt (n : Nat) (f : Qp → Qp) : (s.modQp n f).drbgSeedAt = s.drbgSeedAt := rfl
@[simp] theorem State.modQp_qps (n : Nat) (f : Qp → Qp) : (s.modQp n f).qps = s.qps.modify n f := rfl
@[simp] theorem State.modQp_sessions (n : Nat) (f : Qp → Qp) : (s.modQp n f).sessions = s.sessions := rfl
@[simp] theorem State.modQp_intakeRounds (n : Nat) (f : Qp → Qp) : (s.modQp n f).intakeRounds = s.intakeRounds := rfl
@[simp] theorem State.modQp_roundSubmits (n : Nat) (f : Qp → Qp) : (s.modQp n f).roundSubmits = s.roundSubmits := rfl
@[simp] theorem State.modQp_counters (n : Nat) (f : Qp → Qp) : (s.modQp n f).counters = s.counters := rfl
@[simp] theorem State.modQp_ctxs (n : Nat) (f : Qp → Qp) : (s.modQp n f).ctxs = s.ctxs := rfl
@[simp] theorem State.modQp_createCounts (n : Nat) (f : Qp → Qp) : (s.modQp n f).createCounts = s.createCounts := rfl
@[simp] theorem State.modQp_vars (n : Nat) (f : Qp → Qp) : (s.modQp n f).vars = s.vars := rfl
@[simp] theorem State.modQp_park (n : Nat) (f : Qp → Qp) : (s.modQp n f).park = s.park := rfl
@[simp] theorem State.modQp_reclaimFull (n : Nat) (f : Qp → Qp) : (s.modQp n f).reclaimFull = s.reclaimFull := rfl
@[simp] theorem State.modQp_pinWaits (n : Nat) (f : Qp → Qp) : (s.modQp n f).pinWaits = s.pinWaits := rfl
@[simp] theorem State.modQp_spaceWaits (n : Nat) (f : Qp → Qp) : (s.modQp n f).spaceWaits = s.spaceWaits := rfl
@[simp] theorem State.modQp_steps (n : Nat) (f : Qp → Qp) : (s.modQp n f).steps = s.steps := rfl
@[simp] theorem State.modQp_evals (n : Nat) (f : Qp → Qp) : (s.modQp n f).evals = s.evals := rfl
@[simp] theorem State.modQp_requests (n : Nat) (f : Qp → Qp) : (s.modQp n f).requests = s.requests := rfl
@[simp] theorem State.modQp_replays (n : Nat) (f : Qp → Qp) : (s.modQp n f).replays = s.replays := rfl
@[simp] theorem State.modQp_nextId (n : Nat) (f : Qp → Qp) : (s.modQp n f).nextId = s.nextId := rfl
@[simp] theorem State.modQp_tiles (n : Nat) (f : Qp → Qp) : (s.modQp n f).tiles = s.tiles := rfl
@[simp] theorem State.modQp_phys (n : Nat) (f : Qp → Qp) : (s.modQp n f).phys = s.phys := rfl
@[simp] theorem State.modQp_spares (n : Nat) (f : Qp → Qp) : (s.modQp n f).spares = s.spares := rfl
@[simp] theorem State.modQp_streams (n : Nat) (f : Qp → Qp) : (s.modQp n f).streams = s.streams := rfl
@[simp] theorem State.modQp_stalls (n : Nat) (f : Qp → Qp) : (s.modQp n f).stalls = s.stalls := rfl
@[simp] theorem State.modQp_hbmFree (n : Nat) (f : Qp → Qp) : (s.modQp n f).hbmFree = s.hbmFree := rfl
@[simp] theorem State.modQp_hbmRetired (n : Nat) (f : Qp → Qp) : (s.modQp n f).hbmRetired = s.hbmRetired := rfl
@[simp] theorem State.modQp_ports (n : Nat) (f : Qp → Qp) : (s.modQp n f).ports = s.ports := rfl
@[simp] theorem State.modQp_links (n : Nat) (f : Qp → Qp) : (s.modQp n f).links = s.links := rfl
@[simp] theorem State.modQp_ring (n : Nat) (f : Qp → Qp) : (s.modQp n f).ring = s.ring := rfl
@[simp] theorem State.modQp_bundles (n : Nat) (f : Qp → Qp) : (s.modQp n f).bundles = s.bundles := rfl
@[simp] theorem State.modQp_homeStash (n : Nat) (f : Qp → Qp) : (s.modQp n f).homeStash = s.homeStash := rfl

/-! ## modRing -/

@[simp] theorem State.modRing_pending (f : Ring → Ring) : (s.modRing f).pending = s.pending := rfl
@[simp] theorem State.modRing_out (f : Ring → Ring) : (s.modRing f).out = s.out := rfl
@[simp] theorem State.modRing_freeCount (f : Ring → Ring) : (s.modRing f).freeCount = s.freeCount := rfl
@[simp] theorem State.modRing_mem (f : Ring → Ring) : (s.modRing f).mem = s.mem := rfl
@[simp] theorem State.modRing_fuses (f : Ring → Ring) : (s.modRing f).fuses = s.fuses := rfl
@[simp] theorem State.modRing_flash (f : Ring → Ring) : (s.modRing f).flash = s.flash := rfl
@[simp] theorem State.modRing_board (f : Ring → Ring) : (s.modRing f).board = s.board := rfl
@[simp] theorem State.modRing_power (f : Ring → Ring) : (s.modRing f).power = s.power := rfl
@[simp] theorem State.modRing_profile (f : Ring → Ring) : (s.modRing f).profile = s.profile := rfl
@[simp] theorem State.modRing_profileNo (f : Ring → Ring) : (s.modRing f).profileNo = s.profileNo := rfl
@[simp] theorem State.modRing_selected (f : Ring → Ring) : (s.modRing f).selected = s.selected := rfl
@[simp] theorem State.modRing_fw (f : Ring → Ring) : (s.modRing f).fw = s.fw := rfl
@[simp] theorem State.modRing_base (f : Ring → Ring) : (s.modRing f).base = s.base := rfl
@[simp] theorem State.modRing_drbgRequests (f : Ring → Ring) : (s.modRing f).drbgRequests = s.drbgRequests := rfl
@[simp] theorem State.modRing_drbgSeedAt (f : Ring → Ring) : (s.modRing f).drbgSeedAt = s.drbgSeedAt := rfl
@[simp] theorem State.modRing_qps (f : Ring → Ring) : (s.modRing f).qps = s.qps := rfl
@[simp] theorem State.modRing_sessions (f : Ring → Ring) : (s.modRing f).sessions = s.sessions := rfl
@[simp] theorem State.modRing_intakeRounds (f : Ring → Ring) : (s.modRing f).intakeRounds = s.intakeRounds := rfl
@[simp] theorem State.modRing_roundSubmits (f : Ring → Ring) : (s.modRing f).roundSubmits = s.roundSubmits := rfl
@[simp] theorem State.modRing_counters (f : Ring → Ring) : (s.modRing f).counters = s.counters := rfl
@[simp] theorem State.modRing_ctxs (f : Ring → Ring) : (s.modRing f).ctxs = s.ctxs := rfl
@[simp] theorem State.modRing_createCounts (f : Ring → Ring) : (s.modRing f).createCounts = s.createCounts := rfl
@[simp] theorem State.modRing_vars (f : Ring → Ring) : (s.modRing f).vars = s.vars := rfl
@[simp] theorem State.modRing_park (f : Ring → Ring) : (s.modRing f).park = s.park := rfl
@[simp] theorem State.modRing_reclaimFull (f : Ring → Ring) : (s.modRing f).reclaimFull = s.reclaimFull := rfl
@[simp] theorem State.modRing_pinWaits (f : Ring → Ring) : (s.modRing f).pinWaits = s.pinWaits := rfl
@[simp] theorem State.modRing_spaceWaits (f : Ring → Ring) : (s.modRing f).spaceWaits = s.spaceWaits := rfl
@[simp] theorem State.modRing_steps (f : Ring → Ring) : (s.modRing f).steps = s.steps := rfl
@[simp] theorem State.modRing_evals (f : Ring → Ring) : (s.modRing f).evals = s.evals := rfl
@[simp] theorem State.modRing_requests (f : Ring → Ring) : (s.modRing f).requests = s.requests := rfl
@[simp] theorem State.modRing_replays (f : Ring → Ring) : (s.modRing f).replays = s.replays := rfl
@[simp] theorem State.modRing_nextId (f : Ring → Ring) : (s.modRing f).nextId = s.nextId := rfl
@[simp] theorem State.modRing_tiles (f : Ring → Ring) : (s.modRing f).tiles = s.tiles := rfl
@[simp] theorem State.modRing_phys (f : Ring → Ring) : (s.modRing f).phys = s.phys := rfl
@[simp] theorem State.modRing_spares (f : Ring → Ring) : (s.modRing f).spares = s.spares := rfl
@[simp] theorem State.modRing_streams (f : Ring → Ring) : (s.modRing f).streams = s.streams := rfl
@[simp] theorem State.modRing_stalls (f : Ring → Ring) : (s.modRing f).stalls = s.stalls := rfl
@[simp] theorem State.modRing_hbmFree (f : Ring → Ring) : (s.modRing f).hbmFree = s.hbmFree := rfl
@[simp] theorem State.modRing_hbmRetired (f : Ring → Ring) : (s.modRing f).hbmRetired = s.hbmRetired := rfl
@[simp] theorem State.modRing_ports (f : Ring → Ring) : (s.modRing f).ports = s.ports := rfl
@[simp] theorem State.modRing_links (f : Ring → Ring) : (s.modRing f).links = s.links := rfl
@[simp] theorem State.modRing_ring (f : Ring → Ring) : (s.modRing f).ring = f s.ring := rfl
@[simp] theorem State.modRing_bundles (f : Ring → Ring) : (s.modRing f).bundles = s.bundles := rfl
@[simp] theorem State.modRing_homeStash (f : Ring → Ring) : (s.modRing f).homeStash = s.homeStash := rfl

/-! ## modPower -/

@[simp] theorem State.modPower_pending (f : Power → Power) : (s.modPower f).pending = s.pending := rfl
@[simp] theorem State.modPower_out (f : Power → Power) : (s.modPower f).out = s.out := rfl
@[simp] theorem State.modPower_freeCount (f : Power → Power) : (s.modPower f).freeCount = s.freeCount := rfl
@[simp] theorem State.modPower_mem (f : Power → Power) : (s.modPower f).mem = s.mem := rfl
@[simp] theorem State.modPower_fuses (f : Power → Power) : (s.modPower f).fuses = s.fuses := rfl
@[simp] theorem State.modPower_flash (f : Power → Power) : (s.modPower f).flash = s.flash := rfl
@[simp] theorem State.modPower_board (f : Power → Power) : (s.modPower f).board = s.board := rfl
@[simp] theorem State.modPower_power (f : Power → Power) : (s.modPower f).power = f s.power := rfl
@[simp] theorem State.modPower_profile (f : Power → Power) : (s.modPower f).profile = s.profile := rfl
@[simp] theorem State.modPower_profileNo (f : Power → Power) : (s.modPower f).profileNo = s.profileNo := rfl
@[simp] theorem State.modPower_selected (f : Power → Power) : (s.modPower f).selected = s.selected := rfl
@[simp] theorem State.modPower_fw (f : Power → Power) : (s.modPower f).fw = s.fw := rfl
@[simp] theorem State.modPower_base (f : Power → Power) : (s.modPower f).base = s.base := rfl
@[simp] theorem State.modPower_drbgRequests (f : Power → Power) : (s.modPower f).drbgRequests = s.drbgRequests := rfl
@[simp] theorem State.modPower_drbgSeedAt (f : Power → Power) : (s.modPower f).drbgSeedAt = s.drbgSeedAt := rfl
@[simp] theorem State.modPower_qps (f : Power → Power) : (s.modPower f).qps = s.qps := rfl
@[simp] theorem State.modPower_sessions (f : Power → Power) : (s.modPower f).sessions = s.sessions := rfl
@[simp] theorem State.modPower_intakeRounds (f : Power → Power) : (s.modPower f).intakeRounds = s.intakeRounds := rfl
@[simp] theorem State.modPower_roundSubmits (f : Power → Power) : (s.modPower f).roundSubmits = s.roundSubmits := rfl
@[simp] theorem State.modPower_counters (f : Power → Power) : (s.modPower f).counters = s.counters := rfl
@[simp] theorem State.modPower_ctxs (f : Power → Power) : (s.modPower f).ctxs = s.ctxs := rfl
@[simp] theorem State.modPower_createCounts (f : Power → Power) : (s.modPower f).createCounts = s.createCounts := rfl
@[simp] theorem State.modPower_vars (f : Power → Power) : (s.modPower f).vars = s.vars := rfl
@[simp] theorem State.modPower_park (f : Power → Power) : (s.modPower f).park = s.park := rfl
@[simp] theorem State.modPower_reclaimFull (f : Power → Power) : (s.modPower f).reclaimFull = s.reclaimFull := rfl
@[simp] theorem State.modPower_pinWaits (f : Power → Power) : (s.modPower f).pinWaits = s.pinWaits := rfl
@[simp] theorem State.modPower_spaceWaits (f : Power → Power) : (s.modPower f).spaceWaits = s.spaceWaits := rfl
@[simp] theorem State.modPower_steps (f : Power → Power) : (s.modPower f).steps = s.steps := rfl
@[simp] theorem State.modPower_evals (f : Power → Power) : (s.modPower f).evals = s.evals := rfl
@[simp] theorem State.modPower_requests (f : Power → Power) : (s.modPower f).requests = s.requests := rfl
@[simp] theorem State.modPower_replays (f : Power → Power) : (s.modPower f).replays = s.replays := rfl
@[simp] theorem State.modPower_nextId (f : Power → Power) : (s.modPower f).nextId = s.nextId := rfl
@[simp] theorem State.modPower_tiles (f : Power → Power) : (s.modPower f).tiles = s.tiles := rfl
@[simp] theorem State.modPower_phys (f : Power → Power) : (s.modPower f).phys = s.phys := rfl
@[simp] theorem State.modPower_spares (f : Power → Power) : (s.modPower f).spares = s.spares := rfl
@[simp] theorem State.modPower_streams (f : Power → Power) : (s.modPower f).streams = s.streams := rfl
@[simp] theorem State.modPower_stalls (f : Power → Power) : (s.modPower f).stalls = s.stalls := rfl
@[simp] theorem State.modPower_hbmFree (f : Power → Power) : (s.modPower f).hbmFree = s.hbmFree := rfl
@[simp] theorem State.modPower_hbmRetired (f : Power → Power) : (s.modPower f).hbmRetired = s.hbmRetired := rfl
@[simp] theorem State.modPower_ports (f : Power → Power) : (s.modPower f).ports = s.ports := rfl
@[simp] theorem State.modPower_links (f : Power → Power) : (s.modPower f).links = s.links := rfl
@[simp] theorem State.modPower_ring (f : Power → Power) : (s.modPower f).ring = s.ring := rfl
@[simp] theorem State.modPower_bundles (f : Power → Power) : (s.modPower f).bundles = s.bundles := rfl
@[simp] theorem State.modPower_homeStash (f : Power → Power) : (s.modPower f).homeStash = s.homeStash := rfl

/-! ## modBoard -/

@[simp] theorem State.modBoard_pending (f : Board → Board) : (s.modBoard f).pending = s.pending := rfl
@[simp] theorem State.modBoard_out (f : Board → Board) : (s.modBoard f).out = s.out := rfl
@[simp] theorem State.modBoard_freeCount (f : Board → Board) : (s.modBoard f).freeCount = s.freeCount := rfl
@[simp] theorem State.modBoard_mem (f : Board → Board) : (s.modBoard f).mem = s.mem := rfl
@[simp] theorem State.modBoard_fuses (f : Board → Board) : (s.modBoard f).fuses = s.fuses := rfl
@[simp] theorem State.modBoard_flash (f : Board → Board) : (s.modBoard f).flash = s.flash := rfl
@[simp] theorem State.modBoard_board (f : Board → Board) : (s.modBoard f).board = f s.board := rfl
@[simp] theorem State.modBoard_power (f : Board → Board) : (s.modBoard f).power = s.power := rfl
@[simp] theorem State.modBoard_profile (f : Board → Board) : (s.modBoard f).profile = s.profile := rfl
@[simp] theorem State.modBoard_profileNo (f : Board → Board) : (s.modBoard f).profileNo = s.profileNo := rfl
@[simp] theorem State.modBoard_selected (f : Board → Board) : (s.modBoard f).selected = s.selected := rfl
@[simp] theorem State.modBoard_fw (f : Board → Board) : (s.modBoard f).fw = s.fw := rfl
@[simp] theorem State.modBoard_base (f : Board → Board) : (s.modBoard f).base = s.base := rfl
@[simp] theorem State.modBoard_drbgRequests (f : Board → Board) : (s.modBoard f).drbgRequests = s.drbgRequests := rfl
@[simp] theorem State.modBoard_drbgSeedAt (f : Board → Board) : (s.modBoard f).drbgSeedAt = s.drbgSeedAt := rfl
@[simp] theorem State.modBoard_qps (f : Board → Board) : (s.modBoard f).qps = s.qps := rfl
@[simp] theorem State.modBoard_sessions (f : Board → Board) : (s.modBoard f).sessions = s.sessions := rfl
@[simp] theorem State.modBoard_intakeRounds (f : Board → Board) : (s.modBoard f).intakeRounds = s.intakeRounds := rfl
@[simp] theorem State.modBoard_roundSubmits (f : Board → Board) : (s.modBoard f).roundSubmits = s.roundSubmits := rfl
@[simp] theorem State.modBoard_counters (f : Board → Board) : (s.modBoard f).counters = s.counters := rfl
@[simp] theorem State.modBoard_ctxs (f : Board → Board) : (s.modBoard f).ctxs = s.ctxs := rfl
@[simp] theorem State.modBoard_createCounts (f : Board → Board) : (s.modBoard f).createCounts = s.createCounts := rfl
@[simp] theorem State.modBoard_vars (f : Board → Board) : (s.modBoard f).vars = s.vars := rfl
@[simp] theorem State.modBoard_park (f : Board → Board) : (s.modBoard f).park = s.park := rfl
@[simp] theorem State.modBoard_reclaimFull (f : Board → Board) : (s.modBoard f).reclaimFull = s.reclaimFull := rfl
@[simp] theorem State.modBoard_pinWaits (f : Board → Board) : (s.modBoard f).pinWaits = s.pinWaits := rfl
@[simp] theorem State.modBoard_spaceWaits (f : Board → Board) : (s.modBoard f).spaceWaits = s.spaceWaits := rfl
@[simp] theorem State.modBoard_steps (f : Board → Board) : (s.modBoard f).steps = s.steps := rfl
@[simp] theorem State.modBoard_evals (f : Board → Board) : (s.modBoard f).evals = s.evals := rfl
@[simp] theorem State.modBoard_requests (f : Board → Board) : (s.modBoard f).requests = s.requests := rfl
@[simp] theorem State.modBoard_replays (f : Board → Board) : (s.modBoard f).replays = s.replays := rfl
@[simp] theorem State.modBoard_nextId (f : Board → Board) : (s.modBoard f).nextId = s.nextId := rfl
@[simp] theorem State.modBoard_tiles (f : Board → Board) : (s.modBoard f).tiles = s.tiles := rfl
@[simp] theorem State.modBoard_phys (f : Board → Board) : (s.modBoard f).phys = s.phys := rfl
@[simp] theorem State.modBoard_spares (f : Board → Board) : (s.modBoard f).spares = s.spares := rfl
@[simp] theorem State.modBoard_streams (f : Board → Board) : (s.modBoard f).streams = s.streams := rfl
@[simp] theorem State.modBoard_stalls (f : Board → Board) : (s.modBoard f).stalls = s.stalls := rfl
@[simp] theorem State.modBoard_hbmFree (f : Board → Board) : (s.modBoard f).hbmFree = s.hbmFree := rfl
@[simp] theorem State.modBoard_hbmRetired (f : Board → Board) : (s.modBoard f).hbmRetired = s.hbmRetired := rfl
@[simp] theorem State.modBoard_ports (f : Board → Board) : (s.modBoard f).ports = s.ports := rfl
@[simp] theorem State.modBoard_links (f : Board → Board) : (s.modBoard f).links = s.links := rfl
@[simp] theorem State.modBoard_ring (f : Board → Board) : (s.modBoard f).ring = s.ring := rfl
@[simp] theorem State.modBoard_bundles (f : Board → Board) : (s.modBoard f).bundles = s.bundles := rfl
@[simp] theorem State.modBoard_homeStash (f : Board → Board) : (s.modBoard f).homeStash = s.homeStash := rfl

/-! ## modFlash -/

@[simp] theorem State.modFlash_pending (f : Flash → Flash) : (s.modFlash f).pending = s.pending := rfl
@[simp] theorem State.modFlash_out (f : Flash → Flash) : (s.modFlash f).out = s.out := rfl
@[simp] theorem State.modFlash_freeCount (f : Flash → Flash) : (s.modFlash f).freeCount = s.freeCount := rfl
@[simp] theorem State.modFlash_mem (f : Flash → Flash) : (s.modFlash f).mem = s.mem := rfl
@[simp] theorem State.modFlash_fuses (f : Flash → Flash) : (s.modFlash f).fuses = s.fuses := rfl
@[simp] theorem State.modFlash_flash (f : Flash → Flash) : (s.modFlash f).flash = f s.flash := rfl
@[simp] theorem State.modFlash_board (f : Flash → Flash) : (s.modFlash f).board = s.board := rfl
@[simp] theorem State.modFlash_power (f : Flash → Flash) : (s.modFlash f).power = s.power := rfl
@[simp] theorem State.modFlash_profile (f : Flash → Flash) : (s.modFlash f).profile = s.profile := rfl
@[simp] theorem State.modFlash_profileNo (f : Flash → Flash) : (s.modFlash f).profileNo = s.profileNo := rfl
@[simp] theorem State.modFlash_selected (f : Flash → Flash) : (s.modFlash f).selected = s.selected := rfl
@[simp] theorem State.modFlash_fw (f : Flash → Flash) : (s.modFlash f).fw = s.fw := rfl
@[simp] theorem State.modFlash_base (f : Flash → Flash) : (s.modFlash f).base = s.base := rfl
@[simp] theorem State.modFlash_drbgRequests (f : Flash → Flash) : (s.modFlash f).drbgRequests = s.drbgRequests := rfl
@[simp] theorem State.modFlash_drbgSeedAt (f : Flash → Flash) : (s.modFlash f).drbgSeedAt = s.drbgSeedAt := rfl
@[simp] theorem State.modFlash_qps (f : Flash → Flash) : (s.modFlash f).qps = s.qps := rfl
@[simp] theorem State.modFlash_sessions (f : Flash → Flash) : (s.modFlash f).sessions = s.sessions := rfl
@[simp] theorem State.modFlash_intakeRounds (f : Flash → Flash) : (s.modFlash f).intakeRounds = s.intakeRounds := rfl
@[simp] theorem State.modFlash_roundSubmits (f : Flash → Flash) : (s.modFlash f).roundSubmits = s.roundSubmits := rfl
@[simp] theorem State.modFlash_counters (f : Flash → Flash) : (s.modFlash f).counters = s.counters := rfl
@[simp] theorem State.modFlash_ctxs (f : Flash → Flash) : (s.modFlash f).ctxs = s.ctxs := rfl
@[simp] theorem State.modFlash_createCounts (f : Flash → Flash) : (s.modFlash f).createCounts = s.createCounts := rfl
@[simp] theorem State.modFlash_vars (f : Flash → Flash) : (s.modFlash f).vars = s.vars := rfl
@[simp] theorem State.modFlash_park (f : Flash → Flash) : (s.modFlash f).park = s.park := rfl
@[simp] theorem State.modFlash_reclaimFull (f : Flash → Flash) : (s.modFlash f).reclaimFull = s.reclaimFull := rfl
@[simp] theorem State.modFlash_pinWaits (f : Flash → Flash) : (s.modFlash f).pinWaits = s.pinWaits := rfl
@[simp] theorem State.modFlash_spaceWaits (f : Flash → Flash) : (s.modFlash f).spaceWaits = s.spaceWaits := rfl
@[simp] theorem State.modFlash_steps (f : Flash → Flash) : (s.modFlash f).steps = s.steps := rfl
@[simp] theorem State.modFlash_evals (f : Flash → Flash) : (s.modFlash f).evals = s.evals := rfl
@[simp] theorem State.modFlash_requests (f : Flash → Flash) : (s.modFlash f).requests = s.requests := rfl
@[simp] theorem State.modFlash_replays (f : Flash → Flash) : (s.modFlash f).replays = s.replays := rfl
@[simp] theorem State.modFlash_nextId (f : Flash → Flash) : (s.modFlash f).nextId = s.nextId := rfl
@[simp] theorem State.modFlash_tiles (f : Flash → Flash) : (s.modFlash f).tiles = s.tiles := rfl
@[simp] theorem State.modFlash_phys (f : Flash → Flash) : (s.modFlash f).phys = s.phys := rfl
@[simp] theorem State.modFlash_spares (f : Flash → Flash) : (s.modFlash f).spares = s.spares := rfl
@[simp] theorem State.modFlash_streams (f : Flash → Flash) : (s.modFlash f).streams = s.streams := rfl
@[simp] theorem State.modFlash_stalls (f : Flash → Flash) : (s.modFlash f).stalls = s.stalls := rfl
@[simp] theorem State.modFlash_hbmFree (f : Flash → Flash) : (s.modFlash f).hbmFree = s.hbmFree := rfl
@[simp] theorem State.modFlash_hbmRetired (f : Flash → Flash) : (s.modFlash f).hbmRetired = s.hbmRetired := rfl
@[simp] theorem State.modFlash_ports (f : Flash → Flash) : (s.modFlash f).ports = s.ports := rfl
@[simp] theorem State.modFlash_links (f : Flash → Flash) : (s.modFlash f).links = s.links := rfl
@[simp] theorem State.modFlash_ring (f : Flash → Flash) : (s.modFlash f).ring = s.ring := rfl
@[simp] theorem State.modFlash_bundles (f : Flash → Flash) : (s.modFlash f).bundles = s.bundles := rfl
@[simp] theorem State.modFlash_homeStash (f : Flash → Flash) : (s.modFlash f).homeStash = s.homeStash := rfl

/-! ## modFw -/

@[simp] theorem State.modFw_pending (f : Firmware → Firmware) : (s.modFw f).pending = s.pending := rfl
@[simp] theorem State.modFw_out (f : Firmware → Firmware) : (s.modFw f).out = s.out := rfl
@[simp] theorem State.modFw_freeCount (f : Firmware → Firmware) : (s.modFw f).freeCount = s.freeCount := rfl
@[simp] theorem State.modFw_mem (f : Firmware → Firmware) : (s.modFw f).mem = s.mem := rfl
@[simp] theorem State.modFw_fuses (f : Firmware → Firmware) : (s.modFw f).fuses = s.fuses := rfl
@[simp] theorem State.modFw_flash (f : Firmware → Firmware) : (s.modFw f).flash = s.flash := rfl
@[simp] theorem State.modFw_board (f : Firmware → Firmware) : (s.modFw f).board = s.board := rfl
@[simp] theorem State.modFw_power (f : Firmware → Firmware) : (s.modFw f).power = s.power := rfl
@[simp] theorem State.modFw_profile (f : Firmware → Firmware) : (s.modFw f).profile = s.profile := rfl
@[simp] theorem State.modFw_profileNo (f : Firmware → Firmware) : (s.modFw f).profileNo = s.profileNo := rfl
@[simp] theorem State.modFw_selected (f : Firmware → Firmware) : (s.modFw f).selected = s.selected := rfl
@[simp] theorem State.modFw_fw (f : Firmware → Firmware) : (s.modFw f).fw = f s.fw := rfl
@[simp] theorem State.modFw_base (f : Firmware → Firmware) : (s.modFw f).base = s.base := rfl
@[simp] theorem State.modFw_drbgRequests (f : Firmware → Firmware) : (s.modFw f).drbgRequests = s.drbgRequests := rfl
@[simp] theorem State.modFw_drbgSeedAt (f : Firmware → Firmware) : (s.modFw f).drbgSeedAt = s.drbgSeedAt := rfl
@[simp] theorem State.modFw_qps (f : Firmware → Firmware) : (s.modFw f).qps = s.qps := rfl
@[simp] theorem State.modFw_sessions (f : Firmware → Firmware) : (s.modFw f).sessions = s.sessions := rfl
@[simp] theorem State.modFw_intakeRounds (f : Firmware → Firmware) : (s.modFw f).intakeRounds = s.intakeRounds := rfl
@[simp] theorem State.modFw_roundSubmits (f : Firmware → Firmware) : (s.modFw f).roundSubmits = s.roundSubmits := rfl
@[simp] theorem State.modFw_counters (f : Firmware → Firmware) : (s.modFw f).counters = s.counters := rfl
@[simp] theorem State.modFw_ctxs (f : Firmware → Firmware) : (s.modFw f).ctxs = s.ctxs := rfl
@[simp] theorem State.modFw_createCounts (f : Firmware → Firmware) : (s.modFw f).createCounts = s.createCounts := rfl
@[simp] theorem State.modFw_vars (f : Firmware → Firmware) : (s.modFw f).vars = s.vars := rfl
@[simp] theorem State.modFw_park (f : Firmware → Firmware) : (s.modFw f).park = s.park := rfl
@[simp] theorem State.modFw_reclaimFull (f : Firmware → Firmware) : (s.modFw f).reclaimFull = s.reclaimFull := rfl
@[simp] theorem State.modFw_pinWaits (f : Firmware → Firmware) : (s.modFw f).pinWaits = s.pinWaits := rfl
@[simp] theorem State.modFw_spaceWaits (f : Firmware → Firmware) : (s.modFw f).spaceWaits = s.spaceWaits := rfl
@[simp] theorem State.modFw_steps (f : Firmware → Firmware) : (s.modFw f).steps = s.steps := rfl
@[simp] theorem State.modFw_evals (f : Firmware → Firmware) : (s.modFw f).evals = s.evals := rfl
@[simp] theorem State.modFw_requests (f : Firmware → Firmware) : (s.modFw f).requests = s.requests := rfl
@[simp] theorem State.modFw_replays (f : Firmware → Firmware) : (s.modFw f).replays = s.replays := rfl
@[simp] theorem State.modFw_nextId (f : Firmware → Firmware) : (s.modFw f).nextId = s.nextId := rfl
@[simp] theorem State.modFw_tiles (f : Firmware → Firmware) : (s.modFw f).tiles = s.tiles := rfl
@[simp] theorem State.modFw_phys (f : Firmware → Firmware) : (s.modFw f).phys = s.phys := rfl
@[simp] theorem State.modFw_spares (f : Firmware → Firmware) : (s.modFw f).spares = s.spares := rfl
@[simp] theorem State.modFw_streams (f : Firmware → Firmware) : (s.modFw f).streams = s.streams := rfl
@[simp] theorem State.modFw_stalls (f : Firmware → Firmware) : (s.modFw f).stalls = s.stalls := rfl
@[simp] theorem State.modFw_hbmFree (f : Firmware → Firmware) : (s.modFw f).hbmFree = s.hbmFree := rfl
@[simp] theorem State.modFw_hbmRetired (f : Firmware → Firmware) : (s.modFw f).hbmRetired = s.hbmRetired := rfl
@[simp] theorem State.modFw_ports (f : Firmware → Firmware) : (s.modFw f).ports = s.ports := rfl
@[simp] theorem State.modFw_links (f : Firmware → Firmware) : (s.modFw f).links = s.links := rfl
@[simp] theorem State.modFw_ring (f : Firmware → Firmware) : (s.modFw f).ring = s.ring := rfl
@[simp] theorem State.modFw_bundles (f : Firmware → Firmware) : (s.modFw f).bundles = s.bundles := rfl
@[simp] theorem State.modFw_homeStash (f : Firmware → Firmware) : (s.modFw f).homeStash = s.homeStash := rfl

/-! ## modQuad -/

@[simp] theorem State.modQuad_pending (n : Nat) (f : Quadrant → Quadrant) : (s.modQuad n f).pending = s.pending := rfl
@[simp] theorem State.modQuad_out (n : Nat) (f : Quadrant → Quadrant) : (s.modQuad n f).out = s.out := rfl
@[simp] theorem State.modQuad_freeCount (n : Nat) (f : Quadrant → Quadrant) : (s.modQuad n f).freeCount = s.freeCount := rfl
@[simp] theorem State.modQuad_mem (n : Nat) (f : Quadrant → Quadrant) : (s.modQuad n f).mem = s.mem := rfl
@[simp] theorem State.modQuad_fuses (n : Nat) (f : Quadrant → Quadrant) : (s.modQuad n f).fuses = s.fuses := rfl
@[simp] theorem State.modQuad_flash (n : Nat) (f : Quadrant → Quadrant) : (s.modQuad n f).flash = s.flash := rfl
@[simp] theorem State.modQuad_board (n : Nat) (f : Quadrant → Quadrant) : (s.modQuad n f).board = s.board := rfl
@[simp] theorem State.modQuad_power (n : Nat) (f : Quadrant → Quadrant) : (s.modQuad n f).power = { s.power with quads := s.power.quads.put n (f (s.quad n)) } := rfl
@[simp] theorem State.modQuad_profile (n : Nat) (f : Quadrant → Quadrant) : (s.modQuad n f).profile = s.profile := rfl
@[simp] theorem State.modQuad_profileNo (n : Nat) (f : Quadrant → Quadrant) : (s.modQuad n f).profileNo = s.profileNo := rfl
@[simp] theorem State.modQuad_selected (n : Nat) (f : Quadrant → Quadrant) : (s.modQuad n f).selected = s.selected := rfl
@[simp] theorem State.modQuad_fw (n : Nat) (f : Quadrant → Quadrant) : (s.modQuad n f).fw = s.fw := rfl
@[simp] theorem State.modQuad_base (n : Nat) (f : Quadrant → Quadrant) : (s.modQuad n f).base = s.base := rfl
@[simp] theorem State.modQuad_drbgRequests (n : Nat) (f : Quadrant → Quadrant) : (s.modQuad n f).drbgRequests = s.drbgRequests := rfl
@[simp] theorem State.modQuad_drbgSeedAt (n : Nat) (f : Quadrant → Quadrant) : (s.modQuad n f).drbgSeedAt = s.drbgSeedAt := rfl
@[simp] theorem State.modQuad_qps (n : Nat) (f : Quadrant → Quadrant) : (s.modQuad n f).qps = s.qps := rfl
@[simp] theorem State.modQuad_sessions (n : Nat) (f : Quadrant → Quadrant) : (s.modQuad n f).sessions = s.sessions := rfl
@[simp] theorem State.modQuad_intakeRounds (n : Nat) (f : Quadrant → Quadrant) : (s.modQuad n f).intakeRounds = s.intakeRounds := rfl
@[simp] theorem State.modQuad_roundSubmits (n : Nat) (f : Quadrant → Quadrant) : (s.modQuad n f).roundSubmits = s.roundSubmits := rfl
@[simp] theorem State.modQuad_counters (n : Nat) (f : Quadrant → Quadrant) : (s.modQuad n f).counters = s.counters := rfl
@[simp] theorem State.modQuad_ctxs (n : Nat) (f : Quadrant → Quadrant) : (s.modQuad n f).ctxs = s.ctxs := rfl
@[simp] theorem State.modQuad_createCounts (n : Nat) (f : Quadrant → Quadrant) : (s.modQuad n f).createCounts = s.createCounts := rfl
@[simp] theorem State.modQuad_vars (n : Nat) (f : Quadrant → Quadrant) : (s.modQuad n f).vars = s.vars := rfl
@[simp] theorem State.modQuad_park (n : Nat) (f : Quadrant → Quadrant) : (s.modQuad n f).park = s.park := rfl
@[simp] theorem State.modQuad_reclaimFull (n : Nat) (f : Quadrant → Quadrant) : (s.modQuad n f).reclaimFull = s.reclaimFull := rfl
@[simp] theorem State.modQuad_pinWaits (n : Nat) (f : Quadrant → Quadrant) : (s.modQuad n f).pinWaits = s.pinWaits := rfl
@[simp] theorem State.modQuad_spaceWaits (n : Nat) (f : Quadrant → Quadrant) : (s.modQuad n f).spaceWaits = s.spaceWaits := rfl
@[simp] theorem State.modQuad_steps (n : Nat) (f : Quadrant → Quadrant) : (s.modQuad n f).steps = s.steps := rfl
@[simp] theorem State.modQuad_evals (n : Nat) (f : Quadrant → Quadrant) : (s.modQuad n f).evals = s.evals := rfl
@[simp] theorem State.modQuad_requests (n : Nat) (f : Quadrant → Quadrant) : (s.modQuad n f).requests = s.requests := rfl
@[simp] theorem State.modQuad_replays (n : Nat) (f : Quadrant → Quadrant) : (s.modQuad n f).replays = s.replays := rfl
@[simp] theorem State.modQuad_nextId (n : Nat) (f : Quadrant → Quadrant) : (s.modQuad n f).nextId = s.nextId := rfl
@[simp] theorem State.modQuad_tiles (n : Nat) (f : Quadrant → Quadrant) : (s.modQuad n f).tiles = s.tiles := rfl
@[simp] theorem State.modQuad_phys (n : Nat) (f : Quadrant → Quadrant) : (s.modQuad n f).phys = s.phys := rfl
@[simp] theorem State.modQuad_spares (n : Nat) (f : Quadrant → Quadrant) : (s.modQuad n f).spares = s.spares := rfl
@[simp] theorem State.modQuad_streams (n : Nat) (f : Quadrant → Quadrant) : (s.modQuad n f).streams = s.streams := rfl
@[simp] theorem State.modQuad_stalls (n : Nat) (f : Quadrant → Quadrant) : (s.modQuad n f).stalls = s.stalls := rfl
@[simp] theorem State.modQuad_hbmFree (n : Nat) (f : Quadrant → Quadrant) : (s.modQuad n f).hbmFree = s.hbmFree := rfl
@[simp] theorem State.modQuad_hbmRetired (n : Nat) (f : Quadrant → Quadrant) : (s.modQuad n f).hbmRetired = s.hbmRetired := rfl
@[simp] theorem State.modQuad_ports (n : Nat) (f : Quadrant → Quadrant) : (s.modQuad n f).ports = s.ports := rfl
@[simp] theorem State.modQuad_links (n : Nat) (f : Quadrant → Quadrant) : (s.modQuad n f).links = s.links := rfl
@[simp] theorem State.modQuad_ring (n : Nat) (f : Quadrant → Quadrant) : (s.modQuad n f).ring = s.ring := rfl
@[simp] theorem State.modQuad_bundles (n : Nat) (f : Quadrant → Quadrant) : (s.modQuad n f).bundles = s.bundles := rfl
@[simp] theorem State.modQuad_homeStash (n : Nat) (f : Quadrant → Quadrant) : (s.modQuad n f).homeStash = s.homeStash := rfl

/-! ## emit -/

@[simp] theorem State.emit_pending (o : Out) : (s.emit o).pending = s.pending := rfl
@[simp] theorem State.emit_out (o : Out) : (s.emit o).out = s.out ++ [o] := rfl
@[simp] theorem State.emit_freeCount (o : Out) : (s.emit o).freeCount = s.freeCount := rfl
@[simp] theorem State.emit_mem (o : Out) : (s.emit o).mem = s.mem := rfl
@[simp] theorem State.emit_fuses (o : Out) : (s.emit o).fuses = s.fuses := rfl
@[simp] theorem State.emit_flash (o : Out) : (s.emit o).flash = s.flash := rfl
@[simp] theorem State.emit_board (o : Out) : (s.emit o).board = s.board := rfl
@[simp] theorem State.emit_power (o : Out) : (s.emit o).power = s.power := rfl
@[simp] theorem State.emit_profile (o : Out) : (s.emit o).profile = s.profile := rfl
@[simp] theorem State.emit_profileNo (o : Out) : (s.emit o).profileNo = s.profileNo := rfl
@[simp] theorem State.emit_selected (o : Out) : (s.emit o).selected = s.selected := rfl
@[simp] theorem State.emit_fw (o : Out) : (s.emit o).fw = s.fw := rfl
@[simp] theorem State.emit_base (o : Out) : (s.emit o).base = s.base := rfl
@[simp] theorem State.emit_drbgRequests (o : Out) : (s.emit o).drbgRequests = s.drbgRequests := rfl
@[simp] theorem State.emit_drbgSeedAt (o : Out) : (s.emit o).drbgSeedAt = s.drbgSeedAt := rfl
@[simp] theorem State.emit_qps (o : Out) : (s.emit o).qps = s.qps := rfl
@[simp] theorem State.emit_sessions (o : Out) : (s.emit o).sessions = s.sessions := rfl
@[simp] theorem State.emit_intakeRounds (o : Out) : (s.emit o).intakeRounds = s.intakeRounds := rfl
@[simp] theorem State.emit_roundSubmits (o : Out) : (s.emit o).roundSubmits = s.roundSubmits := rfl
@[simp] theorem State.emit_counters (o : Out) : (s.emit o).counters = s.counters := rfl
@[simp] theorem State.emit_ctxs (o : Out) : (s.emit o).ctxs = s.ctxs := rfl
@[simp] theorem State.emit_createCounts (o : Out) : (s.emit o).createCounts = s.createCounts := rfl
@[simp] theorem State.emit_vars (o : Out) : (s.emit o).vars = s.vars := rfl
@[simp] theorem State.emit_park (o : Out) : (s.emit o).park = s.park := rfl
@[simp] theorem State.emit_reclaimFull (o : Out) : (s.emit o).reclaimFull = s.reclaimFull := rfl
@[simp] theorem State.emit_pinWaits (o : Out) : (s.emit o).pinWaits = s.pinWaits := rfl
@[simp] theorem State.emit_spaceWaits (o : Out) : (s.emit o).spaceWaits = s.spaceWaits := rfl
@[simp] theorem State.emit_steps (o : Out) : (s.emit o).steps = s.steps := rfl
@[simp] theorem State.emit_evals (o : Out) : (s.emit o).evals = s.evals := rfl
@[simp] theorem State.emit_requests (o : Out) : (s.emit o).requests = s.requests := rfl
@[simp] theorem State.emit_replays (o : Out) : (s.emit o).replays = s.replays := rfl
@[simp] theorem State.emit_nextId (o : Out) : (s.emit o).nextId = s.nextId := rfl
@[simp] theorem State.emit_tiles (o : Out) : (s.emit o).tiles = s.tiles := rfl
@[simp] theorem State.emit_phys (o : Out) : (s.emit o).phys = s.phys := rfl
@[simp] theorem State.emit_spares (o : Out) : (s.emit o).spares = s.spares := rfl
@[simp] theorem State.emit_streams (o : Out) : (s.emit o).streams = s.streams := rfl
@[simp] theorem State.emit_stalls (o : Out) : (s.emit o).stalls = s.stalls := rfl
@[simp] theorem State.emit_hbmFree (o : Out) : (s.emit o).hbmFree = s.hbmFree := rfl
@[simp] theorem State.emit_hbmRetired (o : Out) : (s.emit o).hbmRetired = s.hbmRetired := rfl
@[simp] theorem State.emit_ports (o : Out) : (s.emit o).ports = s.ports := rfl
@[simp] theorem State.emit_links (o : Out) : (s.emit o).links = s.links := rfl
@[simp] theorem State.emit_ring (o : Out) : (s.emit o).ring = s.ring := rfl
@[simp] theorem State.emit_bundles (o : Out) : (s.emit o).bundles = s.bundles := rfl
@[simp] theorem State.emit_homeStash (o : Out) : (s.emit o).homeStash = s.homeStash := rfl

/-! ## deliver -/

@[simp] theorem State.deliver_pending (e : Event) : (s.deliver e).pending = s.pending := rfl
@[simp] theorem State.deliver_out (e : Event) : (s.deliver e).out = s.out := rfl
@[simp] theorem State.deliver_freeCount (e : Event) : (s.deliver e).freeCount = s.freeCount := rfl
@[simp] theorem State.deliver_mem (e : Event) : (s.deliver e).mem = s.mem := rfl
@[simp] theorem State.deliver_fuses (e : Event) : (s.deliver e).fuses = s.fuses := rfl
@[simp] theorem State.deliver_flash (e : Event) : (s.deliver e).flash = s.flash := rfl
@[simp] theorem State.deliver_board (e : Event) : (s.deliver e).board = s.board := rfl
@[simp] theorem State.deliver_power (e : Event) : (s.deliver e).power = s.power := rfl
@[simp] theorem State.deliver_profile (e : Event) : (s.deliver e).profile = s.profile := rfl
@[simp] theorem State.deliver_profileNo (e : Event) : (s.deliver e).profileNo = s.profileNo := rfl
@[simp] theorem State.deliver_selected (e : Event) : (s.deliver e).selected = s.selected := rfl
@[simp] theorem State.deliver_fw (e : Event) : (s.deliver e).fw = s.fw := rfl
@[simp] theorem State.deliver_base (e : Event) : (s.deliver e).base = s.base := rfl
@[simp] theorem State.deliver_drbgRequests (e : Event) : (s.deliver e).drbgRequests = s.drbgRequests := rfl
@[simp] theorem State.deliver_drbgSeedAt (e : Event) : (s.deliver e).drbgSeedAt = s.drbgSeedAt := rfl
@[simp] theorem State.deliver_qps (e : Event) : (s.deliver e).qps = s.qps := rfl
@[simp] theorem State.deliver_sessions (e : Event) : (s.deliver e).sessions = s.sessions.each (fun _ ss => if s.receives ss e then ss.push e else ss) := rfl
@[simp] theorem State.deliver_intakeRounds (e : Event) : (s.deliver e).intakeRounds = s.intakeRounds := rfl
@[simp] theorem State.deliver_roundSubmits (e : Event) : (s.deliver e).roundSubmits = s.roundSubmits := rfl
@[simp] theorem State.deliver_counters (e : Event) : (s.deliver e).counters = s.counters := rfl
@[simp] theorem State.deliver_ctxs (e : Event) : (s.deliver e).ctxs = s.ctxs := rfl
@[simp] theorem State.deliver_createCounts (e : Event) : (s.deliver e).createCounts = s.createCounts := rfl
@[simp] theorem State.deliver_vars (e : Event) : (s.deliver e).vars = s.vars := rfl
@[simp] theorem State.deliver_park (e : Event) : (s.deliver e).park = s.park := rfl
@[simp] theorem State.deliver_reclaimFull (e : Event) : (s.deliver e).reclaimFull = s.reclaimFull := rfl
@[simp] theorem State.deliver_pinWaits (e : Event) : (s.deliver e).pinWaits = s.pinWaits := rfl
@[simp] theorem State.deliver_spaceWaits (e : Event) : (s.deliver e).spaceWaits = s.spaceWaits := rfl
@[simp] theorem State.deliver_steps (e : Event) : (s.deliver e).steps = s.steps := rfl
@[simp] theorem State.deliver_evals (e : Event) : (s.deliver e).evals = s.evals := rfl
@[simp] theorem State.deliver_requests (e : Event) : (s.deliver e).requests = s.requests := rfl
@[simp] theorem State.deliver_replays (e : Event) : (s.deliver e).replays = s.replays := rfl
@[simp] theorem State.deliver_nextId (e : Event) : (s.deliver e).nextId = s.nextId := rfl
@[simp] theorem State.deliver_tiles (e : Event) : (s.deliver e).tiles = s.tiles := rfl
@[simp] theorem State.deliver_phys (e : Event) : (s.deliver e).phys = s.phys := rfl
@[simp] theorem State.deliver_spares (e : Event) : (s.deliver e).spares = s.spares := rfl
@[simp] theorem State.deliver_streams (e : Event) : (s.deliver e).streams = s.streams := rfl
@[simp] theorem State.deliver_stalls (e : Event) : (s.deliver e).stalls = s.stalls := rfl
@[simp] theorem State.deliver_hbmFree (e : Event) : (s.deliver e).hbmFree = s.hbmFree := rfl
@[simp] theorem State.deliver_hbmRetired (e : Event) : (s.deliver e).hbmRetired = s.hbmRetired := rfl
@[simp] theorem State.deliver_ports (e : Event) : (s.deliver e).ports = s.ports := rfl
@[simp] theorem State.deliver_links (e : Event) : (s.deliver e).links = s.links := rfl
@[simp] theorem State.deliver_ring (e : Event) : (s.deliver e).ring = s.ring := rfl
@[simp] theorem State.deliver_bundles (e : Event) : (s.deliver e).bundles = s.bundles := rfl
@[simp] theorem State.deliver_homeStash (e : Event) : (s.deliver e).homeStash = s.homeStash := rfl

end Sys2Proof.Machine
end

