-- ==== Sys2Proof/Laws/Tab.lean ====
section
/-! SUPPORT. The laws of tables: reading after writing, and that the keys go on rising. -/

namespace Sys2Proof.Machine

@[simp] theorem Tab.find_nil {α : Type} (i : Nat) : Tab.find ([] : Tab α) i = none := rfl

@[simp] theorem Tab.find_put_self {α : Type} (t : Tab α) (i : Nat) (v : α) : (t.put i v).find i = some v := by
  induction t with
  | nil => simp [Tab.put, Tab.find]
  | cons p t ih =>
    obtain ⟨k, w⟩ := p
    simp only [Tab.put]
    split
    · simp [Tab.find]
    · split <;> simp_all [Tab.find]

theorem Tab.find_put_ne {α : Type} (t : Tab α) {i j : Nat} (v : α) (h : i ≠ j) : (t.put i v).find j = t.find j := by
  induction t with
  | nil => simp [Tab.put, Tab.find, h]
  | cons p t ih =>
    obtain ⟨k, w⟩ := p
    simp only [Tab.put]
    split
    · simp_all [Tab.find]
    · split <;> simp_all [Tab.find]

/-- What a table reads after a write. -/
theorem Tab.find_put {α : Type} (t : Tab α) (i j : Nat) (v : α) :
    (t.put i v).find j = if i = j then some v else t.find j := by
  by_cases h : i = j
  · subst h; simp
  · simp [Tab.find_put_ne t v h, h]

/-- What a table reads after a change of one entry. -/
theorem Tab.find_modify {α : Type} (t : Tab α) (i j : Nat) (f : α → α) :
    (t.modify i f).find j = if i = j then (t.find j).map f else t.find j := by
  unfold Tab.modify
  by_cases h : i = j
  · subst h; cases hh : t.find i <;> simp [hh]
  · cases hh : t.find i <;> simp [Tab.find_put_ne, h]

/-- What a table reads after one key is removed. -/
theorem Tab.find_del {α : Type} (t : Tab α) (i j : Nat) : (t.del i).find j = if i = j then none else t.find j := by
  induction t with
  | nil => simp [Tab.del]
  | cons p t ih =>
    obtain ⟨k, w⟩ := p
    simp only [Tab.del]
    by_cases hki : k = i
    · simp only [hki, if_true, ih, Tab.find]
      split <;> simp_all
    · simp only [hki, if_false, Tab.find, ih]
      split
      · split <;> simp_all
      · rfl

/-- What a table reads after every entry is changed. -/
theorem Tab.find_each {α : Type} (t : Tab α) (f : Nat → α → α) (j : Nat) : (t.each f).find j = (t.find j).map (f j) := by
  induction t with
  | nil => rfl
  | cons p t ih =>
    obtain ⟨k, w⟩ := p
    have : Tab.each ((k, w) :: t) f = (k, f k w) :: Tab.each t f := rfl
    rw [this]
    simp only [Tab.find]
    split <;> simp_all

/-! ## Keys that rise -/

theorem Tab.wf_nil {α : Type} : Tab.wf ([] : Tab α) := List.Pairwise.nil

theorem Tab.mem_keys_put {α : Type} (t : Tab α) (i : Nat) (v : α) (k : Nat) (h : k ∈ (t.put i v).keys) : k = i ∨ k ∈ t.keys := by
  induction t with
  | nil => simp_all [Tab.put, Tab.keys]
  | cons p t ih =>
    obtain ⟨a, w⟩ := p
    simp only [Tab.put] at h
    split at h
    · simp_all [Tab.keys]
    · split at h
      · simp only [Tab.keys, List.map_cons, List.mem_cons] at h ih ⊢
        rcases h with h | h
        · exact .inr (.inl h)
        · rcases ih h with h | h
          · exact .inl h
          · exact .inr (.inr h)
      · simp only [Tab.keys, List.map_cons, List.mem_cons] at h ⊢
        exact h

theorem Tab.wf_put {α : Type} {t : Tab α} (h : t.wf) (i : Nat) (v : α) : (t.put i v).wf := by
  induction t with
  | nil => simp [Tab.put, Tab.wf, Tab.keys]
  | cons p t ih =>
    obtain ⟨a, w⟩ := p
    simp only [Tab.wf, Tab.keys, List.map_cons, List.pairwise_cons] at h ih
    simp only [Tab.put]
    split
    · rename_i e; subst e; simpa [Tab.wf, Tab.keys] using h
    · split
      · rename_i e1 e2
        simp only [Tab.wf, Tab.keys, List.map_cons, List.pairwise_cons]
        refine ⟨fun k hk => ?_, ih h.2⟩
        rcases Tab.mem_keys_put t i v k hk with rfl | hk
        · exact e2
        · exact h.1 k hk
      · rename_i e1 e2
        simp only [Tab.wf, Tab.keys, List.map_cons, List.pairwise_cons, List.mem_cons]
        refine ⟨fun k hk => ?_, h⟩
        rcases hk with rfl | hk
        · omega
        · have := h.1 k hk; omega

theorem Tab.wf_modify {α : Type} {t : Tab α} (h : t.wf) (i : Nat) (f : α → α) : (t.modify i f).wf := by
  unfold Tab.modify
  split
  · exact Tab.wf_put h _ _
  · exact h

theorem Tab.del_sublist {α : Type} (t : Tab α) (i : Nat) : (t.del i).Sublist t := by
  induction t with
  | nil => exact List.Sublist.refl _
  | cons p t ih =>
    obtain ⟨a, w⟩ := p
    simp only [Tab.del]
    split
    · exact ih.cons _
    · exact ih.cons_cons _

/-- A part of a table, in its order, is a table. -/
theorem Tab.wf_sublist {α : Type} {t u : Tab α} (h : t.wf) (hs : List.Sublist u t) : u.wf := List.Pairwise.sublist (hs.map _) h

theorem Tab.wf_del {α : Type} {t : Tab α} (h : t.wf) (i : Nat) : (t.del i).wf := Tab.wf_sublist h (Tab.del_sublist t i)

theorem Tab.wf_filter {α : Type} {t : Tab α} (h : t.wf) (p : Nat × α → Bool) : Tab.wf (List.filter p t) :=
  Tab.wf_sublist h List.filter_sublist

theorem Tab.wf_keep {α : Type} {t : Tab α} (h : t.wf) (p : Nat → α → Bool) : (t.keep p).wf := Tab.wf_filter h _

theorem Tab.wf_each {α : Type} {t : Tab α} (h : t.wf) (f : Nat → α → α) : (t.each f).wf := by
  have : (t.each f).keys = t.keys := by simp [Tab.each, Tab.keys, List.map_map, Function.comp_def]
  unfold Tab.wf at *
  rw [this]; exact h

end Sys2Proof.Machine
end

