-- ==== Sys2Proof/Laws/Gaffer.lean ====
section
/-! SUPPORT. What the gaffer does with a command: the work it hands over when every check passes, the refusal when one fails, and
what an answer leaves. -/

namespace Sys2Proof.Machine

/-- A command that passes every check is handed over, its session awaiting the reply. -/
theorem gafferWith_takes {k : OpSpec} {c : Cmd} {n : Nat} {ss : Session} {s : State} (h : Takes k c n ss s)
    (body : Ticket → Session → State → Res) :
    gafferWith k c body s = body (ticketOf c k.op n ss.serial) ss (s.awaiting c k.op n) := by
  obtain ⟨⟨q, hq, hs⟩, h2, h3, h4⟩ := h
  simp [gafferWith, hq, hs, h2, h3, h4, State.awaiting]

/-- A command that fails a general check is refused, with no effect (R484). -/
theorem gafferWith_refuses {k : OpSpec} {c : Cmd} {n st : Nat} {ss : Session} {q : Qp} {s : State} (hq : s.reaches c.qp = some q)
    (hs : q.st = .session n) (h2 : s.sessions.find n = some ss) (h3 : ss.awaits c.seq = false)
    (h4 : generalCheck k c ss s = some st) (body : Ticket → Session → State → Res) :
    gafferWith k c body s = .next (s.refuse (ticketOf c k.op n ss.serial) st) := by
  simp [gafferWith, hq, hs, h2, h3, h4]

theorem sessions_awaiting {s : State} {c : Cmd} {n op : Nat} {ss : Session} (h : s.sessions.find n = some ss) :
    (s.awaiting c op n).sessions.find n = some { ss with awaiting := ss.awaiting ++ [(c.seq, op)] } := by
  simp [State.awaiting, Tab.find_modify, h]

theorem erase_awaiting {ss : Session} {c : Cmd} (op : Nat) (h : ss.awaits c.seq = false) :
    (ss.awaiting ++ [(c.seq, op)]).erase (c.seq, op) = ss.awaiting := by
  have : (c.seq, op) ∉ ss.awaiting := by
    intro hm
    simp only [Session.awaits, List.any_eq_false, decide_eq_true_eq] at h
    exact h _ hm rfl
  simp [List.erase_append_right, this]

/-- The answer to a command just taken leaves at once when nothing waits before it, and its session awaits it no more. `u` is any
state that differs from the one handed over in nothing the answer reads. -/
theorem answerWith_sendsOnly {s u : State} {c : Cmd} {op n st : Nat} {ss : Session} {p : List (Nat × Bytes)}
    (hs : s.sessions.find n = some ss) (hf : ss.awaits c.seq = false) (hc : Clear s ss)
    (hu : u.sessions = (s.awaiting c op n).sessions) (hq : u.qps = s.qps) (hp : u.ports = s.ports) (hr : u.profile = s.profile)
    (ho : u.out = s.out) :
    SendsOnly (s.replyTo c op st p) s (u.answerWith (ticketOf c op n ss.serial) st p) ∧
    u.answerWith (ticketOf c op n ss.serial) st p =
      { u with out := s.out ++ [s.replyTo c op st p], sessions := (u.answerWith (ticketOf c op n ss.serial) st p).sessions } := by
  have hl : u.live (ticketOf c op n ss.serial) = true := by
    simp [State.live, hu, ticketOf, sessions_awaiting hs]
  let v := u.modSession n (fun ss => { ss with awaiting := ss.awaiting.erase (c.seq, op) })
  have h1 : v.sessions.find n = some ss := by
    simp only [v, State.modSession_sessions, Tab.find_modify, hu, sessions_awaiting hs, if_true, Option.map_some, erase_awaiting op hf]
  have h2 : v.paused ss.qp v.profile.cmdPriority = false := by
    rw [← hc.2]
    simp only [v, State.paused, State.port, State.modSession_qps, State.modSession_ports, State.modSession_profile, hq, hp, hr]
  have h3 : v.sendOn n (u.replyOf (ticketOf c op n ss.serial) true st p) = v.emit (s.replyTo c op st p) := by
    simp only [State.sendOn, h1, hc.1, h2, decide_true, Bool.not_false, Bool.and_self, if_true]
    simp [State.replyTo, State.replyOf, ticketOf, State.minorOf, hq]
  have h4 : u.answerWith (ticketOf c op n ss.serial) st p = v.emit (s.replyTo c op st p) := by
    rw [← h3]; unfold State.answerWith; rw [if_pos hl]; rfl
  rw [h4]
  refine ⟨⟨?_, fun m => ?_⟩, ?_⟩
  · simp [v, ho]
  · by_cases hm : n = m
    · subst hm; rw [State.emit_sessions, h1, hs]
    · simp [v, Tab.find_modify, hm, hu, State.awaiting]
  · simp [v, State.emit, State.modSession, ho]

/-- Every command the general checks decide is the gaffer's taking of it, or that and what its round leaves to its end. -/
theorem exec_gaffer {i : Instr} {k : OpSpec} {c : Cmd} (s : State) (h : gafferSpec i = some (k, c)) (hh : ∀ c o, i ≠ .hello c o) :
    ∃ body, exec i s = gafferWith k c body s ∨ exec i s = thenReset (gafferWith k c body s) ∨
      exec i s = (gafferWith k c body s).bind (fun s => .next s.goOffline) := by
  cases i
  case hello => exact absurd rfl (hh _ _)
  case closeSession =>
    cases h; simp only [exec]; unfold execCloseSession takeCloseSession gaffer; exact ⟨_, .inr (.inl rfl)⟩
  case selectProfileReset =>
    cases h; simp only [exec]; unfold execSelectProfileReset takeSelectProfile gaffer; exact ⟨_, .inr (.inl rfl)⟩
  case fwActivate =>
    cases h; simp only [exec]; unfold execFwActivate takeFwActivate gaffer; exact ⟨_, .inr (.inr rfl)⟩
  case keyAdd => cases h; simp only [exec]; unfold execKeyAdd; exact ⟨_, .inl rfl⟩
  case keyRemove => cases h; simp only [exec]; unfold execKeyRemove; exact ⟨_, .inl rfl⟩
  case contextCreate => cases h; simp only [exec]; unfold execContextCreate gaffer; exact ⟨_, .inl rfl⟩
  case contextDestroy => cases h; simp only [exec]; unfold execContextDestroy gaffer; exact ⟨_, .inl rfl⟩
  case contextReset => cases h; simp only [exec]; unfold execContextReset gaffer; exact ⟨_, .inl rfl⟩
  case contextSuspend => cases h; simp only [exec]; unfold execContextSuspend gaffer; exact ⟨_, .inl rfl⟩
  case contextResume => cases h; simp only [exec]; unfold execContextResume gaffer; exact ⟨_, .inl rfl⟩
  case contextShares => cases h; simp only [exec]; unfold execContextShares gaffer; exact ⟨_, .inl rfl⟩
  case variantCreate => cases h; simp only [exec]; unfold execVariantCreate gafferVar; exact ⟨_, .inl rfl⟩
  case variantDestroy => cases h; simp only [exec]; unfold execVariantDestroy gafferVar; exact ⟨_, .inl rfl⟩
  case variantImport => cases h; simp only [exec]; unfold execVariantImport gafferVar; exact ⟨_, .inl rfl⟩
  case variantExport => cases h; simp only [exec]; unfold execVariantExport gafferVar; exact ⟨_, .inl rfl⟩
  case evict => cases h; simp only [exec]; unfold execEvict gafferVar; exact ⟨_, .inl rfl⟩
  case evictForce => cases h; simp only [exec]; unfold execEvictForce gafferVar; exact ⟨_, .inl rfl⟩
  case expertAttach => cases h; simp only [exec]; unfold execExpertAttach gafferVar; exact ⟨_, .inl rfl⟩
  case expertDetach => cases h; simp only [exec]; unfold execExpertDetach gafferVar; exact ⟨_, .inl rfl⟩
  case step => cases h; simp only [exec]; unfold execStep gafferVar; exact ⟨_, .inl rfl⟩
  case eval => cases h; simp only [exec]; unfold execEval gafferVar; exact ⟨_, .inl rfl⟩
  case setRule => cases h; simp only [exec]; unfold execSetRule gafferVar; exact ⟨_, .inl rfl⟩
  case freeze => cases h; simp only [exec]; unfold execFreeze gafferVar; exact ⟨_, .inl rfl⟩
  case thaw => cases h; simp only [exec]; unfold execThaw gafferVar; exact ⟨_, .inl rfl⟩
  case checkpoint => cases h; simp only [exec]; unfold execCheckpoint gafferVar; exact ⟨_, .inl rfl⟩
  case restore => cases h; simp only [exec]; unfold execRestore gafferVar; exact ⟨_, .inl rfl⟩
  case replay => cases h; simp only [exec]; unfold execReplay gafferVar; exact ⟨_, .inl rfl⟩
  case submit => cases h; simp only [exec]; unfold execSubmit gafferVar; exact ⟨_, .inl rfl⟩
  case cancel => cases h; simp only [exec]; unfold execCancel gaffer; exact ⟨_, .inl rfl⟩
  case mapWindowInbound => cases h; simp only [exec]; unfold execMapWindowInbound gaffer; exact ⟨_, .inl rfl⟩
  case mapWindowOutbound => cases h; simp only [exec]; unfold execMapWindowOutbound gaffer; exact ⟨_, .inl rfl⟩
  case mapWindowPresent => cases h; simp only [exec]; unfold execMapWindowPresent gaffer; exact ⟨_, .inl rfl⟩
  case mapWindowUnmap => cases h; simp only [exec]; unfold execMapWindowUnmap gaffer; exact ⟨_, .inl rfl⟩
  case loadProgram => cases h; simp only [exec]; unfold execLoadProgram gaffer; exact ⟨_, .inl rfl⟩
  case runProgram => cases h; simp only [exec]; unfold execRunProgram gaffer; exact ⟨_, .inl rfl⟩
  case streamOpen => cases h; simp only [exec]; unfold execStreamOpen gaffer; exact ⟨_, .inl rfl⟩
  case streamOpenResume => cases h; simp only [exec]; unfold execStreamOpenResume gaffer; exact ⟨_, .inl rfl⟩
  case streamClose => cases h; simp only [exec]; unfold execStreamClose gaffer; exact ⟨_, .inl rfl⟩
  case ringJoin => cases h; simp only [exec]; unfold execRingJoin gaffer; exact ⟨_, .inl rfl⟩
  case ringLeave => cases h; simp only [exec]; unfold execRingLeave gaffer; exact ⟨_, .inl rfl⟩
  case query => cases h; simp only [exec]; unfold execQuery; exact ⟨_, .inl rfl⟩
  case counters => cases h; simp only [exec]; unfold execCounters; exact ⟨_, .inl rfl⟩
  case countersClear => cases h; simp only [exec]; unfold execCountersClear; exact ⟨_, .inl rfl⟩
  case powerStatus => cases h; simp only [exec]; unfold execPowerStatus gaffer; exact ⟨_, .inl rfl⟩
  case selectProfile => cases h; simp only [exec]; unfold execSelectProfile takeSelectProfile gaffer; exact ⟨_, .inl rfl⟩
  case fwStage => cases h; simp only [exec]; unfold execFwStage gaffer; exact ⟨_, .inl rfl⟩
  case attest => cases h; simp only [exec]; unfold execAttest; exact ⟨_, .inl rfl⟩
  case retireTile => cases h; simp only [exec]; unfold execRetireTile gaffer; exact ⟨_, .inl rfl⟩
  case faultRecordRead => cases h; simp only [exec]; unfold execFaultRecordRead gaffer; exact ⟨_, .inl rfl⟩
  case baseLoad => cases h; simp only [exec]; unfold execBaseLoad gaffer; exact ⟨_, .inl rfl⟩
  all_goals cases h

end Sys2Proof.Machine
end

