-- ==== Sys2Proof/Laws/Memory.lean ====
section
/-! SUPPORT. The laws of memory: reading after writing, and that every write keeps the canonical form. -/

namespace Sys2Proof.Machine

/-- Below every listed address memory reads zero. -/
theorem readByte_below {m : List Host.Cell} {x : Nat} (h : ∀ c ∈ m, x < c.1) : readByte m x = 0 := by
  induction m with
  | nil => rfl
  | cons c m ih =>
    obtain ⟨j, u⟩ := c
    have hj := h (j, u) (by simp)
    simp only at hj
    simp only [readByte]
    rw [if_neg (by omega)]
    exact ih (fun c hc => h c (List.mem_cons_of_mem _ hc))

/-- What a byte reads after one byte is written. -/
theorem readByte_writeByte {m : List Host.Cell} (h : Memory.wf m) (a b : Nat) (v : Byte) :
    readByte (writeByte m a v) b = if b = a then v else readByte m b := by
  induction m with
  | nil =>
    simp only [writeByte]
    by_cases hv : v = 0
    · rw [if_pos hv]; simp [readByte, hv]
    · rw [if_neg hv]; simp only [readByte, eq_comm (a := b)]
  | cons c m ih =>
    obtain ⟨k, w⟩ := c
    obtain ⟨hp, hz⟩ := h
    rw [List.pairwise_cons] at hp
    have ih := ih ⟨hp.2, fun c hc => hz c (List.mem_cons_of_mem _ hc)⟩
    have above : ∀ x, x ≤ k → readByte m x = 0 := fun x hx =>
      readByte_below (fun c hc => Nat.lt_of_le_of_lt hx (hp.1 c hc))
    simp only [writeByte]
    by_cases hk : k = a
    · subst hk
      rw [if_pos rfl]
      by_cases hv : v = 0
      · subst hv
        simp only [if_true, readByte]
        by_cases hb : b = k
        · subst hb; simp [above b (Nat.le_refl _)]
        · simp [hb, Ne.symm hb]
      · simp only [if_neg hv, readByte, eq_comm (a := b)]
        split <;> rfl
    · rw [if_neg hk]
      by_cases hl : k < a
      · rw [if_pos hl]
        simp only [readByte, ih]
        by_cases hb : k = b
        · subst hb; simp [hk]
        · simp [hb]
      · rw [if_neg hl]
        by_cases hv : v = 0
        · subst hv
          simp only [if_true]
          by_cases hb : b = a
          · subst hb
            simp only [readByte, if_true]
            rw [if_neg (by omega)]
            exact above b (by omega)
          · simp [hb]
        · simp only [if_neg hv, readByte, eq_comm (a := b)]

theorem mem_writeByte {m : List Host.Cell} {a : Nat} {v : Byte} {c : Host.Cell} (h : c ∈ writeByte m a v) :
    (c.1 = a ∧ c.2 = v ∧ v ≠ 0) ∨ c ∈ m := by
  induction m with
  | nil =>
    simp only [writeByte] at h
    split at h <;> simp_all
  | cons d m ih =>
    obtain ⟨k, w⟩ := d
    simp only [writeByte] at h
    split at h
    · split at h
      · exact .inr (List.mem_cons_of_mem _ h)
      · rcases List.mem_cons.1 h with rfl | h
        · exact .inl ⟨rfl, rfl, ‹_›⟩
        · exact .inr (List.mem_cons_of_mem _ h)
    · split at h
      · rcases List.mem_cons.1 h with rfl | h
        · exact .inr (by simp)
        · rcases ih h with h | h
          · exact .inl h
          · exact .inr (List.mem_cons_of_mem _ h)
      · split at h
        · exact .inr h
        · rcases List.mem_cons.1 h with rfl | h
          · exact .inl ⟨rfl, rfl, ‹_›⟩
          · exact .inr h

/-- A write of one byte keeps the canonical form. -/
theorem Memory.wf_writeByte {m : List Host.Cell} (h : Memory.wf m) (a : Nat) (v : Byte) : Memory.wf (writeByte m a v) := by
  refine ⟨?_, fun c hc => ?_⟩
  · obtain ⟨hp, -⟩ := h
    induction m with
    | nil => simp only [writeByte]; split <;> simp
    | cons d m ih =>
      obtain ⟨k, w⟩ := d
      rw [List.pairwise_cons] at hp
      simp only [writeByte]
      split
      · rename_i e; subst e
        split
        · exact hp.2
        · exact List.pairwise_cons.2 ⟨hp.1, hp.2⟩
      · split
        · refine List.pairwise_cons.2 ⟨fun c hc => ?_, ih hp.2⟩
          rcases mem_writeByte hc with ⟨h1, -⟩ | hc
          · simp only [h1]; assumption
          · exact hp.1 c hc
        · split
          · exact List.pairwise_cons.2 hp
          · refine List.pairwise_cons.2 ⟨fun c hc => ?_, List.pairwise_cons.2 hp⟩
            rcases List.mem_cons.1 hc with rfl | hc
            · simp only; omega
            · have := hp.1 c hc; simp only at this ⊢; omega
  · rcases mem_writeByte hc with ⟨-, h2, h3⟩ | hc
    · rw [h2]; exact h3
    · exact h.2 c hc

/-- A write of a run of bytes keeps the canonical form. -/
theorem Memory.wf_writeBytes {m : List Host.Cell} (h : Memory.wf m) (a : Nat) (l : Bytes) : Memory.wf (writeBytes m a l) := by
  induction l generalizing m a with
  | nil => exact h
  | cons b l ih => exact ih (Memory.wf_writeByte h a b) (a + 1)

/-- A write of words keeps the canonical form. -/
theorem Memory.wf_writeWords {m : List Host.Cell} (h : Memory.wf m) (a : Nat) (l : List Word) : Memory.wf (writeWords m a l) :=
  Memory.wf_writeBytes h a _

/-- Zeroing a range keeps the canonical form. -/
theorem Memory.wf_zeroRange {m : List Host.Cell} (h : Memory.wf m) (a n : Nat) : Memory.wf (zeroRange m a n) :=
  ⟨h.1.sublist List.filter_sublist, fun c hc => h.2 c (List.mem_of_mem_filter hc)⟩

/-- What a byte reads after a range is zeroed. -/
theorem readByte_zeroRange (m : List Host.Cell) (a n b : Nat) :
    readByte (zeroRange m a n) b = if a ≤ b ∧ b < a + n then 0 else readByte m b := by
  induction m with
  | nil => simp [zeroRange, readByte]
  | cons c m ih =>
    obtain ⟨k, w⟩ := c
    by_cases hk : k < a ∨ a + n ≤ k
    · have : zeroRange ((k, w) :: m) a n = (k, w) :: zeroRange m a n := by simp [zeroRange, hk]
      simp only [this, readByte, ih]
      by_cases hb : k = b
      · subst hb; rw [if_pos rfl, if_neg (by omega : ¬ (a ≤ k ∧ k < a + n)), if_pos rfl]
      · simp [hb]
    · have : zeroRange ((k, w) :: m) a n = zeroRange m a n := by simp [zeroRange, hk]
      simp only [this, readByte, ih]
      by_cases hb : k = b
      · subst hb; rw [if_pos (by omega : a ≤ k ∧ k < a + n), if_pos (by omega : a ≤ k ∧ k < a + n)]
      · simp [hb]

/-- A run of writes, each of which keeps the form, keeps it. -/
theorem Memory.wf_foldl {α : Type} {m : List Host.Cell} (h : Memory.wf m) (l : List α) (f : List Host.Cell → α → List Host.Cell)
    (hf : ∀ m a, Memory.wf m → Memory.wf (f m a)) : Memory.wf (l.foldl f m) := by
  induction l generalizing m with
  | nil => exact h
  | cons a l ih => exact ih (hf m a h)

/-- What a byte reads after a run is written. -/
theorem readByte_writeBytes {m : List Host.Cell} (h : Memory.wf m) (a b : Nat) (l : Bytes) :
    readByte (writeBytes m a l) b = if a ≤ b ∧ b < a + l.length then l.getD (b - a) 0 else readByte m b := by
  induction l generalizing m a with
  | nil => simp only [writeBytes, List.length_nil]; rw [if_neg (by omega)]
  | cons x l ih =>
    simp only [writeBytes, ih (Memory.wf_writeByte h a x), readByte_writeByte h, List.length_cons]
    by_cases hb : b = a
    · subst hb
      rw [if_neg (by omega), if_pos rfl, if_pos (by omega)]
      simp
    · rw [if_neg hb]
      by_cases h1 : a + 1 ≤ b ∧ b < a + 1 + l.length
      · rw [if_pos h1, if_pos (by omega)]
        have : b - a = (b - (a + 1)) + 1 := by omega
        rw [this]; simp
      · rw [if_neg h1, if_neg (by omega)]

end Sys2Proof.Machine
end

