-- ==== Sys2Proof/Machine/Layouts.lean ====
section
/-! DEFINITION. Byte layouts of what travels on a cane link, waits in the module area or rests in a page store: expert table entries, bundle
headers, frame headers and control blocks, page headers, image heads and cullet log records (R215, R219, R241, R324, R389, R396, R426, R429). -/

namespace Sys2Proof.Machine

/-- A 64-bit word from its fields, each a value, its width and its lowest bit; what no field covers is Rsv0. -/
def wordOf (l : List (Nat × Nat × Nat)) : Bytes := leBytes 8 ((l.map (fun f => f.1 % 2 ^ f.2.1 * 2 ^ f.2.2)).sum)

/-- Zeros up to a multiple of 8 bytes. -/
def padTo8 (b : Bytes) : Bytes := b ++ List.replicate ((8 - b.length % 8) % 8) 0

/-- The 16 bytes of an expert table entry (R215); fields of one kind only are Rsv0 in the others. -/
def ExpertEntry.bytes (e : ExpertEntry) : Bytes :=
  let extra (n : Nat) : Nat := if e.kind = 3 then n else 0
  wordOf [(e.kind, 4, 60), (if e.isLocal then 1 else 0, 1, 59), (e.home, 5, 52), (extra e.ctx, 10, 42), (extra e.variant, 17, 25),
          (extra e.extraNo, 3, 22), (e.expert, 16, 0)] ++
  wordOf [(if e.isLocal then e.weightsPage else 0, 32, 32), (e.epoch, 8, 0)]

/-- The 40 bytes of a bundle's header (R219). -/
def bundleHeader (b : Bundle) : Bytes :=
  wordOf [(b.kind, 4, 60), (b.elemFmt, 4, 56), (b.layer, 8, 48), (b.ctx, 10, 38), (b.variant, 17, 19), (b.expert, 16, 0)] ++
  wordOf [(b.parison, 32, 32), (b.rows - 1, 16, 16), (b.epoch, 8, 8), (b.srcPos, 5, 3), (if b.stash then 1 else 0, 1, 2)] ++
  wordOf [(b.step, 64, 0)] ++
  wordOf [(b.microBatch, 12, 52), (b.incarnation, 32, 0)] ++
  wordOf [(b.key, 64, 0)]

/-- Whether a message type names a context in its frame header (R241). -/
def namesCtx (msgType : Nat) : Bool := [1, 2, 3, 5].contains msgType

/-- The 16 bytes of a cane frame's header (R241). -/
def frameHeader (f : Frame) : Bytes :=
  wordOf [(f.msgType, 4, 60), (if f.bcast then 1 else 0, 1, 59), (if f.keyPhase then 1 else 0, 1, 58), (if f.bcast then 0 else f.dst, 5, 52),
          (f.src, 5, 47), (f.hops, 5, 42), (f.length, 13, 29), (if namesCtx f.msgType then f.ctx else 0, 10, 19), (f.tag, 16, 0)] ++
  wordOf [(f.linkSeq, 24, 40), (f.e2eSeq, 24, 16)]

/-- The 32 bytes of a control block (R241). -/
def controlBytes (c : Control) : Bytes :=
  leBytes 4 c.localFreed ++ leBytes 4 c.transitFreed ++ leBytes 4 c.escapeGen ++ leBytes 3 c.ackSeq ++
  leBytes 1 ((if c.rekeyReq then 2 else 0) + (if c.replayReq then 1 else 0)) ++ leBytes 1 (c.senderPos % 32) ++ leBytes 1 c.eqReq ++
  List.replicate 14 0

/-- The info that a link's keys are derived with (R423). -/
def sealInfo (k : LinkSeal) : Bytes :=
  [0x44, 0x4B, 0x37, 0x20, 0x4C, 0x49, 0x4E, 0x4B] ++ leBytes 8 k.lower ++ leBytes 8 k.higher ++ leBytes 1 k.port ++ leBytes 4 k.epoch

/-- The 96-bit nonce of a frame: the link epoch, then the frame number of its direction (R268). -/
def sealNonce (k : LinkSeal) : Bytes := leBytes 4 k.epoch ++ leBytes 8 k.frameNo

/-- The 65,536 bytes of a variant's header page on a member, from the tensors it owns in ascending index (R389): counters, the slot, the
exponents and quiet counts, the committed half of each, and the CRC. -/
def headerPage (v : Var) (owned : List Tensor) : Bytes :=
  let bits : List Nat := owned.map (fun x => if x.half then 1 else 0)
  let body := leBytes 8 v.stepCounter ++ leBytes 8 v.generation ++ wordOf [(1, 8, 56), (if v.curSlot then 1 else 0, 1, 55), (owned.length, 32, 0)] ++
    slice (v.sExp.map ofS8) 0 256 ++ slice (v.quiet.flatMap (leBytes 1)) 0 256 ++
    (List.range 1024).flatMap (fun i => leBytes 1 ((List.range 8).map (fun j => bits.getD (8 * i + j) 0 * 2 ^ j)).sum)
  let full := slice body 0 65532
  full ++ leBytes 4 (crc32c full)

/-- The 32 bytes of a page's clear header (R426). -/
def pageHeader (p : SealedPage) : Bytes :=
  leBytes 2 0x4750 ++ leBytes 1 1 ++ leBytes 1 p.kind ++ leBytes 4 p.incarnation ++ leBytes 8 p.pageSeq ++ leBytes 4 (p.variant % 2 ^ 17) ++
  leBytes 4 p.pageIndex ++ leBytes 4 p.pages ++ leBytes 2 p.ctx ++ leBytes 2 0

/-- The body of an image's head page without the zeros after it (R429). -/
def imageHeadBytes (h : ImageHead) : Bytes :=
  slice h.uid 0 16 ++ slice (Config.wrapSalt h.wrapEstate h.uid h.salt) 0 40 ++ slice h.estateKeyId 0 8 ++ leBytes 4 h.incarnation ++
  leBytes 4 h.dataPages ++ leBytes 8 h.baseSeq ++ leBytes 1 h.members ++ List.replicate 3 0 ++ leBytes 4 (h.variant % 2 ^ 17)

/-- A parameter of a packet (R301): its type, its length and its value, padded to a multiple of 4 bytes. -/
def paramBytes (p : Nat × Bytes) : Bytes :=
  leBytes 2 p.1 ++ leBytes 2 0 ++ leBytes 4 p.2.length ++ p.2 ++ List.replicate ((4 - p.2.length % 4) % 4) 0

/-- The bytes of a packet that the module sends (R298, R301, R302): the header with `reply` set, the status of a reply, the parameters. -/
def Packet.bytes (p : Packet) : Bytes :=
  let body := (match p.status with | some st => leBytes 2 st ++ leBytes 2 0 | none => []) ++ p.params.flatMap paramBytes
  leBytes 2 0x5141 ++ leBytes 1 1 ++ leBytes 1 p.minor ++ leBytes 2 (2 ^ 15 + p.opcode % 2 ^ 15) ++ leBytes 2 (if p.final then 1 else 0) ++
  leBytes 4 p.seq ++ leBytes 2 p.ctx ++ leBytes 2 0 ++ leBytes 4 (p.variant % 2 ^ 17) ++ leBytes 4 body.length ++ leBytes 8 0 ++ body

/-- The 64 bytes of a profile (R456). -/
def profileBytes (p : Profile) : Bytes :=
  leBytes 1 p.layer ++ leBytes 1 p.sparePolicy ++ leBytes 3 (p.ports.zipIdx.map (fun r => r.1 % 16 * 16 ^ r.2)).sum ++ leBytes 1 0 ++
  leBytes 1 p.split.read ++ leBytes 1 p.split.write ++ leBytes 1 p.split.remote ++ leBytes 1 p.expertTiles ++
  leBytes 1 (p.bulkPriority % 8 * 16 + p.cmdPriority % 8) ++ leBytes 1 p.resumable ++ leBytes 2 p.weight ++
  leBytes 1 p.caps.read ++ leBytes 1 p.caps.write ++ leBytes 1 p.caps.remote ++ leBytes 1 p.ringWeight ++ leBytes 2 p.maxCoreMhz ++
  leBytes 2 p.powerCap ++ leBytes 2 0 ++ leBytes 4 p.napAfter ++ leBytes 4 p.quietAfter ++ leBytes 4 p.dormantAfter ++ leBytes 4 0 ++
  leBytes 24 (p.dscp.zipIdx.map (fun r => r.1 % 8 * 8 ^ r.2)).sum

/-- A sample record (R324). -/
def sampleRecord (x : Sample) : Bytes := leBytes 4 x.length ++ x.flatMap (leBytes 4)

/-- The code of a record's kind (R396); a record that is open has none. -/
def kindCode : RecordKind → Nat
  | .committed => 1
  | .skippedGradient => 2
  | .skippedUpdate => 3
  | .stashExhausted => 4
  | .passed => 5
  | .opened => 0

/-- What follows a record's first 160 bytes; nothing for PASSED (R396). -/
def recordTail (r : LogRecord) : Bytes :=
  if r.kind = .passed then []
  else
    padTo8 (r.sAfter.map ofS8 ++ r.quietAfter.map (fun q => BitVec.ofNat 8 q)) ++ padTo8 (r.updateSet.flatMap (leBytes 4)) ++
    r.generations.flatMap (leBytes 8) ++ padTo8 (r.samples.flatMap sampleRecord)

/-- A cullet log record (R396). -/
def recordBytes (r : LogRecord) : Bytes :=
  let t := recordTail r
  wordOf [(kindCode r.kind, 4, 60), (r.schedule, 2, 58), (if r.automatic then 1 else 0, 1, 57), (if r.agreed then 1 else 0, 1, 56),
          (if r.degraded then 1 else 0, 1, 55), (if r.sStart.isSome then 1 else 0, 1, 54), (r.microBatches + 4095, 12, 40),
          (r.variant, 17, 0)] ++
  wordOf [(r.step, 64, 0)] ++ wordOf [(r.seed, 64, 0)] ++
  wordOf [(160 + t.length, 32, 32), (r.microRows, 32, 0)] ++
  wordOf [(r.groupSize, 16, 48), (r.owners.length, 8, 40), (r.tokens, 32, 0)] ++
  (List.range 32).map (fun i => BitVec.ofNat 8 (r.owners.getD i 0xFF)) ++
  leBytes 1 r.settings.rule ++ leBytes 1 r.settings.copyMode ++ leBytes 1 r.settings.k ++ leBytes 1 0 ++
  leBytes 2 r.settings.driftLimit ++ leBytes 2 r.updateSet.length ++
  [r.settings.lr, r.settings.weightDecay, r.settings.beta1, r.settings.beta2, r.settings.eps].flatMap (fun w => leBytes 4 w.toNat) ++
  leBytes 1 r.stash.region ++ leBytes 1 r.stash.policy ++ leBytes 2 r.stash.spill ++
  leBytes 4 r.lossSum.toNat ++ leBytes 2 r.sAfter.length ++ [ofS8 (r.sStart.getD 0)] ++ leBytes 1 0 ++ slice r.baseDigest 0 48 ++ t

end Sys2Proof.Machine
end

