-- ==== Sys2Proof/WellFormed.lean ====
section
/-! DEFINITION. Which commands are well formed: every operand fits the field the spec gives it. A command outside
these checks spells nothing the hardware could receive. -/

namespace Sys2Proof

/-- A number of `n` bits. -/
def fits (n v : Nat) : Bool := decide (v < 2 ^ n)

/-- An optional number of `n` bits. -/
def fitsOpt (n : Nat) (v : Option Nat) : Bool := match v with | some v => fits n v | none => true

/-- A percentage. -/
def percent (v : Nat) : Bool := decide (v ≤ 255)

/-- The header fields of a command (R298). -/
def Cmd.wf (c : Cmd) : Bool := fits 24 c.qp && fits 32 c.seq && fits 16 c.ctx && fits 17 c.variant

/-- A region (R324). -/
def Region.wf (r : Region) : Bool :=
  fits 24 r.qpn && fits 32 r.rkey && fits 64 r.address && fits 32 r.pages

/-- A tensor_ref (R324). -/
def TensorRef.wf : TensorRef → Bool
  | .own i => fits 31 i
  | .base l m => fits 8 l && fits 8 m

/-- A sample (R324): 1 to 65,536 tokens. -/
def Sample.wf (s : Sample) : Bool := decide (1 ≤ s.length) && decide (s.length ≤ 65536) && s.all (fits 32)

/-- Caps are one byte each (R331). -/
def Caps.wf (c : Caps) : Bool := percent c.read && percent c.write && percent c.remote

/-- Stash settings (R331). -/
def StashSet.wf (t : StashSet) : Bool := fits 8 t.region && fits 8 t.policy && fits 16 t.spill

/-- Parison settings (R331). -/
def ParisonSet.wf (p : ParisonSet) : Bool :=
  fits 32 p.fillRows && fits 32 p.prefillChunk && fits 16 p.holdLimit && fits 8 p.trainShare

/-- An optional operand whose check holds when it is given. -/
def optWf {α : Type} (f : α → Bool) : Option α → Bool
  | some a => f a
  | none => true

/-- CONTEXT_CREATE parameters (R331). -/
def CreateParams.wf (p : CreateParams) : Bool :=
  fitsOpt 16 p.groupSize && fitsOpt 16 p.groupFirst && fitsOpt 8 p.tileAlloc && fitsOpt 16 p.weight &&
  optWf Caps.wf p.caps && fitsOpt 8 p.ringWeight && optWf StashSet.wf p.stash && optWf ParisonSet.wf p.parison &&
  fitsOpt 16 p.parkLimit && optWf (fun g => fits 32 g.1 && fits 32 g.2) p.variantGrant &&
  optWf (fun l => l.all (fun n => decide (n < 2048))) p.slotGrant && optWf Region.wf p.pageStore && fitsOpt 64 p.seed &&
  fitsOpt 32 p.sampleQueue && optWf (fun r => fits 8 r.1 && fits 16 r.2) p.replica &&
  optWf (fun l => l.all (fits 32)) p.extents

/-- VARIANT_CREATE parameters (R337). -/
def VariantParams.wf (p : VariantParams) : Bool :=
  p.adapters.all (fun a => fits 8 a.layer && fits 8 a.matrix && fits 8 a.rank) &&
  p.experts.all (fun e => fits 8 e.extraNo && fits 16 e.baseExpert && e.layers.all (fits 8)) &&
  fits 64 p.initSeed && optWf (fun l => l.all (fits 8)) p.owners

/-- STEP parameters (R344). -/
def StepParams.wf (p : StepParams) : Bool :=
  p.samples.all Sample.wf && p.tensors.all TensorRef.wf && fits 32 p.microRows

/-- SET_RULE parameters (R346): s_start is one signed byte. -/
def RuleParams.wf (p : RuleParams) : Bool :=
  fitsOpt 8 p.rule && fitsOpt 8 p.copyMode && fitsOpt 8 p.k && fitsOpt 16 p.driftLimit &&
  optWf (fun v => decide (-128 ≤ v) && decide (v ≤ 127)) p.sStart && fitsOpt 8 p.stepSchedule && fitsOpt 16 p.learnBatch

/-- SUBMIT parameters (R351). -/
def SubmitParams.wf (p : SubmitParams) : Bool :=
  p.prompt.all (fits 32) && fits 32 p.maxTokens && fits 8 p.mode && fits 64 p.seed && p.stopTokens.all (fits 32)

/-- A cane frame's header fields (R241). -/
def Frame.wf (f : Frame) : Bool :=
  fits 4 f.msgType && fits 5 f.dst && fits 5 f.src && fits 6 f.hops && fits 16 f.length && fits 16 f.ctx &&
  fits 24 f.e2eSeq && fits 64 f.linkSeq

/-- A port of the module. -/
def portWf (p : Nat) : Bool := decide (p < 6)

/-- A logical tile. -/
def tileWf (t : Nat) : Bool := decide (t < 256)

/-- A quadrant. -/
def quadWf (q : Nat) : Bool := decide (q < 16)

/-- A bundle's positions and counts (R219). -/
def Bundle.wf (b : Bundle) : Bool :=
  decide (1 ≤ b.kind) && decide (b.kind ≤ 5) && fits 8 b.layer && fits 16 b.ctx && fits 17 b.variant && fits 32 b.parison && fits 8 b.epoch &&
  decide (b.srcPos < 32) && decide (b.rows ≤ 65536)

/-- Whether a command is well formed. -/
def Instr.wf : Instr → Bool
  | .sendReceived qp _ => fits 24 qp
  | .intakeRound => true
  | .hello c offers => c.wf && offers.all (fun o => fits 16 o.1 && fits 16 o.2)
  | .openSession c role key => c.wf && fits 8 role && decide (key.length = 32)
  | .closeSession c => c.wf
  | .keyAdd c role salt digest => c.wf && fits 8 role && decide (salt.length = 16) && decide (digest.length = 48)
  | .keyRemove c role slot => c.wf && fits 8 role && fits 8 slot
  | .contextCreate c p => c.wf && p.wf
  | .contextCreateComplete ctx refusal => fits 10 ctx && fitsOpt 16 refusal
  | .contextDestroy c => c.wf
  | .destroyComplete ctx => fits 10 ctx
  | .contextReset c => c.wf
  | .resetComplete ctx => fits 10 ctx
  | .contextSuspend c => c.wf
  | .contextResume c => c.wf
  | .contextShares c w caps rw => c.wf && fitsOpt 16 w && optWf Caps.wf caps && fitsOpt 8 rw
  | .transportUnitStop ctx => fits 10 ctx
  | .variantCreate c p => c.wf && p.wf
  | .variantDestroy c => c.wf
  | .variantImport c image owners => c.wf && image.wf && optWf (fun l => l.all (fits 8)) owners
  | .variantExport c dest => c.wf && dest.wf
  | .evict c => c.wf
  | .evictForce c => c.wf
  | .expertAttach c extraNo slot => c.wf && fits 8 extraNo && fits 16 slot
  | .expertDetach c extraNo => c.wf && fits 8 extraNo
  | .step c p => c.wf && p.wf
  | .eval c samples microRows every => c.wf && samples.all Sample.wf && fits 32 microRows && fits 16 every
  | .setRule c p => c.wf && p.wf
  | .freeze c tensors => c.wf && tensors.all TensorRef.wf
  | .thaw c tensors => c.wf && tensors.all TensorRef.wf
  | .checkpoint c dest _ => c.wf && dest.wf
  | .restore c image => c.wf && image.wf
  | .replay c first last log => c.wf && fits 64 first && fits 64 last && optWf Region.wf log
  | .submit c p => c.wf && p.wf
  | .cancel c target => c.wf && fits 32 target
  | .mapWindowInbound c window address length => c.wf && fits 8 window && fits 64 address && fits 64 length
  | .mapWindowOutbound c window host => c.wf && fits 8 window && host.wf
  | .mapWindowPresent c window first pages _ => c.wf && fits 8 window && fits 32 first && fits 32 pages
  | .mapWindowUnmap c window => c.wf && fits 8 window
  | .loadProgram c no program => c.wf && fits 8 no && decide (program.length % 80 = 0)
  | .runProgram c no => c.wf && fits 8 no
  | .streamOpen c desc => c.wf && decide (desc.length = 64)
  | .streamOpenResume c id => c.wf && fits 32 id
  | .streamClose c id => c.wf && fits 32 id
  | .ringJoin c image => c.wf && optWf Region.wf image
  | .ringLeave c => c.wf
  | .query c target => c.wf && fits 8 target
  | .counters c scope => c.wf && fits 8 scope
  | .countersClear c scope => c.wf && fits 8 scope
  | .powerStatus c => c.wf
  | .selectProfile c p => c.wf && fits 8 p
  | .selectProfileReset c p => c.wf && fits 8 p
  | .fwStage c image => c.wf && image.wf
  | .fwStageCheckDone _ => true
  | .fwActivate c => c.wf
  | .fwActivateTimeout => true
  | .gafferReturn => true
  | .attest c nonce contexts => c.wf && decide (nonce.length = 48) && optWf (fun l => l.all (fits 16)) contexts
  | .retireTile c t => c.wf && fits 16 t
  | .faultRecordRead c first count => c.wf && fits 8 first && fits 8 count
  | .baseLoad c image digest placement range =>
    c.wf && image.wf && decide (digest.length = 48) && optWf (fun l => l.all (fits 8)) placement &&
    optWf (fun r => fits 64 r.1 && fits 64 r.2) range
  | .baseLoadComplete _ => true
  | .eventPacketSend n => fits 10 n
  | .array ctx => fits 10 ctx
  | .stream ctx => fits 10 ctx
  | .waitStream ctx => fits 10 ctx
  | .waitTile ctx => fits 10 ctx
  | .boundary ctx => fits 10 ctx
  | .rounding ctx => fits 10 ctx
  | .derivative ctx => fits 10 ctx
  | .finiteCheck ctx _ => fits 10 ctx
  | .update ctx t _ => fits 10 ctx && tileWf t
  | .commit ctx t _ => fits 10 ctx && tileWf t
  | .nop t => tileWf t
  | .matmul t _ => tileWf t
  | .elementwise t _ => tileWf t
  | .marverFill t _ => tileWf t
  | .tileNapEntry t => tileWf t
  | .tileWakeComplete t => tileWf t
  | .unitStart ctx => fits 10 ctx
  | .unitEnd ctx cycles => fits 10 ctx && fits 64 cycles
  | .layerForwardEnd ctx z => fits 10 ctx && fits 8 z.layer
  | .spillWriteComplete ctx _ layer => fits 10 ctx && fits 8 layer
  | .stashBringBack ctx => fits 10 ctx
  | .layerContinue ctx _ => fits 10 ctx
  | .holdLimitExpiry ctx => fits 10 ctx
  | .fwdOut p fs b => portWf p && fs.all Frame.wf && b.wf
  | .fwdBack p fs b => portWf p && fs.all Frame.wf && b.wf
  | .bwdOut p fs b => portWf p && fs.all Frame.wf && b.wf
  | .bwdBack p fs b => portWf p && fs.all Frame.wf && b.wf
  | .bounce p fs b => portWf p && fs.all Frame.wf && b.wf
  | .bundleRun => true
  | .bundleRunEnd _ => true
  | .expertReplacementDone => true
  | .check v n => fits 17 v && fits 64 n
  | .updateLayer v n _ => fits 17 v && fits 64 n
  | .vote v n => fits 17 v && fits 64 n
  | .flip v n => fits 17 v && fits 64 n
  | .headerWriteComplete v n => fits 17 v && fits 64 n
  | .automaticStep v => fits 17 v
  | .loadPartPlaced v p => fits 17 v && decide (p < 32)
  | .writeOutComplete v => fits 17 v
  | .streamReserve _ => true
  | .copy _ => true
  | .strided _ => true
  | .reduceHop _ _ => true
  | .rotate _ => true
  | .pageOut _ => true
  | .pageIn _ _ => true
  | .transferLand _ _ bytes _ => decide (bytes.length ≤ 65536)
  | .streamStall _ => true
  | .patrolScrub a _ _ => fits 64 a
  | .frameForward p f => portWf p && f.wf
  | .caneStreamFrame p f => portWf p && f.wf
  | .reduce p f => portWf p && f.wf
  | .rollCallCollect p f => portWf p && f.wf
  | .rollCallPublish p f => portWf p && f.wf
  | .announce p f => portWf p && f.wf
  | .lldp p f d => portWf p && optWf Frame.wf f && fits 64 d.serial
  | .rekey p f => portWf p && f.wf
  | .idle p f => portWf p && f.wf
  | .rekeyDue p => portWf p
  | .ringSignalLoss p => portWf p
  | .linkEstablished p q _ => portWf p && decide (q.position < 32)
  | .linkHoldExpiry p => portWf p
  | .berWindow p _ => portWf p
  | .eqAdapt p lane _ request => portWf p && decide (lane < 8) && decide (request < 7)
  | .rollCallTimer => true
  | .collectPassTimeout => true
  | .anchorLost => true
  | .anchorBackoffExpiry => true
  | .noRingTimeout => true
  | .joinQuietPasses => true
  | .bypassSettled => true
  | .leaveDrained => true
  | .lldpTimer p => portWf p
  | .rocePacketReceive p f => portWf p && decide (f.priority < 8) && fits 24 f.qp
  | .cnpReceive qp => fits 24 qp
  | .cnpRateTimer qp => fits 24 qp
  | .pfcFrameReceive p priority _ _ => portWf p && decide (priority < 8)
  | .cmConnect p qp => portWf p && fits 24 qp
  | .fabricPortDown p => portWf p
  | .inboundRdmaAccess qp rkey a _ _ => fits 24 qp && fits 32 rkey && fits 64 a
  | .crossingTimeout src dst => fits 8 src && fits 8 dst
  | .quietEntry => true
  | .dormantEntry => true
  | .wakeComplete => true
  | .voltageLoopPeriod q _ => quadWf q
  | .frequencyLoopPeriod q _ => quadWf q
  | .thresholdLoopPeriod q _ => quadWf q
  | .supplyDroop q => quadWf q
  | .powerCapWindow w => fits 16 w
  | .powerReportWindow w => fits 16 w
  | .temperatureLevelChange source t => fits 8 source && decide (-128 ≤ t) && decide (t ≤ 127)
  | .nrstAssert => true
  | .nrstRelease => true
  | .profileResetRelease => true
  | .inputLoss => true
  | .overvoltage => true
  | .powerOn d => fits 16 d
  | .strapSample v => decide (v < 4)
  | .startupStepComplete _ => true
  | .entropyHealthFail => true
  | .drbgReseed => true
  | .frIndexWrite v => fits 8 v
  | .bmbRegisterWrite a v => fits 16 a && fits 8 v
  | .fabricPortLinkUp p => portWf p
  | .transportError qp => fits 24 qp
  | .caneTrainingFailed p => portWf p

end Sys2Proof
end

