-- ==== Sys2Proof/Tests/Slice0.lean ====
section
/-! SUPPORT. Tests of the model: smoke tests of the checks of well-formedness, one step of each family on a small state, and for each
statement with hypotheses a state and operands that meet them. -/

namespace Sys2Proof.Tests

set_option Elab.async false

open Sys2Proof Sys2Proof.Machine

/-! ## A small module -/

/-- A queue pair of port 0. -/
def qpOf (st : QpState) : Qp := ⟨0, st, 0, [], fullRate, fullRate, 0⟩

/-- A session. -/
def sessOf (serial qp : Nat) (role : Role) : Session := ⟨serial, qp, role, [], [], 0, 0, 0, 0⟩

/-- The operator's session, and the tenant's of context 0. -/
def opSess : Session := sessOf 1 1 .operator
def tenSess : Session := sessOf 2 2 (.tenant 0)

/-- The settings of a context with 16 tiles, and one variant slot, grant and page store. -/
def sets : Settings :=
  { settingsOf (Profile.shipped0 1) ⟨none, none, none, none, none, none, none, none, none, none, none, none, none, none, none, none, none⟩ 0 []
    with groupSize := 16, variantCount := 4, slotGrant := [0, 1], pageStore := some ⟨3, 7, 0, 4096⟩ }

/-- An ACTIVE context homed here. -/
def ctxA : Ctx := { newCtx true 1 (List.replicate 16 1) (some (List.replicate 32 2)) 5 0 sets none with st := .active }

/-- A base model of two layers, one of them with four routed experts. -/
def shape : BaseShape :=
  { digest := List.replicate 48 9, format := 1, layers := 2, dModel := 4, routed := 4, shared := 1, routerK := 2, renormalise := true,
    lengthLimit := 64, layerMap := [(0, 0, 4, 4), (1, 0, 4, 4)], baseGradients := [1, 1], moeLayers := [1], hidden := 4,
    sharedHidden := [4], kvBytes := 64, sharePages := 16, rangeBytes := [] }

/-- An adapter's A tensor, 4 x 8, and the variant that has it. -/
def infoA : TensorInfo := tensorInfo 0 0 0 4 8 8 1 false
def tensA : Tensor := newTensor 1 shape.digest ⟨[], [], 0, 0, none⟩ 0 infoA
def varA : Var := { State.reset.blankVar 0 [0] 2 0 with tensors := [tensA], manifestLen := 1, hbmPages := 8 }

/-- A module that is up: an operator's session on queue pair 1, a tenant's on 2, a queue pair in the HELLO state, one in the OPEN state,
context 0 with a resident variant, a base model, and sixteen tiles with a spare. -/
def up : State :=
  { State.reset with
    power := { Power.reset with mode := .active, ready := true, cold := false },
    fw := { Firmware.reset with running := some (Image.shipped 1) },
    base := { Base.reset with shape := some shape, pages := 16 },
    qps := [(1, qpOf (.session 0)), (2, qpOf (.session 1)), (3, qpOf .hello), (4, qpOf .openState)],
    sessions := [(0, opSess), (1, tenSess)], nextId := 3, ctxs := [(0, ctxA)], createCounts := [(0, 1)], vars := [(0, varA)],
    phys := (List.range 16).map (fun i => (i, i)), spares := [(0, 16)],
    tiles := (List.range 16).map (fun i => (i, { Tile.reset with power := .idle })),
    ports := [(0, { Port.reset with up := true }), (1, { Port.reset with up := true })], hbmFree := 100000 }

/-- A command on the operator's session, and on the tenant's. -/
def cmd : Cmd := ⟨1, 1, 0, 0⟩
def tcmd : Cmd := ⟨2, 1, 0, 0⟩

/-- The check of `Takes`. -/
def takesB (k : OpSpec) (c : Cmd) (n : Nat) (ss : Session) (s : State) : Bool :=
  (match s.reaches c.qp with | some q => decide (q.st = .session n) | none => false) && decide (s.sessions.find n = some ss) &&
  !ss.awaits c.seq && decide (generalCheck k c ss s = none)

theorem takes_of {k : OpSpec} {c : Cmd} {n : Nat} {ss : Session} {s : State} (h : takesB k c n ss s = true) : Takes k c n ss s := by
  simp only [takesB, Bool.and_eq_true, Bool.not_eq_true', decide_eq_true_eq] at h
  obtain ⟨⟨⟨a, b⟩, d⟩, e⟩ := h
  refine ⟨?_, b, d, e⟩
  cases hq : s.reaches c.qp with
  | none => simp [hq] at a
  | some q => exact ⟨q, rfl, by simpa [hq] using a⟩

/-- The check of `Uses`. -/
def usesB (op : Nat) (c : Cmd) (n : Nat) (ss : Session) (v : Var) (s : State) : Bool :=
  takesB (specOf op) c n ss s && s.granted c.ctx c.variant && decide (s.var c.variant = some v) && decide (v.st = .resident)

theorem uses_of {op : Nat} {c : Cmd} {n : Nat} {ss : Session} {v : Var} {s : State} (h : usesB op c n ss v s = true) :
    Uses op c n ss v s := by
  simp only [usesB, Bool.and_eq_true, decide_eq_true_eq] at h
  obtain ⟨⟨⟨a, b⟩, d⟩, e⟩ := h
  exact ⟨takes_of a, b, d, e⟩


/-- The check of `Clear`. -/
theorem clear_of {s : State} {ss : Session} (h : (decide (ss.egress = []) && !s.paused ss.qp s.profile.cmdPriority) = true) :
    Clear s ss := by
  simp only [Bool.and_eq_true, decide_eq_true_eq, Bool.not_eq_true'] at h
  exact h

/-! ## General checks and sessions -/

/-- The module in the last step of start-up, its gaffer up and not READY. -/
def starting : State := { up with power := { up.power with mode := .starting 8, ready := false } }

/-- A key of the operator. -/
def keyed : State :=
  { up with flash := { up.flash with operatorKeys := [(0, ⟨[1#8], sha384 ([1#8] ++ [2#8])⟩), (1, ⟨[], List.replicate 48 0⟩)] },
            ctxs := [(0, { ctxA with keys := [(3, ⟨[1#8], []⟩)] })] }

theorem witness_tables_in_order : ∃ t, State.reset.TablesOk ∧ step { State.reset with pending := [.powerOn 0] } = .next t := by
  refine ⟨State.reset, ?_, rfl⟩
  simp only [State.TablesOk, Memory.wf, Tab.wf]
  decide +kernel

theorem witness_turned_away :
    (gafferSpec (.ringLeave tcmd) = some (specOf opRingLeave, tcmd) ∧ up.reaches 2 = some (qpOf (.session 1)) ∧
      up.sessions.find 1 = some tenSess ∧ tenSess.awaits tcmd.seq = false ∧ up.power.resetAfter = none ∧ up.fw.activateTicket = none ∧
      generalCheck (specOf opRingLeave) tcmd tenSess up = some stNotPermitted) ∧
    (gafferSpec (.ringLeave { cmd with qp := 3 }) = some (specOf opRingLeave, { cmd with qp := 3 }) ∧
      (specOf opRingLeave).op ≠ opHello ∧ up.reaches 3 = some (qpOf .hello) ∧ up.reaches 4 = some (qpOf .openState)) := by decide +kernel

theorem witness_before_ready :
    (starting.reaches 1 = some (qpOf (.session 0)) ∧ starting.power.ready = false ∧
      gafferSpec (.query cmd 0) = some (querySpec 0, cmd) ∧ gafferSpec (.ringLeave cmd) = some (specOf opRingLeave, cmd) ∧
      starting.sessions.find 0 = some opSess ∧ opSess.awaits cmd.seq = false) ∧
    ({ keyed with power := starting.power }.reaches 4 = some (qpOf .openState) ∧
      (keyed.keysFor 0 0).any (fun k => k.accepts [2#8]) = true ∧ keyed.sessions.lowestFree 1024 = some 2) ∧
    starting.reaches 3 = some (qpOf .hello) ∧ starting.qps.find 3 = some (qpOf .hello) := by decide +kernel

theorem witness_reading :
    Clear up opSess ∧ Takes (querySpec 0) cmd 0 opSess up ∧ up.queryAllowed 0 opSess.role.isTenant = true ∧
    Takes (countersSpec 0) cmd 0 opSess up ∧ Takes (countersSpec 1) tcmd 1 tenSess up ∧ Takes (specOf opPowerStatus) cmd 0 opSess up ∧
    Takes (specOf opFaultRecordRead) cmd 0 opSess up := by
  refine ⟨clear_of ?_, takes_of ?_, ?_, takes_of ?_, takes_of ?_, takes_of ?_, takes_of ?_⟩ <;> decide +kernel

/-- Nine offers of HELLO. -/
def offers : List (Nat × Nat) := List.replicate 9 (1, 0)

theorem witness_hello :
    up.reaches 3 = some (qpOf .hello) ∧ up.qps.find 3 = some (qpOf .hello) ∧ 8 < offers.length ∧ ((1, 0) ∈ offers.take 8) ∧
    (∀ o ∈ [(2, 7)], o.1 ≠ 1) ∧ (∀ o ∈ offers.take 8, o.1 = 1 → o.2 ≤ 0) ∧ up.reaches 4 = some (qpOf .openState) ∧
    Takes (specOf opHello) cmd 0 opSess up := by
  refine ⟨?_, ?_, ?_, ?_, ?_, ?_, ?_, takes_of ?_⟩ <;> decide +kernel

/-- A table of one value. -/
theorem find_same {α : Type} (l : List Nat) (v : α) (i : Nat) (h : i ∈ l) : Tab.find (l.map (fun n => (n, v))) i = some v := by
  induction l with
  | nil => cases h
  | cons a l ih =>
    by_cases e : a = i
    · simp [Tab.find, e]
    · have : i ∈ l := by
        cases h with
        | head => exact absurd rfl e
        | tail _ m => exact m
      simpa [Tab.find, e] using ih this

theorem witness_open_session :
    keyed.reaches 4 = some (qpOf .openState) ∧ keyed.qps.find 4 = some (qpOf .openState) ∧
    (∃ k ∈ keyed.keysFor 0 0, sha384 (k.salt ++ [2#8]) = k.digest) ∧ keyed.sessions.lowestFree 1024 = some 2 ∧
    ¬ (∃ k ∈ keyed.keysFor 1 0, sha384 (k.salt ++ [2#8]) = k.digest) ∧
    ({ up with sessions := (List.range 1024).map (fun n => (n, opSess)) }.sessions.lowestFree 1024 = none) := by
  refine ⟨by decide +kernel, by decide +kernel, ⟨⟨[1#8], sha384 ([1#8] ++ [2#8])⟩, ?_, ?_⟩, by decide +kernel, ?_, ?_⟩
  · show _ ∈ [_, _]
    simp
  · simp only
  · show ¬ ∃ k ∈ [(⟨[1#8], []⟩ : KeySlot)], _
    simp only [List.mem_singleton, exists_eq_left]
    intro h
    have := congrArg List.length h
    revert this
    decide +kernel
  · simp only [Tab.lowestFree, List.find?_eq_none]
    intro i hi
    rw [find_same _ opSess i hi]
    decide

theorem witness_close_session :
    Takes (specOf opCloseSession) cmd 0 opSess up ∧ Clear up opSess ∧ opSess.qp = cmd.qp ∧ up.qps.find cmd.qp = some (qpOf (.session 0)) ∧
    up.requests = [] ∧ up.park = [] ∧ up.evals = [] := by
  refine ⟨takes_of ?_, clear_of ?_, ?_, ?_, ?_, ?_, ?_⟩ <;> decide +kernel

/-- Every slot of the operator's keys filled. -/
def fullKeys : State := { up with flash := { up.flash with operatorKeys := (List.range 8).map (fun i => (i, ⟨[], []⟩)) } }

theorem witness_session_keys :
    Takes (keySpec opKeyAdd 0) cmd 0 opSess up ∧ up.flash.operatorKeys.lowestFree 8 = some 1 ∧
    Takes (keySpec opKeyAdd 0) cmd 0 opSess fullKeys ∧ fullKeys.flash.operatorKeys.lowestFree 8 = none ∧
    Takes (keySpec opKeyRemove 0) cmd 0 opSess up ∧ up.flash.operatorKeys.keys = [0] ∧ fullKeys.flash.operatorKeys.keys ≠ [0] ∧
    Takes (keySpec opKeyRemove 0) cmd 0 opSess fullKeys ∧ Clear fullKeys opSess ∧
    up.ctx 0 = some ctxA ∧ Takes (keySpec opKeyAdd 1) cmd 0 opSess up ∧ ctxA.keys.lowestFree 4 = some 0 ∧
    Takes (keySpec opKeyRemove 1) cmd 0 opSess up ∧ Clear up opSess := by
  refine ⟨takes_of ?_, ?_, takes_of ?_, ?_, takes_of ?_, ?_, ?_, takes_of ?_, clear_of ?_, ?_, takes_of ?_, ?_, takes_of ?_, clear_of ?_⟩ <;>
    decide +kernel

theorem witness_event_packet :
    { up with sessions := [(0, { opSess with egress := [.event readyEvent, .event readyEvent] })] }.sessions.find 0 =
      some { opSess with egress := [.event readyEvent, .event readyEvent] } ∧ up.paused 1 up.profile.cmdPriority = false ∧
    (∀ g ∈ [Egress.event readyEvent].head?, ∃ x, g = .event x) := by
  refine ⟨by decide +kernel, by decide +kernel, ?_⟩
  simp

/-! ## Arrival and rounds -/

theorem witness_send :
    up.qps.find 3 = some (qpOf .hello) ∧ (up.port 0).up = true ∧ up.portsRun = true ∧ (up.port 0).rx = [] ∧ (up.port 0).xoffSent = [] ∧
    (qpOf .hello).inbox.length < 32 ∧ up.poolUsed + 1048576 ≤ 2 ^ 30 ∧
    32 ≤ ({ qpOf .hello with inbox := List.replicate 32 [] }).inbox.length := by decide +kernel

/-- A 32-byte packet header of a protocol major. -/
def header (major : Byte) : Bytes := [0x41#8, 0x51#8, major] ++ List.replicate 29 0

/-- One packet waits on one queue pair without a session. -/
def waiting (p : Bytes) : State := { up with qps := [(3, { qpOf .hello with inbox := [p] })], sessions := [], vars := [] }

theorem witness_round :
    (waiting (header 2)).gafferUp = true ∧ (waiting (header 2)).fw.activateTicket = none ∧ phDropped (List.replicate 3 0) = true := by
  decide +kernel

/-! ## Profiles, firmware, attestation -/

/-- A staged image, and what is left while FW_ACTIVATE runs. -/
def staged : State := { up with flash := { up.flash with staged := true, slotB := some (Image.shipped 1) } }
def activating : State :=
  { up with fw := { up.fw with offline := true, switched := true, activateTicket := some ⟨0, 1, 1, 1, opFwActivate, 0, 0⟩ } }

theorem witness_profile :
    Takes (specOf opSelectProfile) cmd 0 opSess up ∧ Clear up opSess ∧ up.fw.running = some (Image.shipped 1) ∧
    imageProfile up.fuses.grade 1 (Image.shipped 1) = some (Profile.shipped1 1) := by
  refine ⟨takes_of ?_, clear_of ?_, ?_, ?_⟩ <;> decide +kernel

theorem witness_fw_stage :
    Takes (specOf opFwStage) cmd 0 opSess up ∧ up.imageOk (Image.shipped 1) = true ∧
    { up with fw := { up.fw with stageTickets := [⟨0, 1, 1, 1, opFwStage, 0, 0⟩] } }.gafferUp = true := by
  refine ⟨takes_of ?_, ?_, ?_⟩ <;> decide +kernel

theorem witness_fw_activate :
    Takes (specOf opFwActivate) cmd 0 opSess staged ∧ staged.flash.staged = true ∧ staged.flash.otherSlot = some (Image.shipped 1) ∧
    staged.imageOk (Image.shipped 1) = true ∧ activating.fw.offline = true ∧ activating.fw.switched = true ∧
    activating.fw.running = some (Image.shipped 1) ∧ activating.fw.heldAttests = [] := by
  refine ⟨takes_of ?_, ?_, ?_, ?_, ?_, ?_, ?_, ?_⟩ <;> decide +kernel

theorem witness_attest :
    Takes (specOf opAttest) cmd 0 opSess up ∧ Takes (specOf opAttest) tcmd 1 tenSess up ∧ Clear up opSess ∧ Clear up tenSess ∧
    up.fw.activateTicket = none ∧ (List.replicate 64 1023).length ≤ 64 ∧ ∀ x ∈ List.replicate 64 1023, x < 1024 := by
  refine ⟨takes_of ?_, takes_of ?_, clear_of ?_, clear_of ?_, ?_, ?_, ?_⟩ <;> decide +kernel

/-! ## Start-up, resets, power -/

/-- A start-up step in progress. -/
def atStep (n : Nat) : State := { State.reset with power := { Power.reset with mode := .starting n } }

/-- A mode of power. -/
def inMode (m : Mode) : State := { up with power := { up.power with mode := m } }

theorem witness_startup :
    (atStep 1).board.nrstLow = false ∧ (atStep 2).bootImage = some ((Image.shipped 1), false) ∧ (atStep 2).flash.bootCount < 0xFFFFFFFF ∧
    (atStep 2).flash.powerLost = false ∧ { atStep 4 with fw := up.fw }.chosenProfile.isSome ∧ (atStep 6).profile.sparePolicy = 0 ∧
    (atStep 6).flash.retired = [] ∧ (atStep 8).ring.st = .out ∧
    { atStep 8 with phys := (List.range 256).map (fun i => (i, i % 16)) }.vacantCount = 0 := by decide +kernel

theorem witness_coincident_resets :
    (inMode (.warmReset true)).power.mode = .warmReset true ∧ (atStep 8).power.mode = .starting 8 ∧
    (atStep 1).power.mode = .starting 1 ∧ activating.fw.activateTicket.isSome ∧ activating.power.mode = .active ∧ activating.flash.activeSlot = some (Image.shipped 1) ∧
    activating.imageOk (Image.shipped 1) = true ∧ activating.flash.bootCount < 0xFFFFFFFF ∧ (inMode .dormant).power.mode = .dormant := by
  decide +kernel

theorem witness_resets :
    up.power.mode = .active ∧ (inMode (.warmReset false)).board.nrstLow = false ∧ up.power.mode ≠ .unpowered ∧ up.rotStarted = true := by
  decide +kernel

/-- A module with the loops of quadrant 0. -/
def looping (k : Quadrant) : State := { up with power := { up.power with quads := [(0, k)] } }

theorem witness_straps_and_loops :
    (atStep 1).power.stepOneDone = false ∧ up.power.mode ≠ .starting 1 ∧
    ({ up with drbgRequests := 2 ^ 20 }.rotStarted = true) ∧ up.busUp = true ∧ (looping Quadrant.reset).loopRuns 0 = true ∧
    (looping Quadrant.reset).power.quads.find 0 = some Quadrant.reset ∧ up.power.level = 0 ∧ up.power.pacing = 0 ∧
    ({ looping Quadrant.reset with power := { (looping Quadrant.reset).power with level := 1 } }.loopRuns 0 = true) := by decide +kernel

theorem witness_power :
    up.power.mode ≠ .unpowered ∧ up.power.pacing ≤ 15 ∧ up.profile.powerCap < 1401 ∧ sensorExists up.fuses.grade 0 = true ∧
    up.running = true := by decide +kernel

/-- A module with nothing to do. -/
def idle : State := { up with ctxs := [], sessions := [], vars := [], profile := (Profile.shipped1 1) }

theorem witness_sleep :
    0 < up.profile.quietAfter ∧ up.fw.offline = false ∧ up.idleNow = true ∧
    (let s := { idle with power := { up.power with mode := .quiet } }
     s.power.waking = false ∧ 0 < s.profile.dormantAfter ∧ s.idleNow = true ∧ s.ctxs = [] ∧ s.sessions = []) ∧
    (let s := { idle with power := { up.power with mode := .quiet, waking := true } }
     s.power.thermalDue = [] ∧ (s.link 2).localPool = [] ∧ (s.link 3).localPool = []) := by decide +kernel


/-! ## Contexts -/

/-- The module with another context 0. -/
def withCtx (c : Ctx) : State := { up with ctxs := [(0, c)] }

/-- The parameters of a creation: sixteen tiles from 0, a page store and one variant. -/
def create : CreateParams :=
  { groupSize := some 16, groupFirst := some 0, pageStore := some ⟨3, 7, 0, 16⟩, variantGrant := some (10, 4), seed := some 5 }

/-- Context 1 of the operator. -/
def cmd1 : Cmd := { cmd with ctx := 1, seq := 9 }

theorem witness_context_create :
    Takes (specOf opContextCreate) cmd1 0 opSess up ∧ up.transport = false ∧ create.pageStore.isSome = true ∧ createInRange create = true ∧
    up.grantTaken (create.variantGrant.getD (0, 0)) = false ∧ up.slotTaken (create.slotGrant.getD []) = false ∧
    up.createCount 1 < 0xFFFF ∧ up.placeGroup create = .inr (0, 8) ∧ (settingsOf up.profile create 0 []).hbmPages ≤ up.hbmFree := by
  refine ⟨takes_of ?_, ?_, ?_, ?_, ?_, ?_, ?_, ?_, ?_⟩ <;> decide +kernel

theorem witness_context_created :
    ∃ t, (withCtx { ctxA with st := .creating, createTicket := some t }).ctx 0 = some { ctxA with st := .creating, createTicket := some t } ∧
      ctxA.home = true ∧ (withCtx { ctxA with st := .creating, createTicket := some t }).ctxWaits 0 = false :=
  ⟨ticketOf cmd opContextCreate 0 1, rfl, rfl, rfl⟩

theorem witness_context_busy :
    let s : State := { up with hbmFree := 0, vars := [] }
    Takes (specOf opContextCreate) cmd1 0 opSess s ∧ s.placeGroup create = .inr (0, 8) ∧
    s.hbmFree + s.comingFree + s.reclaimable < (settingsOf s.profile create 0 []).hbmPages := by
  refine ⟨takes_of ?_, ?_, ?_⟩ <;> decide +kernel

/-- A running unit of context 0. -/
def runA : Running := ⟨.program, List.range 16⟩

theorem witness_pause_and_shares :
    Takes (specOf opContextSuspend) cmd 0 opSess up ∧ ctxA.st = .active ∧ ctxA.running = none ∧
    Takes (specOf opContextSuspend) cmd 0 opSess (withCtx { ctxA with running := some runA }) ∧
    Takes (specOf opContextResume) cmd 0 opSess (withCtx { ctxA with st := .suspended }) ∧
    Takes (specOf opContextShares) cmd 0 opSess up ∧ given (some 65535) (weightOk 65535) = true ∧ given (some 255) (weightOk 255) = true ∧
    given (some ⟨5, 5, 100⟩) capsOk = true ∧ up.ctx 0 = some ctxA ∧
    Takes (specOf opContextSuspend) cmd 0 opSess (withCtx { ctxA with st := .suspended }) ∧
    Takes (specOf opContextResume) cmd 0 opSess up ∧ up.onRing = false := by
  refine ⟨takes_of ?_, ?_, ?_, takes_of ?_, takes_of ?_, takes_of ?_, ?_, ?_, ?_, ?_, takes_of ?_, takes_of ?_, ?_⟩ <;> decide +kernel

/-- Context 0 with a suspend that waits for some members. -/
def pausing (l : List Nat) : Ctx :=
  { ctxA with st := .suspended, suspendTickets := [ticketOf cmd opContextSuspend 0 1], awaitQuiet := l }

theorem witness_reset_and_destroy :
    Takes (specOf opContextReset) cmd 0 opSess up ∧ ctxA.st ≠ .resetting ∧ up.createCount 0 < 0xFFFF ∧
    Takes (specOf opContextReset) cmd 0 opSess (withCtx { ctxA with st := .resetting }) ∧
    Takes (specOf opContextDestroy) cmd 0 opSess up ∧ ctxA.resetTickets = [] ∧
    (withCtx { ctxA with st := .resetting }).workLeft 0 = false ∧
    ({ withCtx { ctxA with st := .destroying } with sessions := [(0, opSess)] }.workLeft 0 = false ∧
      { withCtx { ctxA with st := .destroying } with sessions := [(0, opSess)] }.sessionsOf 0 = []) ∧
    (withCtx { ctxA with st := .destroying, running := some runA }).ctx 0 = some { ctxA with st := .destroying, running := some runA } := by
  refine ⟨takes_of ?_, ?_, ?_, takes_of ?_, takes_of ?_, ?_, ?_, ?_, ?_⟩ <;> decide +kernel

/-! ## Variants -/

/-- The module with another variant 0. -/
def withVar (v : Var) : State := { up with vars := [(0, v)] }

/-- One adapter of rank 8 on the first matrix. -/
def adapterParams : VariantParams := ⟨[⟨0, 0, 8, false, 0x3F800000#32, 0x3F800000#32⟩], [], 1, 0x3F800000#32, none⟩

/-- Variant 1 of context 0, of the operator. -/
def vcmd : Cmd := { cmd with variant := 1 }

theorem witness_variant_create :
    Clear up opSess ∧ up.granted 0 1 = true ∧ up.base.shape = some shape ∧ up.var 1 = none ∧
    Takes (specOf opVariantCreate) vcmd 0 opSess up ∧ createOk shape adapterParams = true ∧ up.ownersOk (up.ownersOf none) = true ∧
    (∃ s : State, Takes (specOf opVariantCreate) vcmd 0 opSess s ∧
      Config.variantHbm ((List.range shape.layers).flatMap (layerTensors shape adapterParams)) ≤ s.hbmFree) ∧
    Takes (specOf opVariantImport) vcmd 0 opSess up := by
  refine ⟨clear_of ?_, ?_, ?_, ?_, takes_of ?_, ?_, ?_,
    ⟨{ up with hbmFree := Config.variantHbm ((List.range shape.layers).flatMap (layerTensors shape adapterParams)) }, takes_of ?_,
      Nat.le_refl _⟩, takes_of ?_⟩ <;> decide +kernel

theorem witness_variants_leave :
    up.granted 0 0 = true ∧ up.var 0 = some varA ∧ varA.st = .resident ∧ varA.forDestroy = false ∧ varA.restore = none ∧
    varA.evictTickets = [] ∧ up.evals = [] ∧ Takes (specOf opVariantDestroy) cmd 0 opSess up ∧ varA.pins = 0 ∧
    Takes (specOf opVariantDestroy) cmd 0 opSess (withVar { varA with pins := 1 }) ∧ Takes (specOf opEvict) cmd 0 opSess up ∧
    Takes (specOf opEvict) cmd 0 opSess (withVar { varA with dirty := false }) ∧ varA.pendingPins = 0 ∧
    Takes (specOf opEvict) cmd 0 opSess (withVar { varA with pins := 1 }) ∧ Takes (specOf opEvict) tcmd 1 tenSess up := by
  refine ⟨?_, ?_, ?_, ?_, ?_, ?_, ?_, takes_of ?_, ?_, takes_of ?_, takes_of ?_, takes_of ?_, ?_, takes_of ?_, takes_of ?_⟩ <;>
    decide +kernel

/-- An extra expert in a slot, or in none. -/
def extra (slot : Option Nat) : Extra := ⟨⟨0, 1, 0x3F800000#32, [1]⟩, slot⟩
def varX (slot : Option Nat) : Var := { varA with extras := [extra slot] }

theorem witness_extra_experts :
    Uses opExpertAttach cmd 0 opSess (varX none) (withVar (varX none)) ∧ ctxA.settings.slotGrant.contains 1 = true ∧
    (withVar (varX none)).vacantPos (1 / 64) = false ∧ (withVar (varX none)).slotAttached 1 = false ∧
    (varX none).extras.find? (fun e => decide (e.decl.extraNo = 0)) = some (extra none) ∧
    Uses opExpertAttach cmd 0 opSess (varX (some 1)) (withVar (varX (some 1))) ∧ (withVar (varX (some 1))).slotAttached 1 = true ∧
    Uses opExpertDetach cmd 0 opSess (varX (some 1)) (withVar (varX (some 1))) ∧ (extra (some 1)).slot = some 1 := by
  refine ⟨uses_of ?_, ?_, ?_, ?_, ?_, uses_of ?_, ?_, uses_of ?_, ?_⟩ <;> decide +kernel

theorem witness_images :
    Uses opVariantExport cmd 0 opSess varA up ∧ Uses opCheckpoint cmd 0 opSess varA up ∧ varA.pins < 65535 ∧
    (∃ d e : Region, d.pages < (exportBodies (up.atBoundary 0 varA) ctxA.seed false).length + 1 ∧ (exportBodies (up.atBoundary 0 varA) ctxA.seed false).length + 1 ≤ e.pages) ∧
    Takes (specOf opRestore) cmd 0 opSess (withVar { varA with st := .absent }) ∧
    Takes (specOf opRestore) cmd 0 opSess (withVar { varA with
      restore := some ⟨ticketOf cmd opRestore 0 1, ⟨3, 7, 0, 16⟩, false, false, false⟩ }) ∧
    Uses opReplay cmd 0 opSess varA up := by
  refine ⟨uses_of ?_, uses_of ?_, ?_, ⟨⟨3, 7, 0, 0⟩, ⟨3, 7, 0, (exportBodies (up.atBoundary 0 varA) ctxA.seed false).length + 1⟩, Nat.succ_pos _, Nat.le_refl _⟩,
    takes_of ?_, takes_of ?_, uses_of ?_⟩ <;> decide +kernel

/-- A stream of the module's own. -/
def ownStream (use : StreamUse) (kind total : Nat) : Strm :=
  { ctx := 0, id := 0, use := use, kind := kind, engine := 4, desc := [], st := .running, issued := 0, outstanding := [], landed := [],
    pages := [], head := none, region := some ⟨3, 7, 0, 16⟩, baseSeq := 0, total := total,
    credits := 1, classes := [2], halves := 0, consumed := 0, discard := false, later := none }

theorem witness_loads :
    (withVar { varA with st := .loading, partsWaiting := [0, 1] }).var 0 = some { varA with st := .loading, partsWaiting := [0, 1] } ∧
    (∃ q ∈ [0, 1], q ≠ 0) ∧ (∀ q ∈ [0], q = 0) ∧ up.park = [] ∧
    (∃ k x, { withVar { varA with st := .writing } with streams := [(3, ownStream (.writeOut 0) 5 0)] }.streams.find k = some x ∧
      x.use = .writeOut 0 ∧ x.discard = false ∧ x.landed.length = x.total ∧ x.outstanding = []) := by
  refine ⟨?_, ?_, ?_, ?_, 3, ownStream (.writeOut 0) 5 0, ?_, ?_, ?_, ?_, ?_⟩ <;> decide +kernel

/-! ## Training -/

/-- Parameters of SET_RULE in range at their edges, and out of it. -/
def ruleEdge : RuleParams := { rule := some 3, k := some 64, sStart := some (-128), learnBatch := some 1 }

theorem witness_settings :
    Uses opSetRule cmd 0 opSess varA up ∧ RuleInRange ruleEdge = true ∧ Uses opFreeze cmd 0 opSess varA up ∧
    up.inLayerMap 1 0 = true ∧ up.refsExist varA [.own 0] = true ∧ Takes (specOf opSetRule) cmd 0 opSess up ∧ up.granted 0 0 = true ∧
    (∃ k, ({ k := some 65 } : RuleParams).k = some k ∧ (k < 2 ∨ 64 < k)) := by
  refine ⟨uses_of ?_, ?_, uses_of ?_, ?_, ?_, takes_of ?_, ?_, 65, rfl, ?_⟩ <;> decide +kernel

/-- A STEP of one sample, the step it makes and the record it opens. -/
def stepP : StepParams := ⟨[[1, 2]], [], false, 32⟩
def stepA : TStep := up.newStep varA ctxA 0 0 (some (ticketOf cmd opStep 0 1)) stepP stepP.samples 3
def recA : LogRecord := up.openRecord varA ctxA stepA false

/-- The module with a page store just large enough for that record. -/
def roomy : State :=
  withCtx { ctxA with settings := { ctxA.settings with pageStore := some ⟨3, 7, 0, Config.logPages ([] ++ [recA])⟩ } }

theorem witness_step_and_eval :
    up.TablesOk ∧ varA.pins < 65535 ∧ Uses opStep cmd 0 opSess varA roomy ∧ stepP.samples ≠ [] ∧ stepP.takeQueue = false ∧
    samplesOk stepP.samples = true ∧ roomy.microRowsOk 32 = true ∧ varA.refuseTensors [] = none ∧
    (batchesOf 32 stepP.samples).all (fun b => roomy.gradsFit (tokensOf b)) = true ∧ varA.largestGiven < 2 ^ 64 - 1 ∧
    roomy.recordFits 0 { varA with log := [] } recA = true ∧ Uses opEval cmd 0 opSess varA up ∧ tokensOf [[1, 2]] ≤ 65536 ∧
    (up.evalsFor (fun e => decide (e.ctx = 0) && decide (0 < e.every))).length < 4 := by
  refine ⟨?_, ?_, uses_of ?_, ?_, ?_, ?_, ?_, ?_, ?_, ?_, decide_eq_true (Nat.le_of_eq (Nat.zero_add _)), uses_of ?_, ?_, ?_⟩
  · simp only [State.TablesOk, Memory.wf, Tab.wf]
    decide +kernel
  all_goals decide +kernel

/-- A base model with a layer so wide that the gradients of two tokens are too many. -/
def wide : State := { roomy with base := { roomy.base with shape := some { shape with hidden := 2 ^ 27 + 1 } } }

theorem witness_gradients_too_wide :
    Uses opStep cmd 0 opSess varA wide ∧ wide.microRowsOk 32 = true ∧ varA.refuseTensors [] = none ∧
    (batchesOf 32 stepP.samples).all (fun b => wide.gradsFit (tokensOf b)) = false := by
  refine ⟨uses_of ?_, ?_, ?_, ?_⟩ <;> decide +kernel

/-- A variant that learns, and a context with the samples of an automatic step. -/
def learning : State :=
  { up with vars := [(0, { varA with settings := { varA.settings with learn := true, learnBatch := 1 } })],
            ctxs := [(0, { ctxA with queue := [⟨0, List.replicate 256 1⟩] })] }

theorem witness_automatic_step : learning.gafferUp = true ∧ learning.autoDue 0 = true ∧ up.autoDue 0 = false ∧
    learning.packetWaits = false ∧ learning.autosDue = [0] ∧ (waiting (header 2)).packetWaits = true := by decide +kernel

/-- The module with a step of variant 0 and what context 0 runs. -/
def stepping (t : TStep) (r : Option Running) : State := { withCtx { ctxA with running := r } with steps := [t] }

/-- Steps that have drained, that update and that have voted. -/
def drained : TStep := { stepA with phase := .run, done := stepA.batches.length }
def following : TStep := { drained with leader := false, leaderAt := 1 }
def updating : TStep := { stepA with phase := .updating, layersLeft := [1, 0] }
def voted (finite : Bool) : TStep := { stepA with phase := .voted, votes := [(0, ⟨finite, [], 0⟩)] }

theorem witness_check :
    (stepping drained none).findStep 0 1 = some drained ∧ (stepping drained none).checkReady drained varA = true ∧
    (stepping stepA none).checkReady stepA varA = false ∧ drained.leader = true ∧ up.fw.offline = false ∧ up.var 0 = some varA ∧
    (stepping following none).findStep 0 1 = some following ∧ (stepping following none).checkReady following varA = true ∧
    (stepping { stepA with batches := [] } none).checkReady { stepA with batches := [] } varA = true := by
  decide +kernel

theorem witness_update_and_vote :
    (stepping updating (some ⟨.update 0 1, []⟩)).updateRuns updating = true ∧
    (stepping updating (some ⟨.update 0 1, []⟩)).layerHeld 0 varA 1 = false ∧ updating.layersLeft = 1 :: [0] ∧ updating.variant = 0 ∧
    updating.number = 1 ∧ (stepping { updating with layersLeft := [] } none).findStep 0 1 = some { updating with layersLeft := [] } ∧
    (stepping { updating with layersLeft := [] } none).updateRuns { updating with layersLeft := [] } = false ∧
    (stepping updating none).replicasReady { updating with layersLeft := [] } varA = true ∧
    (stepping updating none).replicasReady { updating with layersLeft := [] } { varA with owners := [1] } = false ∧
    { updating with leader := false }.leader = false := by
  decide +kernel

theorem witness_flip_and_header :
    (∀ p ∈ (stepping (voted true) none).otherHolders varA, ((voted true).votes.find p).isSome = true) ∧
    (voted true).votes.vals.all (fun y => y.finite) = true ∧ (voted false).votes.vals.all (fun y => y.finite) = false ∧
    (∃ p ∈ up.otherHolders { varA with owners := [0, 1] }, (voted true).votes.find p = none) ∧
    (stepping { stepA with phase := .flipped } none).findStep 0 1 = some { stepA with phase := .flipped } ∧ up.pos ∉ stepA.headers ∧
    up.exportReads 0 = false ∧
    { up with streams := [(3, ownStream (.exporting (ticketOf cmd opVariantExport 0 1) 0 none 0 0) 5 2)] }.exportReads 0 = true := by
  decide +kernel

/-! ## Serving, units and tiles -/

/-- A prompt of two tokens and one to produce. -/
def prompt : SubmitParams := ⟨[1, 2], 1, 0, 0, 0, [], false⟩

/-- A request of the operator, and a parison with a row of it. -/
def reqA : Request := ⟨ticketOf cmd opSubmit 0 1, 0, 0, prompt, [], 2, true, false, none, 1, [], true, []⟩
def rowA (layer : Nat) : Row := ⟨3, 1, 2, true, layer, [], 0, [], [], [], []⟩
def parisonA (layer : Nat) : Parison := ⟨0, [rowA layer], []⟩

/-- Context 0 runs that parison. -/
def serving (layer : Nat) : State :=
  { withCtx { ctxA with running := some ⟨.parison (parisonA layer), List.range 16⟩ } with requests := [(3, reqA)] }

/-- CANCEL of sequence 1, under sequence 2. -/
def cmd2 : Cmd := { cmd with seq := 2 }

theorem witness_requests :
    Uses opSubmit cmd 0 opSess varA up ∧ submitOk shape prompt = true ∧ 0 < prompt.maxTokens ∧ kvPagesOf shape prompt ≤ up.hbmFree ∧
    Uses opSubmit cmd 0 opSess varA { up with hbmFree := 0 } ∧ Clear { up with hbmFree := 0 } opSess ∧ 0 < kvPagesOf shape prompt ∧
    (ctxA.counters.getD tRequestsEnded Counter.zero).value + 1 < 0xFFFFFFFFF000 ∧ Takes (specOf opCancel) cmd 0 opSess up ∧
    up.requests = [] ∧ Takes (specOf opCancel) cmd2 0 opSess (serving 0) ∧
    reqA.ticket.targetOf (ticketOf cmd2 opCancel 0 1) 1 = true ∧ (serving 0).computing reqA 3 = true ∧ Clear (serving 0) opSess := by
  refine ⟨uses_of ?_, ?_, ?_, ?_, uses_of ?_, clear_of ?_, ?_, ?_, takes_of ?_, ?_, takes_of ?_, ?_, ?_, clear_of ?_⟩ <;> decide +kernel

theorem witness_parisons :
    (serving 0).ctx 0 = some { ctxA with running := some ⟨.parison (parisonA 0), List.range 16⟩ } ∧ ctxA.st = .active ∧
    (parisonA 0).rows[0]? = some (rowA 0) ∧ (parisonA 0).mayContinue 2 (rowA 0) = true ∧ (rowA 0).layer < 2 ∧
    (parisonA 2).mayContinue 2 (rowA 2) = true ∧ (rowA 2).last = true ∧ (parisonA 3).mayContinue 2 (rowA 3) = false := by
  decide +kernel

/-- A module in transport mode, its operator's program waiting for its tiles, or holding them. -/
def transportUp : State := { up with profile := (Profile.shipped2 1), vars := [], base := Base.reset }
def waitingRun (held : Option Nat) : State :=
  { transportUp with
    ctxs := [(0, { ctxA with runQueue := [(ticketOf cmd opRunProgram 0 1, 0)] })],
    tiles := (List.range 16).map (fun i => (i, { Tile.reset with power := .idle, held := held })) }

theorem witness_units :
    (waitingRun none).nextWork 0 { ctxA with runQueue := [(ticketOf cmd opRunProgram 0 1, 0)] } = some .program ∧
    (waitingRun none).allHeld 0 ((waitingRun none).runTiles ctxA) = false ∧
    (waitingRun (some 0)).allHeld 0 ((waitingRun (some 0)).runTiles ctxA) = true ∧ (waitingRun (some 0)).power.mode = .active ∧
    (withCtx { ctxA with running := some runA }).unitOver { ctxA with running := some runA } runA.work runA.tiles = true ∧
    (serving 0).unitOver ctxA (.parison (parisonA 0)) (List.range 16) = false ∧
    (∃ k, up.tiles.find 0 = some k ∧ k.lastCtx ≠ some 0) ∧ (waitingRun none).tiles.wf ∧
    (∃ k, (waitingRun none).holdTiles.tiles.find 0 = some k ∧ k.held = some 0 ∧ k.waking = false ∧ k.power ≠ .off) := by
  refine ⟨?_, ?_, ?_, ?_, ?_, ?_, ⟨_, rfl, ?_⟩, ?_, ⟨_, rfl, ?_, ?_, ?_⟩⟩
  case refine_8 => simp only [Tab.wf]; decide +kernel
  all_goals decide +kernel

/-- Context 0 runs the first micro-batch of a step, its stash as given. -/
def running (stash : List StashEntry) : State :=
  { stepping { stepA with phase := .run } (some ⟨.micro 0 1 0, List.range 16⟩) with
    ctxs := [(0, { ctxA with running := some ⟨.micro 0 1 0, List.range 16⟩, stash := stash })] }

/-- A stash set of the last layer. -/
def stashSet (homesOk : Bool) : StashSize := ⟨0, 1, 64, 64, 0, homesOk, 0⟩

/-- Context 0 as its micro-batch runs, with what has travelled. -/
def travelling (x : Travel) : Ctx := { ctxA with running := some ⟨.micro 0 1 0, List.range 16⟩, travel := x }

theorem witness_passes :
    ((running []).passOf (travelling Travel.none)).isSome = true ∧ (running []).forwardPast (travelling Travel.none) 1 = false ∧
    (running []).forwardPast (travelling ⟨0, 1, [], []⟩) 1 = true ∧ (running []).passOver (travelling Travel.none) = false ∧
    (match (running []).passOf (travelling Travel.none) with
     | some p => !p.ending && decide ((p.inp.legs p.from?)[0]? = some ⟨false, 1, true⟩) &&
        decide ((p.inp.legs none)[1]? = some ⟨true, 1, false⟩) && decide ((p.inp.legs (some 1)).length = 3)
     | none => false) = true := by
  decide +kernel

theorem witness_stash_and_naps :
    (running []).runningStep 0 = some ({ stepA with phase := .run }, 0) ∧ stepA.ending = none ∧ stepA.recomputed = [] ∧
    (stashSet true).layer < up.layers ∧ (running []).lowestLayer { stepA with phase := .run } ≤ (stashSet true).layer ∧
    (stashSet true).layer < (running []).lowestLayer { stepA with updateSet := [] } ∧ stepA.backAt = none ∧
    stepA.homeFull.contains (0, 1) = false ∧ { stepA with homeFull := [(0, 1)] }.homeFull.contains (0, 1) = true ∧ (stashSet true).homesOk = true ∧ (stashSet false).homesOk = false ∧
    tileShare [] true + 64 ≤ stepA.regionBytes - stepA.stashWork ∧
    (running [⟨stashSet true, .spilled, []⟩]).forwardOver { ctxA with stash := [⟨stashSet true, .spilled, []⟩] } stepA 0 = true ∧
    (running []).forwardOver ctxA stepA 0 = false ∧
    (up.vacant 0 = false ∧ (up.tile 0).power = .idle ∧ (up.tile 0).queue = [] ∧ (up.tile 0).held = none ∧ up.tileRuns 0 = false) ∧
    up.vacant 16 = true ∧
    ({ up with tiles := [(0, { Tile.reset with power := .nap, waking := true })] }.tile 0).waking = true ∧ (up.tile 0).waking = false := by
  decide +kernel

/-- A ring link that is up, and a module in a ring of three, at position 1 and not its anchor. -/
def linkUp (serial position : Nat) : Link := { Link.reset with st := .up, stored := true, partner := some ⟨serial, position, 1, 2, 0⟩ }
def entryOf (serial : Nat) : RollEntry := { vacantEntry with serial := serial, state := 1, hbmCapacity := 512, hbmFree := 100 }
def tableOf : RollCall :=
  { blankRoll with ringSize := 3, entries := [entryOf 7, entryOf 1, entryOf 9] ++ List.replicate 29 vacantEntry }
def onRing : State :=
  { up with
    board := { up.board with bypassOpen := true }, links := [(2, linkUp 7 0), (3, linkUp 9 2)],
    ring := { Ring.reset with
      st := .member, position := some 1, anchor := 0, table := some tableOf,
      experts := [(0, ⟨2, true, 1, 0, 0, 0, 0, 0, 0⟩), (1, ⟨2, false, 0, 0, 0, 0, 0, 0, 0⟩)] } }

theorem witness_suspends_wait :
    (withCtx (pausing [])).ctx 0 = some (pausing []) ∧ (withCtx (pausing [])).ctxs.wf ∧ (pausing []).home = true ∧
    (pausing []).running = none ∧ (pausing []).suspendTickets ≠ [] ∧ (pausing []).awaitQuiet.all (withCtx (pausing [])).vacantPos = true ∧
    (pausing [0]).awaitQuiet.all { onRing with ctxs := [(0, pausing [0])] }.vacantPos = false := by
  simp only [Tab.wf]
  decide +kernel

/-- A bundle for an expert, and the frame that brings it from the west. -/
def bundleFor (kind expert incarnation : Nat) : Bundle :=
  ⟨kind, 1, 1, 0, 0, expert, 0, 1, 0, 0, false, 0, 0, incarnation, 0, [1, 2, 3, 4], [], 5, [0], [0], 0, 0⟩
def frameOf (msgType : Nat) (payload : Payload) : Frame :=
  { msgType := msgType, bcast := false, keyPhase := false, dst := 1, src := 0, hops := 0, length := 64, ctx := 0, tag := 5, linkSeq := 0,
    e2eSeq := 0, control := { Control.blank with senderPos := 0, ackSeq := 0xFFFFFF }, payload := payload, fecOk := true, authentic := true }

/-- Whether the frames of a bundle are delivered. -/
def delivered (b : Bundle) : Bool := (State.takeAll 2 [frameOf 2 (.bundle b)] onRing).1

theorem witness_bundles_arrive :
    delivered (bundleFor 1 0 1) = true ∧ delivered (bundleFor 1 0 0) = true ∧ delivered (bundleFor 3 1 1) = true ∧
    delivered (bundleFor 2 0 1) = true ∧ delivered (bundleFor 4 0 1) = true ∧ delivered (bundleFor 5 1 1) = true ∧
    (State.takeAll 2 [frameOf 2 (.bundle (bundleFor 1 0 1))] onRing).2.incarnation 0 = 1 ∧
    (State.takeAll 2 [frameOf 2 (.bundle (bundleFor 1 0 1))] onRing).2.homes 0 = true ∧
    (State.takeAll 2 [frameOf 2 (.bundle (bundleFor 1 1 1))] onRing).2.homes 1 = false ∧ (frameOf 2 (.bundle (bundleFor 1 0 1))).dst = onRing.pos := by
  decide +kernel

theorem witness_bundles_run :
    (let s := { onRing with profile := { up.profile with expertTiles := 1 }, bundles := [⟨bundleFor 1 0 1, none⟩],
                            phys := (List.range 256).map (fun i => (i, i % 16)) }
     s.power.mode = .active ∧ s.fw.offline = false ∧ (s.coolest s.freeQuads).isSome = true) ∧
    { up with profile := (Profile.shipped2 1) }.freeQuads = [] ∧
    (Travel.none.take (bundleFor 4 0 1)) = Travel.none ∧
    (Travel.take ⟨0, 1, [bundleFor 3 0 1], []⟩ (bundleFor 4 0 1)) = ⟨0, 1, [], [bundleFor 4 0 1]⟩ ∧
    (travelling Travel.none).incarnation = (bundleFor 4 0 1).incarnation ∧
    ([⟨bundleFor 1 0 1, some 15⟩] : List HomeBundle).find? (fun x => x.running.isSome && decide (x.b.tag = 5)) =
      some ⟨bundleFor 1 0 1, some 15⟩ ∧
    { onRing with ring := { onRing.ring with moving := [(1, 2)] } }.ring.experts.find 1 = some ⟨2, false, 0, 0, 0, 0, 0, 0, 0⟩ ∧
    (2 : Nat) ≠ (⟨2, false, 0, 0, 0, 0, 0, 0, 0⟩ : ExpertEntry).home := by
  decide +kernel

/-! ## Windows, programs and streams -/

/-- The module in transport mode with another context 0. -/
def withT (c : Ctx) : State := { transportUp with ctxs := [(0, c)] }

/-- A window of the host with one page absent. -/
def hostWin : Window := .outbound ⟨3, 7, 0, 4⟩ [1]

/-- A stream descriptor of a kind between two places of tile 0, and an operation of a program. -/
def descOf (kind : Nat) : Bytes :=
  leBytes 8 (kind * 2 ^ 60 + 20 * 2 ^ 40 + 1) ++ leBytes 8 0 ++ leBytes 8 0x1000 ++ leBytes 8 0 ++ leBytes 8 (2 * 2 ^ 44 + 2 ^ 34) ++
  List.replicate 24 0
def opOf (code target : Nat) (body : Bytes) : Bytes :=
  leBytes 8 (code * 2 ^ 56 + target * 2 ^ 32) ++ leBytes 8 0 ++ (body ++ List.replicate 64 0).take 64

theorem witness_windows :
    Takes (specOf opMapWindow) cmd 0 opSess transportUp ∧ Clear transportUp opSess ∧ transportUp.ctx 0 = some ctxA ∧
    ctxA.windows.find 0 = none ∧ transportUp.ownRange ctxA 64 0x1FFFC0 true = true ∧
    Takes (specOf opMapWindow) cmd 0 opSess (withT { ctxA with windows := [(255, hostWin)] }) ∧
    (Tab.find [(255, hostWin)] 255).isSome = true ∧
    (withT { ctxA with windows := [(255, hostWin)] }).streamNames 0 255 = false ∧
    ({ ctxA with windows := [(255, hostWin)] }).programNames 255 = false := by
  refine ⟨takes_of ?_, clear_of ?_, ?_, ?_, ?_, takes_of ?_, ?_, ?_, ?_⟩ <;> decide +kernel

/-- Context 0 with a stream in its window 255. -/
theorem witness_window_busy :
    { withT { ctxA with windows := [(255, hostWin)] } with
      streams := [(3, { ownStream (.program 0) 1 1 with
        desc := leBytes 8 (2 ^ 60 + 4 * 2 ^ 56) ++ leBytes 8 (255 * 2 ^ 56) ++ List.replicate 48 0 })] }.streamNames 0 255 = true := by
  decide +kernel

/-- A program of one operation, the context that runs it, and the module. -/
def runOf (op : Bytes) (no : Nat) : ProgRun := ⟨ticketOf cmd opRunProgram 0 1, no, op, [], 0, false, []⟩
def ctxP (op : Bytes) : Ctx := { ctxA with running := some runA, prog := some (runOf op 0) }
def progUp (op : Bytes) : State := withT (ctxP op)

theorem witness_programs :
    Takes (specOf opLoadProgram) cmd 0 opSess transportUp ∧ (opOf 5 0 []).length % 80 = 0 ∧ opsKnown (opOf 5 0 []) = true ∧
    Takes (specOf opLoadProgram) cmd 0 opSess (progUp (opOf 5 0 [])) ∧ Takes (specOf opRunProgram) cmd 0 opSess transportUp ∧
    Takes (specOf opRunProgram) cmd 0 opSess (withT { ctxA with programs := [(63, (opOf 5 0 [], []))] }) ∧
    ctxA.programs.find 63 = none ∧ ctxA.prog = none := by
  refine ⟨takes_of ?_, ?_, ?_, takes_of ?_, takes_of ?_, takes_of ?_, ?_, ?_⟩ <;> decide +kernel

/-- A stream of that descriptor in a state. -/
def strmIn (kind : Nat) (st : StreamState) : Strm :=
  { transportUp.strmOf 0 1 ctxA (.command (ticketOf cmd opStreamOpen 0 1)) (descOf kind) with st := st }

theorem witness_streams :
    Takes (specOf opStreamOpen) cmd 0 opSess transportUp ∧ sdValid (Profile.shipped2 1).split (descOf 1) = true ∧
    transportUp.ownsEnds ctxA (descOf 1) = true ∧ sdUnchecked (descOf 1) = false ∧ transportUp.streams.find 3 = none ∧
    transportUp.noSlot (strmIn 1 .waiting) ctxA = false ∧ transportUp.canOpen (strmIn 1 .waiting) = true ∧
    sdValid (Profile.shipped2 1).split (descOf 7) = false ∧
    { transportUp with streams := [(3, strmIn 1 .running)] }.canOpen (strmIn 1 .waiting) = false ∧
    { transportUp with streams := (List.range 16).map (fun i => (i, strmIn 1 .running)) }.noSlot (strmIn 1 .waiting) ctxA = true ∧
    Takes (specOf opStreamClose) cmd 0 opSess transportUp ∧ transportUp.streamsById 0 1 StreamState.isOpen = [] ∧
    { transportUp with streams := [(3, strmIn 1 (.halted 0 0))] }.streamsById 0 1 StreamState.isHalted = [3] ∧
    { transportUp with streams := [(3, strmIn 1 .running)] }.streamsById 0 1 StreamState.isOpen = [3] ∧
    transportUp.bufferRead (strmIn 1 .running) = false ∧ transportUp.hbmUp = true ∧ (strmIn 1 .waiting).desc ≠ [] ∧
    transportUp.mayStall (strmIn 1 .running) = true ∧ transportUp.mayStall { strmIn 1 .running with use := .answers } = false := by
  refine ⟨takes_of ?_, ?_, ?_, ?_, ?_, ?_, ?_, ?_, ?_, ?_, takes_of ?_, ?_, ?_, ?_, ?_, ?_, ?_, ?_, ?_⟩ <;> decide +kernel

/-- An operation is the next of its program. -/
def isNext (code target : Nat) (body : Bytes) : Bool :=
  let o := opOf code target body
  decide ((progUp o).nextOp 0 code = some (ctxP o, runOf o 0, o))

theorem witness_program_operations :
    isNext 1 0 [] = true ∧ (progUp []).ownTile (ctxP []) 0 = true ∧ (progUp []).ownTile (ctxP []) 16 = false ∧
    (progUp []).ownOperation (ctxP []) 0 (List.replicate 32 0) = true ∧ isNext 2 63 (descOf 1) = true ∧
    poBody (opOf 2 63 (descOf 1)) = descOf 1 ∧ (progUp []).slotStream 0 63 = none ∧ isNext 3 0 [] = true ∧
    { progUp [] with streams := [(3, { ownStream (.program 0) 1 1 with id := 0x80000000, st := .ended stOk })] }.slotStream 0 0 =
      some (3, { ownStream (.program 0) 1 1 with id := 0x80000000, st := .ended stOk }) ∧
    isNext 4 0xFFFF [] = true ∧ (∀ n ∈ targetTiles (ctxP []) 0xFFFF, (progUp []).ownTile (ctxP []) n = true ∧ ((progUp []).tile n).queue = []) ∧
    isNext 5 0 [] = true ∧ isNext 6 15 [] = true ∧ isNext 7 15 [] = true := by decide +kernel

/-- An UPDATE of one row of 32 elements whose master lies at the start of HBM, and a COMMIT with its log behind. -/
def updateAt (next : Nat) : Bytes :=
  leBytes 8 (9 * 2 ^ 56) ++ leBytes 8 hbmBase ++
  (leBytes 4 0 ++ leBytes 4 1 ++ leBytes 4 32 ++ leBytes 4 0 ++ leBytes 4 0x1000 ++ leBytes 4 0x2000 ++ leBytes 4 next ++
    List.replicate 36 0)
def updateOp : Bytes := updateAt 0x3000
def commitOp (room : Nat) : Bytes :=
  leBytes 8 (10 * 2 ^ 56) ++ leBytes 8 0 ++ (leBytes 8 1 ++ leBytes 8 (hbmBase + 0x1000) ++ leBytes 4 room ++ List.replicate 44 0)

/-- The context that owns the first 64 MiB of HBM and runs a program, and its module. -/
def ctxE (op : Bytes) : Ctx := { ctxP op with settings := { sets with extents := [(hbmBase, 0x4000000)] } }
def extUp (op : Bytes) : State := withT (ctxE op)

/-- The descriptor of a MATMUL with its block at an offset: one row, FP32 out. -/
def matDesc (block : Nat) : Bytes :=
  leBytes 8 (2 ^ 60) ++ leBytes 4 block ++ leBytes 4 0x4000 ++ leBytes 4 0 ++ leBytes 4 0x8000 ++ List.replicate 8 0

theorem witness_program_training :
    isNext 8 0 [] = true ∧ anyNonfinite ((progUp []).groupStats (ctxP []) 0) = false ∧
    (extUp updateOp).nextOp 0 9 = some (ctxE updateOp, runOf updateOp 0, updateOp) ∧
    (extUp updateOp).refuseUpdate (ctxE updateOp) updateOp = none ∧
    regionsOk ((updateRegions (extUp updateOp).baseFormat (updateOf updateOp) 1).filter (fun r => decide (0 < r.2))) = true ∧
    (updateOf updateOp).inPlace = false ∧ (extUp updateOp).slotRead (updateOf updateOp) [0] = false ∧
    { extUp updateOp with tiles := [(0, { Tile.reset with power := .run, queue := [⟨matDesc 0x3000, 0, 0, false⟩] })] }.slotRead
      (updateOf updateOp) [0] = true ∧
    (extUp updateOp).updateSpoils (updateOf updateOp) [0] = false ∧
    (let s := { extUp updateOp with tiles := [(0, { Tile.reset with power := .run, queue := [⟨matDesc 0x1000, 0, 0, false⟩] })] }
     s.slotRead (updateOf (updateAt 0x100000)) [0] = false ∧ s.updateSpoils (updateOf (updateAt 0x100000)) [0] = true) ∧
    (progUp updateOp).refuseUpdate (ctxP updateOp) updateOp = some stNotPermitted ∧
    overlaps (poMaster updateOp) (masterBytes (updateOf updateOp)) hbmBase 0x4000000 = true ∧
    (extUp (commitOp 4096)).nextOp 0 10 = some (ctxE (commitOp 4096), runOf (commitOp 4096) 0, commitOp 4096) ∧
    (transportRecord 0 (ctxE (commitOp 4096)) (runOf (commitOp 4096) 0) 1).length = 32 ∧
    ownExtent (ctxE (commitOp 4096)) (hbmBase + 0x1000) 4096 = true := by decide +kernel

/-! ## The array and the streams that move -/

/-- The module with one operation on tile 0. -/
def onTile (d : Bytes) : State := { up with tiles := [(0, { Tile.reset with power := .run, queue := [⟨d, 0, 0, false⟩] })] }

/-- An ELEMENTWISE of one row, and a MATMUL whose block the marver transposes, with its marver descriptor in tile memory. -/
def ewAt (mov : Nat) : Bytes := leBytes 8 (2 * 2 ^ 60 + 2 ^ 24) ++ leBytes 8 0 ++ leBytes 4 mov ++ leBytes 4 0x8000 ++ leBytes 4 0x2000 ++ leBytes 4 0
def ewDesc : Bytes := ewAt 0x1000
def marverMem : List Host.Cell := writeBytes [] (tileAddr 0 0x10000) (leBytes 8 (2 ^ 60) ++ List.replicate 24 0)
def marverDesc : Bytes := matDesc (2 ^ 31 + 0x10000)

theorem witness_array :
    (onTile (List.replicate 32 0)).tileReady 0 = true ∧ aoOp (List.replicate 32 0) = 0 ∧ 3 ≤ aoOp (leBytes 8 (3 * 2 ^ 60) ++ List.replicate 24 0) ∧
    aoOp (matDesc 0) = 1 ∧ matmulFault ((onTile (matDesc 0)).arrayIn 0) [] (matDesc 0) = none ∧
    onArray ((onTile (matDesc 0)).arrayIn 0) [⟨matDesc 0, 0, 0, false⟩] = [⟨matDesc 0, 0, 0, false⟩] ∧
    (matmulFault ((onTile (matDesc 1)).arrayIn 0) [] (matDesc 1)).isSome = true ∧ aoOp ewDesc = 2 ∧
    (ewFault (up.arrayIn 0) (leBytes 8 (2 * 2 ^ 60 + 6 * 2 ^ 24) ++ List.replicate 24 0)).isSome = true ∧
    (let s := { onTile marverDesc with mem := marverMem }
     s.operationOwned 0 ⟨marverDesc, 0, 0, false⟩ = true ∧ marverOk (s.arrayIn 0) marverDesc = true ∧
     0 < marverPieces (s.arrayIn 0) marverDesc ∧ (s.tile 0).marver.length < 2) ∧
    reservedCodes (List.replicate 32 0) = false ∧ reservedCodes (leBytes 8 (3 * 2 ^ 58) ++ List.replicate 24 0) = true ∧
    (onTile (matDesc 0)).operationOwned 0 ⟨matDesc 0, 0, 0, false⟩ = true ∧
    (onTile (matDesc 0x700000)).operationOwned 0 ⟨matDesc 0x700000, 0, 0, false⟩ = false ∧
    aoOp (ewAt 0x700000) = 2 := by
  decide +kernel

/-- Whatever formats the operands of an ELEMENTWISE have, these hold. -/
theorem ew_formats {p : State → Bytes → Prop} (s : State) (d : Bytes)
    (h : ∀ a b, (a = 1 ∨ a = 2 ∨ a = 4) → (b = 1 ∨ b = 2 ∨ b = 4) → outSize (ewFormat d false) = a → outSize (ewFormat d true) = b → p s d) :
    p s d := by
  have size : ∀ n, outSize n = 1 ∨ outSize n = 2 ∨ outSize n = 4 := by
    intro n
    unfold outSize
    split
    · simp
    · split <;> simp
  exact h _ _ (size _) (size _) rfl rfl

theorem witness_elementwise : ewFault ((onTile ewDesc).arrayIn 0) ewDesc = none := by
  refine ew_formats (p := fun s d => ewFault (s.arrayIn 0) d = none) (onTile ewDesc) ewDesc (fun a b ha hb h k => ?_)
  rcases ha with rfl | rfl | rfl <;> rcases hb with rfl | rfl | rfl <;> simp only [ewFault, aoInputs, aoNamed, h, k] <;> decide +kernel

/-- Its context owns what one ELEMENTWISE touches, and not what another does. -/
theorem witness_elementwise_owned :
    (onTile ewDesc).operationOwned 0 ⟨ewDesc, 0, 0, false⟩ = true ∧
    (onTile (ewAt 0x700000)).operationOwned 0 ⟨ewAt 0x700000, 0, 0, false⟩ = false := by
  constructor
  · refine ew_formats (p := fun s d => s.operationOwned 0 ⟨d, 0, 0, false⟩ = true) (onTile ewDesc) ewDesc (fun a b ha hb h k => ?_)
    rcases ha with rfl | rfl | rfl <;> rcases hb with rfl | rfl | rfl <;>
      simp only [State.operationOwned, State.ownOperation, aoInputs, aoNamed, h, k] <;> decide +kernel
  · refine ew_formats (p := fun s d => s.operationOwned 0 ⟨d, 0, 0, false⟩ = false) (onTile (ewAt 0x700000)) (ewAt 0x700000)
      (fun a b ha hb h k => ?_)
    rcases ha with rfl | rfl | rfl <;> rcases hb with rfl | rfl | rfl <;>
      simp only [State.operationOwned, State.ownOperation, aoInputs, aoNamed, h, k] <;> decide +kernel

theorem witness_transfers :
    (strmIn 1 .running).mayIssue = true ∧ isLocal (sdSrcKind (descOf 1)) = true ∧ isLocal (sdDstKind (descOf 1)) = true ∧
    transportUp.endSleeps (sdSrcKind (descOf 1)) (sdSrc (descOf 1)) = false ∧ (strmIn 1 .running).kind = 1 ∧ (strmIn 2 .running).kind = 2 ∧
    (strmIn 3 .running).kind = 3 ∧ (strmIn 4 .running).kind = 4 ∧ (strmIn 3 .running).mayIssue = true ∧ transportUp.hbmUp = true ∧
    ([(1, [7])] : List (Nat × Bytes)).find? (fun p => decide (p.1 = 1)) = some (1, [7]) ∧
    transportUp.endSleeps (sdDstKind (descOf 1)) (sdDst (descOf 1)) = false ∧ (strmIn 1 .running).discard = false ∧
    (strmIn 1 .running).desc ≠ [] ∧ transportUp.spoilsInputs (landAddrs (strmIn 1 .running) 0) = false ∧
    (onTile (matDesc 0x1000)).spoilsInputs (landAddrs (strmIn 1 .running) 0) = true ∧
    { ownStream (.feed 0) 1 1 with st := .running }.desc = [] ∧ { ownStream (.feed 0) 1 1 with st := .running }.kind = 1 := by
  decide +kernel

theorem witness_no_feed : ∀ n, (strmIn 1 .running).use ≠ .feed n := by
  intro n h
  simp only [strmIn, State.strmOf] at h
  cases h

theorem witness_pages :
    (ownStream (.logPage 0) 5 1).mayIssue = true ∧ ctxA.pageKey = some ⟨List.replicate 16 1, List.replicate 32 2⟩ ∧
    up.hostBlocked ⟨3, 7, 0, 16⟩ = false ∧
    { up with qps := [(3, qpOf .error)] }.hostBlocked ⟨3, 7, 0, 16⟩ = true ∧ (ownStream (.load 0) 6 1).mayIssue = true := by decide +kernel

theorem witness_scrub : up.hbmUp = true ∧ up.inHbm 0 = false ∧ up.inHbm hbmBase = true ∧ 0 ∉ up.hbmRetired ∧
    (∀ v, HbmArea.baseModel ≠ .committed v) := by
  refine ⟨?_, ?_, ?_, ?_, fun v h => by cases h⟩ <;> decide +kernel

/-! ## The ring -/

theorem witness_frames :
    onRing.ringPort 2 = true ∧ onRing.board.bypassOpen = true ∧ onRing.forMe (frameOf 1 .none) = true ∧
    (∀ m ∈ [1, 3, 5, 6, 7, 8], (onRing.take 2 (frameOf m .none)).1 = true) ∧
    (onRing.take 2 { frameOf 1 .none with fecOk := false }).1 = false ∧
    onRing.passes { frameOf 1 .none with dst := 2 } = true ∧ (onRing.accept 2 { frameOf 1 .none with dst := 2 }).1 = true ∧
    (onRing.accept 2 { frameOf 1 .none with dst := 2 }).2.passDrops { frameOf 1 .none with dst := 2 } = false ∧
    (onRing.accept 2 { frameOf 1 .none with dst := 3 }).2.passDrops { frameOf 1 .none with dst := 3 } = true ∧
    reservedType 1 = false ∧ onRing.passes (frameOf 1 .none) = false ∧ (stepping drained none).findStep 0 1 = some drained := by
  decide +kernel

theorem witness_links :
    onRing.ringPort 3 = true ∧ (onRing.link 3).st = .up ∧ onRing.lowerSerial (onRing.link 3) = true ∧
    ({ onRing with fuses := { onRing.fuses with serial := 10 } }.lowerSerial (onRing.link 3) = false) ∧
    ({ onRing with links := [(2, { linkUp 7 0 with st := .held }), (3, { linkUp 9 2 with badWindows := 2 })] }.link 2).st = .held ∧
    (onRing.port 2).neighbour = none ∧ Link.reset.partner = none ∧ Link.reset.st = .dark ∧ onRing.ring.st = .member := by decide +kernel

theorem witness_roll_calls :
    ({ onRing with ring := { onRing.ring with anchor := 1, collectOut := true } }.isAnchor = true) ∧ onRing.isAnchor = false ∧
    onRing.ring.anchor ≠ onRing.pos ∧
    (let f := { frameOf 4 (.roll { tableOf with pass := 1 }) with dst := 0 }
     (onRing.accept 2 f).1 = true ∧ (onRing.accept 2 f).2.inRing = true ∧ (onRing.accept 2 f).2.isAnchor = false) ∧
    (let f := { frameOf 4 (.roll tableOf) with bcast := true }
     (onRing.take 2 f).1 = true ∧ (onRing.take 2 f).2.inRing = true ∧ (onRing.take 2 f).2.isAnchor = false ∧ tableOf.pass = 2) := by
  decide +kernel

/-- The ring state with another membership. -/
def withRing (st : Member) : State := { onRing with ctxs := [], vars := [], ring := { onRing.ring with st := st } }

/-- A joiner that was admitted to a ring of another layer. -/
def misled : State :=
  { withRing (.admitted 3) with
    ring := { (withRing (.admitted 3)).ring with
      heard := some { tableOf with layer := 5 }, hearWest := some 0, hearEast := some 2, quietPasses := 2 } }

theorem witness_join_and_leave :
    Takes (specOf opRingJoin) cmd 0 opSess up ∧ up.ringRoles = true ∧ up.ring.st = .out ∧ up.board.bypassMoving = none ∧
    up.board.bypassOpen = false ∧ Takes (specOf opRingJoin) cmd 0 opSess onRing ∧ Takes (specOf opRingJoin) cmd 0 opSess (withRing .closing) ∧
    Takes (specOf opRingLeave) cmd 0 opSess (withRing .member) ∧ (withRing .member).mayLeave = true ∧
    Takes (specOf opRingLeave) cmd 0 opSess onRing ∧ onRing.mayLeave = false ∧ (withRing .listening).ring.heard = none ∧
    (withRing (.admitted 3)).admittedCause = none ∧ misled.admittedCause = some 1 ∧ misled.baseReady = true ∧
    (withRing (.admitted 3)).baseReady = true ∧ (withRing (.opening 0)).ring.joinTicket = none ∧
    (let s := { withRing .leaving with
       ring := { (withRing .leaving).ring with table := some { tableOf with entries := tableOf.entries.set 1 { entryOf 1 with state := 3 } } } }
     s.entryAt s.pos = some { entryOf 1 with state := 3 } ∧ s.portDrained west = true ∧ s.portDrained east = true ∧ s.bundles = []) := by
  refine ⟨takes_of ?_, ?_, ?_, ?_, ?_, takes_of ?_, takes_of ?_, takes_of ?_, ?_, takes_of ?_, ?_, ?_, ?_, ?_, ?_, ?_, ?_, ?_⟩ <;>
    decide +kernel

/-! ## The fabric, the base model, failures -/

/-- A frame of 64 or of more bytes for a queue pair. -/
def rdmaFrame (length : Nat) : RoceFrame := ⟨length, 1, true, 4, 3, false, 0⟩

theorem witness_fabric :
    up.fabric 0 = true ∧ (up.port 0).up = true ∧ (rdmaFrame 63).length < 64 ∧ 9216 < (rdmaFrame 9217).length ∧
    up.lossless 4 = true ∧ frameOk (rdmaFrame 64) = true ∧ frameOk (rdmaFrame 9216) = true ∧ up.rxRoom 0 (rdmaFrame 9216) = true ∧
    up.qps.find 3 = some (qpOf .hello) ∧ (up.port 0).used 4 + 9216 < 786432 ∧ (rdmaFrame 64).ce = false ∧ 4 ∉ (up.port 0).pausedBy ∧
    up.lossless 0 = false ∧ up.priorityOf (rdmaFrame 64) = 4 ∧ { qpOf .hello with rises := 5 }.st ≠ .error := by decide +kernel

theorem witness_connections :
    up.qps.find 9 = none ∧ (up.qps.vals.filter (fun q => decide (q.st ≠ .error))).length < 4096 ∧ up.qps.find 3 = some (qpOf .hello) ∧
    up.qps.find 1 = some (qpOf (.session 0)) ∧ up.sessions.find 0 = some opSess ∧ opSess.qp = 1 ∧ up.portsRun = true ∧
    ({ up with ports := [] }.port 1).up = false ∧ up.ringPort 1 = false ∧
    (∀ x ∈ up.qps, x.2.port = 1 → ∀ n, x.2.st ≠ .session n) := by
  refine ⟨?_, ?_, ?_, ?_, ?_, ?_, ?_, ?_, ?_, ?_⟩
  case refine_10 => simp [up, qpOf]
  all_goals decide +kernel

/-- Context 0 with an inbound window of 128 bytes under a key. -/
def ctxW : Ctx := { ctxA with windows := [(0, .inbound 0x1000 128 77)] }

theorem witness_inbound :
    (withCtx ctxW).qps.find 3 = some (qpOf .hello) ∧ (withCtx ctxW).inboundWindow (qpOf .hello) 77 = some (0, 0x1000, 128) ∧
    (withCtx ctxW).ctx 0 = some ctxW ∧ (withCtx ctxW).ownRange ctxW 0x1000 128 true = true ∧ (withCtx ctxW).inboundWindow (qpOf .hello) 78 = none ∧
    Memory.wf (withCtx ctxW).mem ∧ 0x1000 + 128 < 0x1000 + rdmaBytes (.read 129) ∧ 0x1000 + 128 < statusBase ∧
    2 ^ 31 < rdmaBytes (.read (2 ^ 31 + 1)) ∧ (withCtx ctxW).spoilsInputs ((List.range 128).map (0x1000 + ·)) = false ∧
    { onTile (matDesc 0x1000) with ctxs := [(0, ctxW)] }.spoilsInputs ((List.range 128).map (0x1000 + ·)) = true := by
  refine ⟨?_, ?_, ?_, ?_, ?_, ?_, ?_, ?_, ?_, ?_, ?_⟩
  case refine_6 => simp only [Memory.wf]; decide +kernel
  all_goals decide +kernel

/-- The module without a context, a base model loading as given. -/
def loadingBase (d : Option Bytes) (tickets : List Ticket) : State :=
  { up with ctxs := [], vars := [], base := { up.base with loading := d, tickets := tickets } }

theorem witness_base :
    Takes (specOf opBaseLoad) cmd 0 opSess up ∧ up.ctxs ≠ [] ∧ Takes (specOf opBaseLoad) cmd 0 opSess (loadingBase none []) ∧
    Takes (specOf opBaseLoad) cmd 0 opSess (loadingBase (some shape.digest) [ticketOf cmd2 opBaseLoad 0 1]) ∧
    (loadingBase (some shape.digest) []).placementOk shape = true ∧ ((loadingBase (some shape.digest) []).fitBase shape).isSome = true ∧
    ({ shape with digest := [] } : BaseShape).digest ≠ shape.digest := by
  refine ⟨takes_of ?_, ?_, takes_of ?_, takes_of ?_, ?_, ?_, ?_⟩ <;> decide +kernel

theorem witness_retire_and_crossings :
    Takes (specOf opRetireTile) cmd 0 opSess up ∧ up.spares.find (quadOf 16) = none ∧
    Takes (specOf opRetireTile) cmd 0 opSess { up with ctxs := [] } ∧ up.spares.find (quadOf 15) = some 16 ∧ up.phys.find 15 = some 15 ∧
    up.streams = [] ∧ Clear up opSess ∧ up.domainRuns 3 = true ∧ up.domainRuns 1 = true ∧ domainQuad 3 = some 0 ∧
    domainQuad 47 = none ∧ domainPort 47 = some 0 ∧ up.domainRuns 47 = true ∧ up.domainRuns 2 = true ∧ domainQuad 2 = none ∧
    domainPort 2 = none ∧ domainOptics 2 = none ∧ (atStep 1).domainRuns 3 = false := by
  refine ⟨takes_of ?_, ?_, takes_of ?_, ?_, ?_, ?_, clear_of ?_, ?_, ?_, ?_, ?_, ?_, ?_, ?_, ?_, ?_, ?_, ?_⟩ <;> decide +kernel

/-! ## Well-formedness: each check refuses an ill-formed command -/

/-- A region that is well formed, and a frame. -/
def goodRegion : Region := ⟨3, 7, 0, 4096⟩
def goodFrame : Frame := frameOf 1 .none

theorem test_wf_accepts :
    [Instr.intakeRound, .hello cmd [(1, 0)], .openSession cmd 0 (List.replicate 32 0), .contextCreate cmd create, .variantCreate cmd adapterParams,
      .step cmd stepP, .setRule cmd ruleEdge, .submit cmd prompt, .streamOpen cmd (descOf 1), .frameForward 2 goodFrame,
      .fwdOut 2 [goodFrame] (bundleFor 1 0 1), .temperatureLevelChange 0 (-128)].all Instr.wf = true := by decide +kernel

theorem test_wf_refuses_headers :
    [Instr.closeSession { cmd with qp := 2 ^ 24 }, .closeSession { cmd with seq := 2 ^ 32 }, .closeSession { cmd with ctx := 65536 },
      .closeSession { cmd with variant := 2 ^ 17 }, .sendReceived (2 ^ 24) []].all (fun i => !i.wf) = true := by decide +kernel

theorem test_wf_refuses_regions :
    [Instr.fwStage cmd { goodRegion with qpn := 2 ^ 24 }, .fwStage cmd { goodRegion with rkey := 2 ^ 32 },
      .fwStage cmd { goodRegion with address := 2 ^ 64 }, .fwStage cmd { goodRegion with pages := 2 ^ 32 }].all (fun i => !i.wf) =
      true := by decide +kernel

/-- A region off a multiple of 65,536 is a well-formed operand, and the command that names it is turned away (R323, R324). -/
theorem test_region_alignment : goodRegion.aligned = true ∧ ({ goodRegion with address := 1 } : Region).aligned = false ∧
    (Instr.fwStage cmd { goodRegion with address := 1 }).wf = true := by decide

theorem test_wf_refuses_keys_and_sessions :
    [Instr.hello cmd [(65536, 0)], .openSession cmd 0 [], .openSession cmd 256 (List.replicate 32 0), .keyAdd cmd 0 [] (List.replicate 48 0),
      .keyAdd cmd 0 (List.replicate 16 0) [], .keyRemove cmd 0 256, .eventPacketSend 1024, .attest cmd [] none,
      .attest cmd (List.replicate 48 0) (some [65536]), .cancel cmd (2 ^ 32), .query cmd 256, .counters cmd 256, .faultRecordRead cmd 256 1,
      .selectProfile cmd 256].all (fun i => !i.wf) = true := by decide +kernel

theorem test_wf_refuses_contexts :
    [Instr.contextCreate cmd { create with groupSize := some 65536 }, .contextCreate cmd { create with tileAlloc := some 256 },
      .contextCreate cmd { create with caps := some ⟨256, 5, 5⟩ }, .contextCreate cmd { create with stash := some ⟨256, 0, 0⟩ },
      .contextCreate cmd { create with parison := some ⟨0, 0, 0, 256⟩ }, .contextCreate cmd { create with slotGrant := some [2048] },
      .contextCreate cmd { create with variantGrant := some (2 ^ 32, 0) }, .contextCreate cmd { create with extents := some [2 ^ 32] },
      .contextShares cmd (some 65536) none none, .contextCreateComplete 1024 none, .resetComplete 1024, .unitEnd 0 (2 ^ 64)].all
      (fun i => !i.wf) = true := by decide +kernel

theorem test_wf_refuses_variants :
    [Instr.variantCreate cmd { adapterParams with adapters := [⟨256, 0, 8, false, 0, 0⟩] },
      .variantCreate cmd { adapterParams with experts := [⟨256, 0, 0, []⟩] }, .variantCreate cmd { adapterParams with owners := some [256] },
      .expertAttach cmd 0 65536, .expertDetach cmd 256, .step cmd { stepP with samples := [[]] },
      .step cmd { stepP with samples := [[2 ^ 32]] }, .step cmd { stepP with tensors := [.own (2 ^ 31)] },
      .freeze cmd [.base 256 0], .eval cmd [[1]] (2 ^ 32) 0, .setRule cmd { sStart := some 128 }, .setRule cmd { rule := some 256 },
      .replay cmd (2 ^ 64) 0 none, .submit cmd { prompt with mode := 256 }, .submit cmd { prompt with stopTokens := [2 ^ 32] },
      .check (2 ^ 17) 0, .loadPartPlaced 0 32].all (fun i => !i.wf) = true := by decide +kernel

theorem test_wf_refuses_transport :
    [Instr.mapWindowInbound cmd 256 0 0, .mapWindowPresent cmd 0 (2 ^ 32) 0 true, .loadProgram cmd 0 [0], .runProgram cmd 256,
      .streamOpen cmd [], .streamClose cmd (2 ^ 32), .transferLand 0 0 (List.replicate 65537 0) .clean, .nop 256,
      .array 1024].all (fun i => !i.wf) = true := by decide +kernel

theorem test_wf_refuses_ring_and_fabric :
    [Instr.frameForward 6 goodFrame, .frameForward 2 { goodFrame with msgType := 16 }, .frameForward 2 { goodFrame with dst := 32 },
      .frameForward 2 { goodFrame with hops := 64 }, .frameForward 2 { goodFrame with e2eSeq := 2 ^ 24 },
      .fwdOut 2 [] (bundleFor 6 0 1), .fwdOut 2 [] { bundleFor 1 0 1 with srcPos := 32 }, .linkEstablished 2 ⟨7, 32, 1, 2, 0⟩ 0,
      .eqAdapt 2 8 ⟨0, [], []⟩ 0, .rocePacketReceive 0 ⟨64, 0, true, 8, 3, false, 0⟩, .pfcFrameReceive 0 8 true 0, .cnpReceive (2 ^ 24),
      .inboundRdmaAccess 0 (2 ^ 32) 0 (.read 0)].all (fun i => !i.wf) = true := by decide +kernel

theorem test_wf_refuses_device :
    [Instr.supplyDroop 16, .powerCapWindow 65536, .temperatureLevelChange 0 128, .powerOn 65536, .strapSample 4, .frIndexWrite 256,
      .bmbRegisterWrite 65536 0, .crossingTimeout 256 0, .retireTile cmd 65536, .baseLoad cmd goodRegion [] none none].all
      (fun i => !i.wf) = true := by decide +kernel

/-- The table gives no command bits, so no word spells one. -/
theorem test_no_table_words : decodeTableWord 0 0 = none ∧ decodeTableWord 64 0x5141 = none := ⟨rfl, rfl⟩

/-! ## Numbers worked out in the spec -/

/-- The example of chapter 3, Stochastic rounding to G8: its key, its counter and both outcomes. -/
theorem test_rounding_example :
    roundKey 0x5D1E77A03C429B08 0x19C = 0x5D1E77A03C429A94 ∧ ctrTail 3 0x11 siteDX 0 0 + 1234567 / 8 = 0x0031100000025AD0 ∧
    1234567 % 8 = 7 ∧ fscale 0x3AB34000#32 6 = 0x3DB34000#32 ∧ (toG8 0x3DB34000#32 0x7B10).enc = 0x2E ∧
    (toG8 0x3DB34000#32 0x5000).enc = 0x2D := by decide +kernel

/-- The pairwise order of R481 adds five values as ((x0 + x1) + (x2 + x3)) + x4: of 2^24, 1, 1, 1 and -2^24 the pairs give 2^24 + 2, less 2^24. -/
theorem test_pair_sum :
    pairSum [] = 0#32 ∧ pairSum [0x3F800000#32] = 0x3F800000#32 ∧
    pairSum [0x4B800000#32, 0x3F800000#32, 0x3F800000#32, 0x3F800000#32, 0xCB800000#32] = 0x40000000#32 := by decide +kernel

/-- 1 / 1, 2^0, log2 1 and the square root of 4. -/
theorem test_functions :
    recip 0x3F800000#32 = 0x3F800000#32 ∧ exp2 0#32 = 0x3F800000#32 ∧ log2 0x3F800000#32 = 0#32 ∧ fsqrt 0x40800000#32 = 0x40000000#32 := by
  decide +kernel

/-- F8 saturates at 448, B16 keeps the upper half of 1.0. -/
theorem test_narrow : toF8 0x44000000#32 = ⟨0x7E, true, false⟩ ∧ toB16 0x3F800000#32 = 0x3F80 := by decide +kernel

/-- SHA-384 of "abc" and of no bytes (FIPS 180-4's published digests), first eight bytes; CRC-32C of "123456789" (its check value). -/
theorem test_digests :
    leNat ((sha384 (ascii "abc")).take 8).reverse = 0xCB00753F45A35E8B ∧ leNat ((sha384 []).take 8).reverse = 0x38B060A751AC9638 ∧
    crc32c (ascii "123456789") = 0xE3069283 := by decide +kernel

/-- Philox-4x32-10 of a zero key and counter (the published known answer). -/
theorem test_philox : philox 0 0 = ⟨0x6627E8D5#32, 0xE169C58D#32, 0xBC57AC4C#32, 0x9B00DBD8#32⟩ := by decide +kernel

/-- The key-value example of chapter 8: 4,096 positions of 122,880 bytes are 503,316,480 bytes, 7,680 pages. -/
theorem test_kv_pages :
    kvPagesOf { shape with kvBytes := 122880 } { prompt with prompt := List.replicate 3000 1, maxTokens := 1096 } = 7680 := by decide +kernel

/-- The example of chapter 11: 3 is newer than 0xFFFF_FFFE. -/
theorem test_newer : newer 32 3 0xFFFFFFFE = true ∧ newer 32 0xFFFFFFFE 3 = false := by decide +kernel

/-- The example of chapter 13: a group of 64 tiles without tile 37 runs on tiles 0 to 31. -/
theorem test_reduced_group :
    { up with phys := ((List.range 64).filter (· ≠ 37)).map (fun i => (i, i % 16)) }.reducedBlock 0 64 = some (List.range 32) := by
  decide +kernel

/-- The example of chapter 9: between positions 4 and 6 of a ring of eight, a joiner takes the vacant position 5. -/
theorem test_position_taken :
    chooseIn { blankRoll with ringSize := 8, entries := (List.range 32).map (fun p => if p < 8 && p ≠ 5 then entryOf (p + 1) else vacantEntry) } 4 6 =
      some 5 := by decide +kernel

/-- The example of chapter 6: a read cap of 90 percent of a split of 50 is 288 credits. -/
theorem test_cap_credits : capCredits ⟨50, 30, 20⟩ ⟨90, 25, 25⟩ 0 = 288 := by decide +kernel

/-- The example of chapter 5: owner rank 3 of eight holds tensors 3, 11, ... of 120. -/
theorem test_owner_rank :
    ((List.range 120).filter (fun i => ({ varA with owners := List.range 8 } : Var).ownerOf i = 3)) =
      (List.range 15).map (fun k => 8 * k + 3) := by decide +kernel

/-- The example of chapter 10: a unit of 81,920 cc on 64 tiles adds 1,145,324,612 to v at a weight of 300. -/
theorem test_charge :
    (match exec (.unitEnd 0 81920) { withT { ctxA with
        settings := { sets with weight := 300 }, running := some ⟨.stopped, List.range 64⟩ } with pending := [] } with
      | .next t => (t.ctx 0).map (fun c => c.v)
      | _ => none) = some 1145324612 := by decide +kernel

/-- The SUBMIT packet of chapter 12, byte by byte. -/
def submitPacket : Bytes :=
  [0x41, 0x51, 0x01, 0x00, 0x01, 0x04, 0x00, 0x00, 0x61, 0x22, 0x00, 0x00, 0xD4, 0x00, 0x00, 0x00, 0x9C, 0x01, 0x00, 0x00,
   0x2C, 0x00, 0x00, 0x00, 0, 0, 0, 0, 0, 0, 0, 0, 0x01, 0x00, 0x0C, 0x00, 0x11, 0, 0, 0, 0xC0, 0x0F, 0, 0, 0x8F, 0x03, 0, 0] ++
  [0x02, 0x00, 0x04, 0x00, 64, 0, 0, 0]

theorem test_submit_header :
    submitPacket.length = 56 ∧ phMajor submitPacket = 1 ∧ phOpcode submitPacket = 0x0401 ∧ phBodyLength submitPacket = 44 ∧
    phCmd 2 submitPacket = ⟨2, 0x2261, 212, 412⟩ := by decide +kernel

/-! ## One step of a family -/

/-- The example of R424: a report of 752 bytes leaves in a SEND of 796. -/
theorem test_report_send_length :
    (({ qp := 1, minor := 0, opcode := 0x8704, final := true, seq := 9, ctx := 0, variant := 0, status := some 0,
        params := [(0x81, List.replicate 752 0)] } : Packet).bytes).length = 796 := by decide +kernel

/-- The first bytes of shipped profile 0 (R456, R458): service mode, ports 0 and 1 FABRIC, 2 RING_WEST, 3 RING_EAST. -/
theorem test_profile_layout :
    (profileBytes (Profile.shipped0 1)).length = 64 ∧ field (profileBytes (Profile.shipped0 1)) 2 3 = 0x003211 ∧
    slice (profileBytes (Profile.shipped0 1)) 6 3 = [50, 30, 20] := by decide +kernel

/-- Start-up step 1 (R470): AUX_3V3 on, PGOOD low, nFAULT released, BYP_STAT low. -/
theorem test_outputs_at_reset : State.reset.outputs = ⟨true, false, false, false⟩ := by decide +kernel

/-- The outcome is a next state with a property. -/
def nextIs (r : Res) (p : State → Bool) : Bool := match r with | .next t => p t | _ => false

/-- A step takes the front command: power comes, and the queue is shorter by one. -/
theorem test_step :
    nextIs (step { up with pending := [.strapSample 1, .intakeRound] }) (fun t => decide (t.pending = [.intakeRound])) = true := by
  decide +kernel

theorem test_hello_opens :
    nextIs (exec (.hello { cmd with qp := 3 } [(1, 5)]) up) (fun t => decide ((t.qps.find 3).map (fun q => (q.st, q.minor)) =
      some (.openState, 0))) = true := by decide +kernel

theorem test_duplicate_sequence_stops :
    (match exec (.ringLeave cmd) { up with sessions := [(0, { opSess with awaiting := [(1, 7)] })] } with
      | .fault .duplicateSequence => true
      | _ => false) = true := by decide +kernel

theorem test_tenant_may_not_leave_ring :
    nextIs (exec (.ringLeave tcmd) up) (fun t => decide (t.out.length = 1) && decide (t.ring = up.ring)) = true := by decide +kernel

theorem test_suspend : nextIs (exec (.contextSuspend cmd) up) (fun t => decide (t.ctxState 0 = .suspended)) = true := by decide +kernel

theorem test_nop_completes :
    nextIs (exec (.nop 0) (onTile (List.replicate 32 0))) (fun t => decide ((t.tile 0).queue = []) &&
      decide ((t.tile 0).completions = [0])) = true := by decide +kernel

theorem test_copy_lands :
    nextIs (exec (.transferLand 3 0 [] .clean) { transportUp with
      streams := [(3, { strmIn 1 .running with issued := 1, outstanding := [(0, [0x5A#8])] })] })
      (fun t => decide (readByte t.mem 0x1000 = 0x5A#8)) = true := by decide +kernel

theorem test_signal_loss_holds : nextIs (exec (.ringSignalLoss 2) onRing) (fun t => decide ((t.link 2).st = .held)) = true := by decide +kernel

theorem test_warm_reset :
    nextIs (exec .nrstAssert up) (fun t => decide (t.power.mode = .warmReset true) && decide (t.ctxs = [])) = true := by decide +kernel

theorem test_fr_index_caps : nextIs (exec (.frIndexWrite 200) up) (fun t => decide (t.board.frIndex = 63)) = true := by decide +kernel

end Sys2Proof.Tests
end

section
/-! PROOFS. What the gaffer takes before READY (R314): the opcodes taken then, their general checks, the BUSY of all others, and the
opening of queue pairs and sessions. -/

namespace Sys2Proof.Machine

/-! ## The opcodes taken before READY -/

/-- Among the commands the general checks decide, the reference marks HELLO, CLOSE_SESSION, QUERY and FAULT_RECORD_READ as taken
before READY (R314), and no other. -/
theorem gafferSpec_early {i : Instr} {k : OpSpec} {c : Cmd} (h : gafferSpec i = some (k, c)) :
    k.early = decide (k.op ∈ [opHello, opCloseSession, opQuery, opFaultRecordRead]) := by
  unfold gafferSpec at h
  split at h <;> cases h <;> rfl

/-- READY is read by the first general check alone, and there not for an opcode taken early. -/
theorem generalCheck_of_early {k : OpSpec} (he : k.early = true) (c : Cmd) (ss : Session) (s : State) (b : Bool) :
    generalCheck k c ss { s with power := { s.power with ready := b } } = generalCheck k c ss s := by
  simp only [generalCheck, he, Bool.not_true, Bool.and_false]
  rfl

/-- Before READY the first general check fails for an opcode not taken early (R484 step 5). -/
theorem generalCheck_busy_of_not_early {k : OpSpec} {s : State} (he : k.early = false) (hr : s.power.ready = false) (c : Cmd)
    (ss : Session) : generalCheck k c ss s = some stBusy := by
  simp [generalCheck, he, hr]

/-! ## A refusal on a session -/

@[simp] theorem State.sendOn_power (s : State) (n : Nat) (p : Packet) : (s.sendOn n p).power = s.power := by
  unfold State.sendOn
  split
  · split <;> simp
  · rfl

@[simp] theorem State.sendOn_fw (s : State) (n : Nat) (p : Packet) : (s.sendOn n p).fw = s.fw := by
  unfold State.sendOn
  split
  · split <;> simp
  · rfl

theorem State.resetIfDue_of_none {s : State} (h : s.power.resetAfter = none) : s.resetIfDue = s := by
  simp [State.resetIfDue, h]

theorem State.goOffline_of_none {s : State} (h : s.fw.activateTicket = none) : s.goOffline = s := by
  simp [State.goOffline, h]

/-- A command but HELLO that fails a general check is refused with that check's status, and nothing follows: no reset is due and no
image is being activated. -/
theorem exec_refuses {i : Instr} {k : OpSpec} {c : Cmd} {n st : Nat} {ss : Session} {q : Qp} {s : State}
    (hi : gafferSpec i = some (k, c)) (hh : ∀ c o, i ≠ .hello c o) (hq : s.reaches c.qp = some q) (hs : q.st = .session n)
    (hss : s.sessions.find n = some ss) (hf : ss.awaits c.seq = false) (hr : s.power.resetAfter = none)
    (ha : s.fw.activateTicket = none) (hg : generalCheck k c ss s = some st) :
    exec i s = .next (s.sendOn n (s.replyOf (ticketOf c k.op n ss.serial) true st (refusalParams k.op))) := by
  obtain ⟨body, h | h | h⟩ := exec_gaffer s hi hh <;> rw [h, gafferWith_refuses hq hs hss hf hg body]
  · rfl
  · exact congrArg Host.Outcome.next (State.resetIfDue_of_none (by simpa [State.refuse] using hr))
  · exact congrArg Host.Outcome.next (State.goOffline_of_none (by simpa [State.refuse] using ha))

/-! ## Sessions and queue pairs open -/

/-- OPEN_SESSION on a queue pair in the OPEN state with a key of its role opens the lowest free session (R306). -/
theorem exec_openSession_opens {s : State} {q : Qp} {c : Cmd} {role m : Nat} {key : Bytes} (hq : s.reaches c.qp = some q)
    (hs : q.st = .openState) (hrole : role ≤ 1) (hkey : (s.keysFor role c.ctx).any (fun k => k.accepts key) = true)
    (hm : s.sessions.lowestFree 1024 = some m) :
    ∃ t : State, exec (.openSession c role key) s = .next t ∧ (t.sessions.find m).isSome := by
  have hexec : exec (.openSession c role key) s = .next (s.openOn c role key) := by
    simp [exec, execOpenSession, hq, hs, Nat.not_lt.mpr hrole]
  exact ⟨_, hexec, by simp [State.openOn, hkey, hm]⟩

/-- An offer of major 1 gives a minor to agree on. -/
theorem offeredMinor_isSome {offers : List (Nat × Nat)} {m : Nat} (h : (1, m) ∈ offers) : (offeredMinor offers).isSome := by
  have hm : m ∈ (offers.filter (fun o => decide (o.1 = 1))).map (fun o => o.2) := by
    simpa using h
  unfold offeredMinor
  split
  case h_1 he => simp [he] at hm
  case h_2 => rfl

/-- HELLO on a queue pair in the HELLO state with an offer of major 1 moves the pair to the OPEN state (R303). -/
theorem exec_hello_opens {s : State} {q : Qp} {c : Cmd} {m : Nat} {offers : List (Nat × Nat)} (hq : s.reaches c.qp = some q)
    (hs : q.st = .hello) (hf : s.qps.find c.qp = some q) (hlen : offers.length ≤ 8) (hm : (1, m) ∈ offers) :
    ∃ (t : State) (v : Nat), exec (.hello c offers) s = .next t ∧
      t.qps.find c.qp = some { q with st := .openState, minor := v } := by
  obtain ⟨a, ha⟩ := Option.isSome_iff_exists.mp (offeredMinor_isSome hm)
  have hexec : exec (.hello c offers) s = .next (s.greet c q offers) := by
    simp [exec, execHello, hq, hs, List.ne_nil_of_mem hm, Nat.not_lt.mpr hlen]
  exact ⟨_, min a s.fwMinor, hexec, by simp [State.greet, State.replyBare, hs, ha, hf, Tab.find_modify]⟩

/-! ## The statement -/

/-- Settles O5: the opcode's mark in the reference decides whether the check of READY is read, and OPEN_SESSION and HELLO on a pair
without a session read no general check. -/
theorem beforeReadyOnlyFiveCommands : Obligations.before_ready_only_five_commands := by
  intro s q n ss c hq hready
  refine ⟨fun i k hi hs hss hf hr ha => ?_, fun role key m hs _ hrole hkey hm => exec_openSession_opens hq hs hrole hkey hm,
    fun offers m hs hfind hlen hm => exec_hello_opens hq hs hfind hlen hm⟩
  have hearly := gafferSpec_early hi
  split
  case isTrue hop => exact (generalCheck_of_early (by simp [hearly, hop]) c ss s true).symm
  case isFalse hop =>
    have hbusy : generalCheck k c ss s = some stBusy := generalCheck_busy_of_not_early (by simp [hearly, hop]) hready c ss
    have hhello : ∀ c' o, i ≠ .hello c' o := by
      rintro c' o rfl
      cases hi
      exact hop (by decide)
    exact ⟨refusalParams k.op, fun hsub => if_neg hsub, exec_refuses hi hhello hq hs hss hf hr ha hbusy⟩

end Sys2Proof.Machine
end

section
/-! PROOFS. Coincident resets (R453): what a fault record, the closing of the bypass and a warm reset leave as it was, what the pin nRST
does in each mode, and the image that step 2 then runs. -/

namespace Sys2Proof.Machine

/-! ## Fault records and the bypass -/

/-- A detail word takes at most a free value from the state. -/
theorem State.detail_eq (s : State) (kind i v : Nat) : ∃ n, (s.detail kind i v).2 = { s with freeCount := n } := by
  unfold State.detail
  split
  · exact ⟨s.freeCount, rfl⟩
  · exact ⟨s.freeCount + 1, rfl⟩

/-- A fault record changes the list of records and its numbering, and nothing else but the counter of free values (R407). -/
theorem State.record_eq (s : State) (r : FaultRecord) : ∃ n l,
    s.record r = { s with freeCount := n, flash := { s.flash with faults := l, recordSeq := s.flash.recordSeq + 1 } } := by
  obtain ⟨n, hn⟩ := s.detail_eq r.kind 0 r.detail0
  obtain ⟨m, hm⟩ := State.detail_eq { s with freeCount := n } r.kind 1 r.detail1
  simp only [State.record, hn, hm]
  exact ⟨m, _, rfl⟩

/-- The bypass closes on the board, and a fault record may tell of it: nothing else changes (R259, R408). -/
theorem State.closeBypass_eq (s : State) (outcome : Nat) : ∃ n l m b,
    s.closeBypass outcome = { s with freeCount := n, flash := { s.flash with faults := l, recordSeq := m }, board := b } := by
  unfold State.closeBypass
  split
  · exact ⟨_, _, _, _, rfl⟩
  · split
    · obtain ⟨n, l, h⟩ := (s.modBoard (fun b => { b with bypassMoving := some false })).record_eq (blankRecord fkBypassFaultClose outcome)
      exact ⟨n, l, _, _, h⟩
    · exact ⟨_, _, _, _, rfl⟩

/-! ## What resets keep -/

/-- A warm reset keeps what the boot ROM reads: the fuses, the two slots, the slot control record and the boot count (R451). -/
theorem State.warmReset_keeps (s : State) (byPin : Bool) : ∃ l m,
    (s.warmReset byPin).fuses = s.fuses ∧ (s.warmReset byPin).flash = { s.flash with faults := l, recordSeq := m } := by
  obtain ⟨n, l, m, b, h⟩ := s.closeBypass_eq 3
  exact ⟨l, m, by simp [State.warmReset, State.stopAll, h]⟩

@[simp] theorem State.warmReset_mode (s : State) (byPin : Bool) : (s.warmReset byPin).power.mode = .warmReset byPin := rfl

@[simp] theorem State.loseInput_mode (s : State) : s.loseInput.power.mode = .unpowered := rfl

@[simp] theorem State.loseInput_cold (s : State) : s.loseInput.power.cold = true := rfl

@[simp] theorem State.toStep_mode (s : State) (n : Nat) : (s.toStep n).power.mode = .starting n := rfl

@[simp] theorem State.toStep_cold (s : State) (n : Nat) : (s.toStep n).power.cold = s.power.cold := rfl

@[simp] theorem State.toStep_fw (s : State) (n : Nat) : (s.toStep n).fw = s.fw := rfl

/-! ## The pin nRST and the input -/

/-- nRST begins a warm reset in every mode but these: without power, in start-up step 1, and in a warm reset (R453, R469). -/
theorem exec_nrstAssert_resets {s : State} (hu : s.power.mode ≠ .unpowered) (h1 : s.power.mode ≠ .starting 1)
    (hw : ∀ b, s.power.mode ≠ .warmReset b) :
    exec .nrstAssert s = .next ((s.modBoard (fun b => { b with nrstLow := true })).warmReset true) := by
  -- The hypotheses exclude the match's three other arms.
  simp only [exec, execNrstAssert, State.modBoard_power]

/-- In start-up step 1 a falling nRST changes the pin and nothing else (R469). -/
theorem exec_nrstAssert_step1 {s : State} (h : s.power.mode = .starting 1) :
    exec .nrstAssert s = .next (s.modBoard (fun b => { b with nrstLow := true })) := by
  simp [exec, execNrstAssert, h]

/-- The release of nRST ends a warm reset that the pin holds, with step 2 (R451). -/
theorem exec_nrstRelease_warmReset {s : State} (h : s.power.mode = .warmReset true) :
    exec .nrstRelease s = .next ((s.modBoard (fun b => { b with nrstLow := false })).toStep 2) := by
  simp [exec, execNrstRelease, h]

/-- The release of nRST in step 1 goes on with step 2 once step 1 has ended (R469). -/
theorem exec_nrstRelease_step1 {s : State} (h : s.power.mode = .starting 1) :
    ∃ u : State, exec .nrstRelease s = .next u ∧ u.power.mode = .starting (if s.power.stepOneDone then 2 else 1) := by
  cases hd : s.power.stepOneDone
  case true => exact ⟨(s.modBoard (fun b => { b with nrstLow := false })).toStep 2, by simp [exec, execNrstRelease, h, hd], rfl⟩
  case false => exact ⟨s.modBoard (fun b => { b with nrstLow := false }), by simp [exec, execNrstRelease, h, hd], h⟩

/-- A loss of input takes the power away in every mode (R461). -/
theorem exec_inputLoss_loses {s : State} (h : s.power.mode ≠ .unpowered) : exec .inputLoss s = .next s.loseInput := by
  simp [exec, execInputLoss, h]

/-- Input back within 40 to 60 V begins start-up with step 1 (R459). -/
theorem exec_powerOn_starts {s : State} {d : Nat} (h : s.power.mode = .unpowered) (hlo : 400 ≤ d) (hhi : d ≤ 600) :
    exec (.powerOn d) s = .next ((s.modBoard (fun b => { b with input := d })).toStep 1) := by
  simp [exec, execPowerOn, h, hlo, hhi]

/-! ## The image of step 2 -/

/-- The boot ROM takes the image of the slot that the slot control record names, where it is valid (R416, R417). -/
theorem State.bootImage_of_activeSlot {s : State} {i : Image} (hi : s.flash.activeSlot = some i) (hok : s.imageOk i = true) :
    s.bootImage = some (i, false) := by
  simp [State.bootImage, hi, Option.filter_some_pos hok]

@[simp] theorem State.recordPowerLoss_fw (s : State) : s.recordPowerLoss.fw = s.fw := by
  unfold State.recordPowerLoss
  split
  · obtain ⟨n, l, h⟩ := s.record_eq (blankRecord fkPowerLoss 3)
    simp [h]
  · rfl

@[simp] theorem State.boot_running (s : State) (i : Image) (other : Bool) : (s.boot i other).fw.running = some i := by
  simp [State.boot]

/-- Step 2 ends with the boot image running, and step 3 begins, while the boot count has room (R417, R418). -/
theorem exec_step2_boots {s : State} {i : Image} {other : Bool} (h : s.power.mode = .starting 2) (hi : s.bootImage = some (i, other))
    (hc : s.flash.bootCount < 0xFFFFFFFF) :
    exec (.startupStepComplete .done) s = .next ((s.boot i other).toStep 3) := by
  simp [exec, execStartupStepComplete, h, State.endStep2, hi, bootLimit, Nat.not_le.mpr hc]

/-- nRST and its release from a mode that a warm reset can begin in: start-up goes on with step 2, and what the boot ROM reads is as
it was (R451, R453). -/
theorem exec_nrst_restarts {s : State} (hu : s.power.mode ≠ .unpowered) (h1 : s.power.mode ≠ .starting 1)
    (hw : ∀ b, s.power.mode ≠ .warmReset b) :
    ∃ t u : State, exec .nrstAssert s = .next t ∧ t.power.mode = .warmReset true ∧ exec .nrstRelease t = .next u ∧
      u.power.mode = .starting 2 ∧ u.fuses = s.fuses ∧ u.flash.activeSlot = s.flash.activeSlot ∧
      u.flash.bootCount = s.flash.bootCount := by
  obtain ⟨l, m, hfuses, hflash⟩ := (s.modBoard (fun b => { b with nrstLow := true })).warmReset_keeps true
  refine ⟨_, _, exec_nrstAssert_resets hu h1 hw, rfl, exec_nrstRelease_warmReset rfl, rfl, hfuses, ?_, ?_⟩ <;>
    simp [State.toStep, hflash, Flash.activeSlot]

/-! ## The statement -/

/-- Settles O20: an nRST from a mode that resets leads over a warm reset to step 2 with the slots as they were, one in step 1 changes
the pin alone, and a loss of input leads over no power to a cold step 1. -/
theorem coincidentResetsResolve : Obligations.coincident_resets_resolve := by
  intro s
  refine ⟨fun d hp hlo hhi => ?loss, fun k hk hk1 => ?startup, fun h1 => ?step1, fun k i _ ha hi hok hc => ?activate, fun h => ?quiet⟩
  case loss => exact ⟨_, _, exec_inputLoss_loses hp, rfl, exec_powerOn_starts rfl hlo hhi, rfl, rfl⟩
  case startup =>
    obtain ⟨t, u, ht, htm, hu, hum, -⟩ := exec_nrst_restarts (s := s) (by simp [hk]) (by simpa [hk] using hk1) (by simp [hk])
    exact ⟨t, u, ht, htm, hu, hum⟩
  case step1 =>
    obtain ⟨u, hu, hum⟩ := exec_nrstRelease_step1 (s := s.modBoard (fun b => { b with nrstLow := true })) h1
    exact ⟨_, u, exec_nrstAssert_step1 h1, h1, hu, hum⟩
  case activate =>
    obtain ⟨t, u, ht, -, hu, hum, hfuses, hslot, hcount⟩ :=
      exec_nrst_restarts (s := s) (by simp [ha]) (by simp [ha]) (by simp [ha])
    have hboot : u.bootImage = some (i, false) :=
      State.bootImage_of_activeSlot (hslot.trans hi) (by simpa [State.imageOk, hfuses] using hok)
    exact ⟨t, u, _, ht, hu, exec_step2_boots hum hboot (hcount ▸ hc), by simp, rfl⟩
  case quiet => rcases h with h | h | h <;> exact exec_nrstAssert_resets (by simp [h]) (by simp [h]) (by simp [h])

end Sys2Proof.Machine
end

section
/-! PROOFS. The tables stay in order: for each operation of the model one rule, that from a state whose tables are in order it leads to
another, in the order in which the operations are defined. -/

namespace Sys2Proof.Machine

/-! ## The parts of the invariant -/

section
variable {s : State} (h : s.TablesOk)
include h

theorem State.TablesOk.mem : Memory.wf s.mem := h.1
theorem State.TablesOk.qps : s.qps.wf := h.2.1
theorem State.TablesOk.sessions : s.sessions.wf := h.2.2.1
theorem State.TablesOk.counters : s.counters.wf := h.2.2.2.1
theorem State.TablesOk.ctxs : s.ctxs.wf := h.2.2.2.2.1
theorem State.TablesOk.createCounts : s.createCounts.wf := h.2.2.2.2.2.1
theorem State.TablesOk.vars : s.vars.wf := h.2.2.2.2.2.2.1
theorem State.TablesOk.evals : s.evals.wf := h.2.2.2.2.2.2.2.1
theorem State.TablesOk.requests : s.requests.wf := h.2.2.2.2.2.2.2.2.1
theorem State.TablesOk.tiles : s.tiles.wf := h.2.2.2.2.2.2.2.2.2.1
theorem State.TablesOk.phys : s.phys.wf := h.2.2.2.2.2.2.2.2.2.2.1
theorem State.TablesOk.spares : s.spares.wf := h.2.2.2.2.2.2.2.2.2.2.2.1
theorem State.TablesOk.streams : s.streams.wf := h.2.2.2.2.2.2.2.2.2.2.2.2.1
theorem State.TablesOk.stalls : s.stalls.wf := h.2.2.2.2.2.2.2.2.2.2.2.2.2.1
theorem State.TablesOk.ports : s.ports.wf := h.2.2.2.2.2.2.2.2.2.2.2.2.2.2.1
theorem State.TablesOk.links : s.links.wf := h.2.2.2.2.2.2.2.2.2.2.2.2.2.2.2

/-! The changes of one table, whatever else changes that is no table. -/

variable {pending : List Instr} {out : List Out} {freeCount profileNo drbgRequests drbgSeedAt intakeRounds nextId hbmFree : Nat}
  {fuses : Fuses} {flash : Flash} {board : Board} {power : Power} {profile : Profile} {selected : Option Nat} {fw : Firmware} {base :
    Base} {roundSubmits reclaimFull hbmRetired : List Nat} {park : List Parked} {pinWaits : List PinWait} {spaceWaits : List
      SpaceWait} {steps : List TStep} {replays : List Replay} {ring : Ring} {bundles : List HomeBundle} {homeStash : List HomeStash}

/-- Nothing but memory and the tables matters. -/
theorem State.TablesOk.rest :
    State.TablesOk ⟨pending, out, freeCount, s.mem, fuses, flash, board, power, profile, profileNo, selected, fw, base, drbgRequests,
      drbgSeedAt, s.qps, s.sessions, intakeRounds, roundSubmits, s.counters, s.ctxs, s.createCounts, s.vars, park, reclaimFull,
      pinWaits, spaceWaits, steps, s.evals, s.requests, replays, nextId, s.tiles, s.phys, s.spares, s.streams, s.stalls, hbmFree,
      hbmRetired, s.ports, s.links, ring, bundles, homeStash⟩ :=
  h

theorem State.TablesOk.withMem {m : List Host.Cell} (hm : Memory.wf m) :
    State.TablesOk ⟨pending, out, freeCount, m, fuses, flash, board, power, profile, profileNo, selected, fw, base, drbgRequests,
      drbgSeedAt, s.qps, s.sessions, intakeRounds, roundSubmits, s.counters, s.ctxs, s.createCounts, s.vars, park, reclaimFull,
      pinWaits, spaceWaits, steps, s.evals, s.requests, replays, nextId, s.tiles, s.phys, s.spares, s.streams, s.stalls, hbmFree,
      hbmRetired, s.ports, s.links, ring, bundles, homeStash⟩ :=
  ⟨hm, h.2⟩

theorem State.TablesOk.withQps {t : Tab Qp} (ht : t.wf) :
    State.TablesOk ⟨pending, out, freeCount, s.mem, fuses, flash, board, power, profile, profileNo, selected, fw, base, drbgRequests,
      drbgSeedAt, t, s.sessions, intakeRounds, roundSubmits, s.counters, s.ctxs, s.createCounts, s.vars, park, reclaimFull, pinWaits,
      spaceWaits, steps, s.evals, s.requests, replays, nextId, s.tiles, s.phys, s.spares, s.streams, s.stalls, hbmFree, hbmRetired,
      s.ports, s.links, ring, bundles, homeStash⟩ :=
  ⟨h.mem, ht, h.2.2⟩

theorem State.TablesOk.withSessions {t : Tab Session} (ht : t.wf) :
    State.TablesOk ⟨pending, out, freeCount, s.mem, fuses, flash, board, power, profile, profileNo, selected, fw, base, drbgRequests,
      drbgSeedAt, s.qps, t, intakeRounds, roundSubmits, s.counters, s.ctxs, s.createCounts, s.vars, park, reclaimFull, pinWaits,
      spaceWaits, steps, s.evals, s.requests, replays, nextId, s.tiles, s.phys, s.spares, s.streams, s.stalls, hbmFree, hbmRetired,
      s.ports, s.links, ring, bundles, homeStash⟩ :=
  ⟨h.mem, h.qps, ht, h.2.2.2⟩

theorem State.TablesOk.withCounters {t : Tab Counter} (ht : t.wf) :
    State.TablesOk ⟨pending, out, freeCount, s.mem, fuses, flash, board, power, profile, profileNo, selected, fw, base, drbgRequests,
      drbgSeedAt, s.qps, s.sessions, intakeRounds, roundSubmits, t, s.ctxs, s.createCounts, s.vars, park, reclaimFull, pinWaits,
      spaceWaits, steps, s.evals, s.requests, replays, nextId, s.tiles, s.phys, s.spares, s.streams, s.stalls, hbmFree, hbmRetired,
      s.ports, s.links, ring, bundles, homeStash⟩ :=
  ⟨h.mem, h.qps, h.sessions, ht, h.2.2.2.2⟩

theorem State.TablesOk.withCtxs {t : Tab Ctx} (ht : t.wf) :
    State.TablesOk ⟨pending, out, freeCount, s.mem, fuses, flash, board, power, profile, profileNo, selected, fw, base, drbgRequests,
      drbgSeedAt, s.qps, s.sessions, intakeRounds, roundSubmits, s.counters, t, s.createCounts, s.vars, park, reclaimFull, pinWaits,
      spaceWaits, steps, s.evals, s.requests, replays, nextId, s.tiles, s.phys, s.spares, s.streams, s.stalls, hbmFree, hbmRetired,
      s.ports, s.links, ring, bundles, homeStash⟩ :=
  ⟨h.mem, h.qps, h.sessions, h.counters, ht, h.2.2.2.2.2⟩

theorem State.TablesOk.withCreateCounts {t : Tab Nat} (ht : t.wf) :
    State.TablesOk ⟨pending, out, freeCount, s.mem, fuses, flash, board, power, profile, profileNo, selected, fw, base, drbgRequests,
      drbgSeedAt, s.qps, s.sessions, intakeRounds, roundSubmits, s.counters, s.ctxs, t, s.vars, park, reclaimFull, pinWaits,
      spaceWaits, steps, s.evals, s.requests, replays, nextId, s.tiles, s.phys, s.spares, s.streams, s.stalls, hbmFree, hbmRetired,
      s.ports, s.links, ring, bundles, homeStash⟩ :=
  ⟨h.mem, h.qps, h.sessions, h.counters, h.ctxs, ht, h.2.2.2.2.2.2⟩

theorem State.TablesOk.withVars {t : Tab Var} (ht : t.wf) :
    State.TablesOk ⟨pending, out, freeCount, s.mem, fuses, flash, board, power, profile, profileNo, selected, fw, base, drbgRequests,
      drbgSeedAt, s.qps, s.sessions, intakeRounds, roundSubmits, s.counters, s.ctxs, s.createCounts, t, park, reclaimFull, pinWaits,
      spaceWaits, steps, s.evals, s.requests, replays, nextId, s.tiles, s.phys, s.spares, s.streams, s.stalls, hbmFree, hbmRetired,
      s.ports, s.links, ring, bundles, homeStash⟩ :=
  ⟨h.mem, h.qps, h.sessions, h.counters, h.ctxs, h.createCounts, ht, h.2.2.2.2.2.2.2⟩

theorem State.TablesOk.withEvals {t : Tab EvalRun} (ht : t.wf) :
    State.TablesOk ⟨pending, out, freeCount, s.mem, fuses, flash, board, power, profile, profileNo, selected, fw, base, drbgRequests,
      drbgSeedAt, s.qps, s.sessions, intakeRounds, roundSubmits, s.counters, s.ctxs, s.createCounts, s.vars, park, reclaimFull,
      pinWaits, spaceWaits, steps, t, s.requests, replays, nextId, s.tiles, s.phys, s.spares, s.streams, s.stalls, hbmFree,
      hbmRetired, s.ports, s.links, ring, bundles, homeStash⟩ :=
  ⟨h.mem, h.qps, h.sessions, h.counters, h.ctxs, h.createCounts, h.vars, ht, h.2.2.2.2.2.2.2.2⟩

theorem State.TablesOk.withRequests {t : Tab Request} (ht : t.wf) :
    State.TablesOk ⟨pending, out, freeCount, s.mem, fuses, flash, board, power, profile, profileNo, selected, fw, base, drbgRequests,
      drbgSeedAt, s.qps, s.sessions, intakeRounds, roundSubmits, s.counters, s.ctxs, s.createCounts, s.vars, park, reclaimFull,
      pinWaits, spaceWaits, steps, s.evals, t, replays, nextId, s.tiles, s.phys, s.spares, s.streams, s.stalls, hbmFree, hbmRetired,
      s.ports, s.links, ring, bundles, homeStash⟩ :=
  ⟨h.mem, h.qps, h.sessions, h.counters, h.ctxs, h.createCounts, h.vars, h.evals, ht, h.2.2.2.2.2.2.2.2.2⟩

theorem State.TablesOk.withTiles {t : Tab Tile} (ht : t.wf) :
    State.TablesOk ⟨pending, out, freeCount, s.mem, fuses, flash, board, power, profile, profileNo, selected, fw, base, drbgRequests,
      drbgSeedAt, s.qps, s.sessions, intakeRounds, roundSubmits, s.counters, s.ctxs, s.createCounts, s.vars, park, reclaimFull,
      pinWaits, spaceWaits, steps, s.evals, s.requests, replays, nextId, t, s.phys, s.spares, s.streams, s.stalls, hbmFree,
      hbmRetired, s.ports, s.links, ring, bundles, homeStash⟩ :=
  ⟨h.mem, h.qps, h.sessions, h.counters, h.ctxs, h.createCounts, h.vars, h.evals, h.requests, ht, h.2.2.2.2.2.2.2.2.2.2⟩

theorem State.TablesOk.withPhys {t : Tab Nat} (ht : t.wf) :
    State.TablesOk ⟨pending, out, freeCount, s.mem, fuses, flash, board, power, profile, profileNo, selected, fw, base, drbgRequests,
      drbgSeedAt, s.qps, s.sessions, intakeRounds, roundSubmits, s.counters, s.ctxs, s.createCounts, s.vars, park, reclaimFull,
      pinWaits, spaceWaits, steps, s.evals, s.requests, replays, nextId, s.tiles, t, s.spares, s.streams, s.stalls, hbmFree,
      hbmRetired, s.ports, s.links, ring, bundles, homeStash⟩ :=
  ⟨h.mem, h.qps, h.sessions, h.counters, h.ctxs, h.createCounts, h.vars, h.evals, h.requests, h.tiles, ht, h.spares, h.streams,
    h.stalls, h.ports, h.links⟩

theorem State.TablesOk.withSpares {t : Tab Nat} (ht : t.wf) :
    State.TablesOk ⟨pending, out, freeCount, s.mem, fuses, flash, board, power, profile, profileNo, selected, fw, base, drbgRequests,
      drbgSeedAt, s.qps, s.sessions, intakeRounds, roundSubmits, s.counters, s.ctxs, s.createCounts, s.vars, park, reclaimFull,
      pinWaits, spaceWaits, steps, s.evals, s.requests, replays, nextId, s.tiles, s.phys, t, s.streams, s.stalls, hbmFree, hbmRetired,
      s.ports, s.links, ring, bundles, homeStash⟩ :=
  ⟨h.mem, h.qps, h.sessions, h.counters, h.ctxs, h.createCounts, h.vars, h.evals, h.requests, h.tiles, h.phys, ht, h.streams,
    h.stalls, h.ports, h.links⟩

theorem State.TablesOk.withStreams {t : Tab Strm} (ht : t.wf) :
    State.TablesOk ⟨pending, out, freeCount, s.mem, fuses, flash, board, power, profile, profileNo, selected, fw, base, drbgRequests,
      drbgSeedAt, s.qps, s.sessions, intakeRounds, roundSubmits, s.counters, s.ctxs, s.createCounts, s.vars, park, reclaimFull,
      pinWaits, spaceWaits, steps, s.evals, s.requests, replays, nextId, s.tiles, s.phys, s.spares, t, s.stalls, hbmFree, hbmRetired,
      s.ports, s.links, ring, bundles, homeStash⟩ :=
  ⟨h.mem, h.qps, h.sessions, h.counters, h.ctxs, h.createCounts, h.vars, h.evals, h.requests, h.tiles, h.phys, h.spares, ht,
    h.stalls, h.ports, h.links⟩

theorem State.TablesOk.withStalls {t : Tab Counter} (ht : t.wf) :
    State.TablesOk ⟨pending, out, freeCount, s.mem, fuses, flash, board, power, profile, profileNo, selected, fw, base, drbgRequests,
      drbgSeedAt, s.qps, s.sessions, intakeRounds, roundSubmits, s.counters, s.ctxs, s.createCounts, s.vars, park, reclaimFull,
      pinWaits, spaceWaits, steps, s.evals, s.requests, replays, nextId, s.tiles, s.phys, s.spares, s.streams, t, hbmFree, hbmRetired,
      s.ports, s.links, ring, bundles, homeStash⟩ :=
  ⟨h.mem, h.qps, h.sessions, h.counters, h.ctxs, h.createCounts, h.vars, h.evals, h.requests, h.tiles, h.phys, h.spares, h.streams,
    ht, h.ports, h.links⟩

theorem State.TablesOk.withPorts {t : Tab Port} (ht : t.wf) :
    State.TablesOk ⟨pending, out, freeCount, s.mem, fuses, flash, board, power, profile, profileNo, selected, fw, base, drbgRequests,
      drbgSeedAt, s.qps, s.sessions, intakeRounds, roundSubmits, s.counters, s.ctxs, s.createCounts, s.vars, park, reclaimFull,
      pinWaits, spaceWaits, steps, s.evals, s.requests, replays, nextId, s.tiles, s.phys, s.spares, s.streams, s.stalls, hbmFree,
      hbmRetired, t, s.links, ring, bundles, homeStash⟩ :=
  ⟨h.mem, h.qps, h.sessions, h.counters, h.ctxs, h.createCounts, h.vars, h.evals, h.requests, h.tiles, h.phys, h.spares, h.streams,
    h.stalls, ht, h.links⟩

theorem State.TablesOk.withLinks {t : Tab Link} (ht : t.wf) :
    State.TablesOk ⟨pending, out, freeCount, s.mem, fuses, flash, board, power, profile, profileNo, selected, fw, base, drbgRequests,
      drbgSeedAt, s.qps, s.sessions, intakeRounds, roundSubmits, s.counters, s.ctxs, s.createCounts, s.vars, park, reclaimFull,
      pinWaits, spaceWaits, steps, s.evals, s.requests, replays, nextId, s.tiles, s.phys, s.spares, s.streams, s.stalls, hbmFree,
      hbmRetired, s.ports, t, ring, bundles, homeStash⟩ :=
  ⟨h.mem, h.qps, h.sessions, h.counters, h.ctxs, h.createCounts, h.vars, h.evals, h.requests, h.tiles, h.phys, h.spares, h.streams,
    h.stalls, h.ports, ht⟩

end

/-- Nothing is listed at power-on, so nothing is out of order (R459). -/
theorem State.TablesOk.resetOf (grade : Nat) : (State.resetOf grade).TablesOk := by
  refine ⟨⟨List.Pairwise.nil, by simp [State.resetOf]⟩, ?_⟩
  repeat' constructor

/-- Nothing is listed at reset (R459). -/
theorem State.TablesOk.reset : State.reset.TablesOk := .resetOf 1

/-! ## Outcomes, branches and runs -/

/-- An outcome that goes on, goes on with its tables in order. -/
def Res.Ok (r : Res) : Prop := ∀ t, r = .next t → t.TablesOk

/-- Of what may give no state, one that is given has its tables in order. -/
def SomeOk (o : Option State) : Prop := ∀ t, o = some t → t.TablesOk

theorem Res.Ok.next {s : State} (h : s.TablesOk) : Res.Ok (.next s) := by rintro t ⟨⟩; exact h

theorem Res.Ok.fault {e : Fault} : Res.Ok (.fault e) := by rintro t ⟨⟩

theorem Res.Ok.refused {e : Refusal} : Res.Ok (.refused e) := by rintro t ⟨⟩

theorem SomeOk.some {s : State} (h : s.TablesOk) : SomeOk (.some s) := by rintro t ⟨⟩; exact h

theorem SomeOk.none : SomeOk .none := by rintro t ⟨⟩

theorem Res.Ok.ite {c : Prop} [Decidable c] {r r' : Res} (h : Res.Ok r) (h' : Res.Ok r') : Res.Ok (if c then r else r') := by
  split
  · exact h
  · exact h'

theorem State.TablesOk.ite {c : Prop} [Decidable c] {s t : State} (hs : s.TablesOk) (ht : t.TablesOk) :
    (if c then s else t).TablesOk := by
  split
  · exact hs
  · exact ht

theorem SomeOk.ite {c : Prop} [Decidable c] {o o' : Option State} (h : SomeOk o) (h' : SomeOk o') : SomeOk (if c then o else o') := by
  split
  · exact h
  · exact h'

theorem State.TablesOk.foldl {α : Type} {f : State → α → State} (hf : ∀ ⦃s⦄, s.TablesOk → ∀ a, (f s a).TablesOk) {l : List α}
    {s : State} (h : s.TablesOk) : (l.foldl f s).TablesOk := by
  induction l generalizing s with
  | nil => exact h
  | cons a l ih => exact ih (hf h a)

/-! ## Ops -/

theorem Res.Ok.bind {r : Res} (hr : Res.Ok r) {f : State → Res} (hf : ∀ ⦃s⦄, s.TablesOk → Res.Ok (f s)) : Res.Ok (r.bind f) := by
  cases r with
  | next s => exact hf (hr s rfl)
  | fault e => exact .fault
  | refused e => exact .refused

theorem Res.Ok.each {α : Type} {l : List α} {f : α → State → Res} (hf : ∀ a ⦃s⦄, s.TablesOk → Res.Ok (f a s)) {s : State}
    (h : s.TablesOk) : Res.Ok (Res.each l f s) := by
  induction l generalizing s with
  | nil => exact .next h
  | cons a l ih => exact .bind (hf a h) (fun _ hs => ih hs)

theorem State.TablesOk.eachDo {α : Type} {l : List α} {f : α → State → State} (hf : ∀ a ⦃s⦄, s.TablesOk → (f a s).TablesOk)
    {s : State} (h : s.TablesOk) : (eachDo l f s).TablesOk :=
  .foldl (fun _ hs _ => hf _ hs) h

theorem State.TablesOk.whenDo {c : Bool} {f : State → State} (hf : ∀ ⦃s⦄, s.TablesOk → (f s).TablesOk) {s : State} (h : s.TablesOk) :
    (whenDo c f s).TablesOk :=
  .ite (hf h) h

theorem State.TablesOk.setCtx {s : State} (h : s.TablesOk) {n : Nat} {c : Ctx} : (s.setCtx n c).TablesOk :=
  .withCtxs h (Tab.wf_put h.ctxs _ _)

theorem State.TablesOk.modCtx {s : State} (h : s.TablesOk) {n : Nat} {f : Ctx → Ctx} : (s.modCtx n f).TablesOk :=
  .withCtxs h (Tab.wf_modify h.ctxs _ _)

theorem State.TablesOk.setVar {s : State} (h : s.TablesOk) {n : Nat} {v : Var} : (s.setVar n v).TablesOk :=
  .withVars h (Tab.wf_put h.vars _ _)

theorem State.TablesOk.modVar {s : State} (h : s.TablesOk) {n : Nat} {f : Var → Var} : (s.modVar n f).TablesOk :=
  .withVars h (Tab.wf_modify h.vars _ _)

theorem State.TablesOk.modTile {s : State} (h : s.TablesOk) {n : Nat} {f : Tile → Tile} : (s.modTile n f).TablesOk :=
  .withTiles h (Tab.wf_put h.tiles _ _)

theorem State.TablesOk.modPort {s : State} (h : s.TablesOk) {n : Nat} {f : Port → Port} : (s.modPort n f).TablesOk :=
  .withPorts h (Tab.wf_put h.ports _ _)

theorem State.TablesOk.modLink {s : State} (h : s.TablesOk) {n : Nat} {f : Link → Link} : (s.modLink n f).TablesOk :=
  .withLinks h (Tab.wf_put h.links _ _)

theorem State.TablesOk.modQuad {s : State} (h : s.TablesOk) {n : Nat} {f : Quadrant → Quadrant} : (s.modQuad n f).TablesOk := .rest h

theorem State.TablesOk.modStrm {s : State} (h : s.TablesOk) {n : Nat} {f : Strm → Strm} : (s.modStrm n f).TablesOk :=
  .withStreams h (Tab.wf_modify h.streams _ _)

theorem State.TablesOk.modSession {s : State} (h : s.TablesOk) {n : Nat} {f : Session → Session} : (s.modSession n f).TablesOk :=
  .withSessions h (Tab.wf_modify h.sessions _ _)

theorem State.TablesOk.modQp {s : State} (h : s.TablesOk) {n : Nat} {f : Qp → Qp} : (s.modQp n f).TablesOk :=
  .withQps h (Tab.wf_modify h.qps _ _)

theorem State.TablesOk.modRing {s : State} (h : s.TablesOk) {f : Ring → Ring} : (s.modRing f).TablesOk := .rest h

theorem State.TablesOk.modPower {s : State} (h : s.TablesOk) {f : Power → Power} : (s.modPower f).TablesOk := .rest h

theorem State.TablesOk.modBoard {s : State} (h : s.TablesOk) {f : Board → Board} : (s.modBoard f).TablesOk := .rest h

theorem State.TablesOk.modFlash {s : State} (h : s.TablesOk) {f : Flash → Flash} : (s.modFlash f).TablesOk := .rest h

theorem State.TablesOk.modFw {s : State} (h : s.TablesOk) {f : Firmware → Firmware} : (s.modFw f).TablesOk := .rest h

theorem State.TablesOk.fresh {s : State} (h : s.TablesOk) : s.fresh.2.TablesOk := .rest h

theorem State.TablesOk.freeNat {s : State} (h : s.TablesOk) : s.freeNat.2.TablesOk := .rest h

theorem State.TablesOk.emit {s : State} (h : s.TablesOk) {o : Out} : (s.emit o).TablesOk := .rest h

theorem State.TablesOk.sendOn {s : State} (h : s.TablesOk) {session : Nat} {p : Packet} : (s.sendOn session p).TablesOk := by
  unfold State.sendOn
  split
  · exact .ite (.emit h) (.modSession h)
  · exact h

theorem State.TablesOk.answerWith {s : State} (h : s.TablesOk) {t : Ticket} {status : Nat} {params : List (Nat × Bytes)} :
    (s.answerWith t status params).TablesOk :=
  .ite (.sendOn (.modSession h)) h

theorem State.TablesOk.answer {s : State} (h : s.TablesOk) {t : Ticket} {status : Nat} : (s.answer t status).TablesOk := .answerWith h

theorem State.TablesOk.interim {s : State} (h : s.TablesOk) {t : Ticket} {status : Nat} {params : List (Nat × Bytes)} :
    (s.interim t status params).TablesOk :=
  .ite (.sendOn h) h

theorem State.TablesOk.answerAll {s : State} (h : s.TablesOk) {ts : List Ticket} {status : Nat} : (s.answerAll ts status).TablesOk :=
  .eachDo (fun _ _ hs => .answer hs) h

theorem State.TablesOk.deliver {s : State} (h : s.TablesOk) {e : Event} : (s.deliver e).TablesOk :=
  .withSessions h (Tab.wf_each h.sessions _)

theorem State.TablesOk.countError {s : State} (h : s.TablesOk) {id n : Nat} : (s.countError id n).TablesOk := by
  unfold State.countError
  extract_lets -underBinder -merge c c' s1
  have h1 : s1.TablesOk := .withCounters h (Tab.wf_put h.counters _ _)
  exact .ite (.deliver h1) h1

theorem State.TablesOk.countPerf {s : State} (h : s.TablesOk) {id n : Nat} : (s.countPerf id n).TablesOk :=
  .withCounters h (Tab.wf_put h.counters _ _)

theorem State.TablesOk.countF8 {s : State} (h : s.TablesOk) {n : Nat} : (s.countF8 n).TablesOk := .ite h (.countPerf h)

theorem State.TablesOk.countTenant {s : State} (h : s.TablesOk) {ctx place n : Nat} : (s.countTenant ctx place n).TablesOk := by
  unfold State.countTenant
  split
  · extract_lets -underBinder -merge k k' s1
    have h1 : s1.TablesOk := .setCtx h
    exact .ite (.deliver h1) h1
  · exact h

theorem State.TablesOk.raise {s : State} (h : s.TablesOk) {e : Event} : (s.raise e).TablesOk := by
  unfold State.raise
  split
  · extract_lets -underBinder -merge n s1
    have h1 : s1.TablesOk := .deliver h
    split
    · exact h1
    · split
      · exact .countError h1
      · exact .countTenant h1
  · exact h

theorem State.TablesOk.raiseFor {s : State} (h : s.TablesOk) {code cause : Nat} {params : List (Nat × Bytes)} :
    (s.raiseFor code cause params).TablesOk :=
  .raise h

theorem State.TablesOk.raiseModule {s : State} (h : s.TablesOk) {code : Nat} {params : List (Nat × Bytes)} :
    (s.raiseModule code params).TablesOk :=
  .raiseFor h

theorem State.TablesOk.raiseCtx {s : State} (h : s.TablesOk) {code ctx : Nat} {causeSeq step variant : Nat}
    {params : List (Nat × Bytes)} : (s.raiseCtx code ctx causeSeq step variant params).TablesOk :=
  .raise h

theorem State.TablesOk.freeLong {s : State} (h : s.TablesOk) : s.freeLong.2.TablesOk := .rest h

theorem State.TablesOk.freeOutcome {s : State} (h : s.TablesOk) : s.freeOutcome.2.TablesOk := .freeNat h

theorem State.TablesOk.detail {s : State} (h : s.TablesOk) {kind i v : Nat} : (s.detail kind i v).2.TablesOk := by
  unfold State.detail
  split
  · exact h
  · exact .freeLong h

theorem State.TablesOk.record {s : State} (h : s.TablesOk) {r : FaultRecord} : (s.record r).TablesOk := .modFlash (.detail (.detail h))

theorem State.TablesOk.draw {s : State} (h : s.TablesOk) {n : Nat} : (s.draw n).2.TablesOk := .rest h

theorem State.TablesOk.wakeTrigger {s : State} (h : s.TablesOk) : s.wakeTrigger.TablesOk := by
  unfold State.wakeTrigger
  split
  · exact .modPower h
  · exact .modPower h
  · exact h

theorem State.TablesOk.sendXon {s : State} (h : s.TablesOk) {p : Nat} : (s.sendXon p).TablesOk :=
  .eachDo (fun _ _ hs => .emit hs) (.modPort h)

theorem State.TablesOk.drainQp {s : State} (h : s.TablesOk) {qp : Nat} : (s.drainQp qp).TablesOk := by
  unfold State.drainQp
  split
  · exact .sendXon (.modPort h)
  · exact h

/-! ## Resets -/

theorem State.TablesOk.closeBypass {s : State} (h : s.TablesOk) {outcome : Nat} : (s.closeBypass outcome).TablesOk :=
  .ite h (.ite (.record (.modBoard h)) h)

theorem State.TablesOk.stopAll {s : State} (h : s.TablesOk) : s.stopAll.TablesOk := by
  obtain ⟨hmem, hqps, hsessions, -, hctxs, hcounts, hvars, hevals, hrequests, htiles, hphys, -, hstreams, -, hports, hlinks⟩ :=
    State.TablesOk.reset
  exact ⟨hmem, hqps, hsessions, h.counters, hctxs, hcounts, hvars, hevals, hrequests, htiles, hphys, h.spares, hstreams, h.stalls,
    hports, hlinks⟩

theorem State.TablesOk.enterFailed {s : State} (h : s.TablesOk) : s.enterFailed.TablesOk :=
  .modPower (.modBoard (.stopAll (.closeBypass h)))

theorem State.TablesOk.warmReset {s : State} (h : s.TablesOk) {byPin : Bool} : (s.warmReset byPin).TablesOk :=
  .modPower (.modBoard (.stopAll (.closeBypass h)))

theorem State.TablesOk.loseInput {s : State} (h : s.TablesOk) : s.loseInput.TablesOk := by
  unfold State.loseInput
  extract_lets -underBinder -merge ran s1 x s2
  have h1 : s1.TablesOk := .stopAll (.closeBypass h)
  have h2 : s2.TablesOk := ⟨h1.mem, h1.qps, h1.sessions, Tab.wf_nil, h1.ctxs, h1.createCounts, h1.vars, h1.evals, h1.requests,
      h1.tiles, h1.phys, Tab.wf_nil, h1.streams, Tab.wf_nil, h1.ports, h1.links⟩
  exact .modBoard (.modFlash h2)

theorem State.TablesOk.resetIfDue {s : State} (h : s.TablesOk) : s.resetIfDue.TablesOk := by
  unfold State.resetIfDue
  split
  · exact .ite h (.warmReset h)
  · exact h

theorem Res.Ok.thenReset {r : Res} (hr : Res.Ok r) : Res.Ok (thenReset r) := .bind hr (fun _ hs => .next (.resetIfDue hs))

/-! ## RingOps -/

theorem State.TablesOk.transmit {s : State} (h : s.TablesOk) {p : Nat} {f : Frame} : (s.transmit p f).TablesOk := .emit (.modLink h)

theorem State.TablesOk.trySend {s : State} (h : s.TablesOk) {p : Nat} {f : Frame} : SomeOk (s.trySend p f) := by
  unfold State.trySend
  extract_lets -underBinder -merge l c k
  split
  · exact .none
  · split
    · exact .some (.transmit h)
    · split
      · exact .ite (.some (.transmit (.modLink h))) .none
      · split
        · exact .some (.transmit (.modLink h))
        · exact .ite (.some (.transmit (.modLink h))) .none

theorem State.TablesOk.freePassing {s : State} (h : s.TablesOk) {q : Nat} {x : Passing} : (s.freePassing q x).TablesOk := .modLink h

theorem State.TablesOk.pumpPassing {p q : Nat} {l : List Passing} {blocked : List Nat} {s : State} (h : s.TablesOk) :
    (State.pumpPassing p q l blocked s).TablesOk := by
  induction l generalizing blocked s with
  | nil => exact h
  | cons x l ih =>
    unfold State.pumpPassing
    extract_lets k
    split
    · exact ih h
    · split
      next t ht => exact ih (.freePassing (h.trySend t ht))
      · exact ih h

theorem State.TablesOk.sendFirst {s : State} (h : s.TablesOk) {p : Nat} {l : List Frame} : SomeOk (s.sendFirst p l) := by
  induction l with
  | nil => exact .none
  | cons f l ih =>
    unfold State.sendFirst
    split
    next t ht => exact .some (.modLink (h.trySend t ht))
    · exact ih

theorem State.TablesOk.pumpOne {s : State} (h : s.TablesOk) {p : Nat} : SomeOk (s.pumpOne p) := by
  unfold State.pumpOne
  extract_lets l through plain own
  split
  next t ht => exact .some (h.sendFirst t ht)
  · split
    · split
      next t ht => exact .some (.modLink (h.sendFirst t ht))
      · exact .none
    · exact .none

theorem State.TablesOk.pumpQueue {p n : Nat} {s : State} (h : s.TablesOk) : (State.pumpQueue p n s).TablesOk := by
  induction n generalizing s with
  | zero => exact h
  | succ n ih =>
    unfold State.pumpQueue
    split
    next t ht => exact ih (h.pumpOne t ht)
    · exact h

theorem State.TablesOk.pump {s : State} (h : s.TablesOk) {p : Nat} : (s.pump p).TablesOk := by
  unfold State.pump
  extract_lets -underBinder -merge q s1 s2
  have h1 : s1.TablesOk := .pumpPassing h
  have h2 : s2.TablesOk := .ite (.pumpPassing h1) h1
  exact .pumpQueue h2

theorem State.TablesOk.enqueue {s : State} (h : s.TablesOk) {p : Nat} {f : Frame} : (s.enqueue p f).TablesOk := .pump (.modLink h)

theorem State.TablesOk.nextE2e {s : State} (h : s.TablesOk) {pair : Nat} : (s.nextE2e pair).2.TablesOk := .modRing h

theorem State.TablesOk.ringSendTag {s : State} (h : s.TablesOk) {dst msgType : Nat} {ctx tag length : Nat} {payload : Payload} :
    (s.ringSendTag dst msgType ctx tag length payload).TablesOk := by
  unfold State.ringSendTag
  exact .ite h (.enqueue (.nextE2e h))

theorem State.TablesOk.ringSend {s : State} (h : s.TablesOk) {dst msgType : Nat} {ctx length : Nat} {payload : Payload} :
    (s.ringSend dst msgType ctx length payload).TablesOk :=
  .ringSendTag h

theorem State.TablesOk.enqueueLive {s : State} (h : s.TablesOk) {p : Nat} {f : Frame} : (s.enqueueLive p f).TablesOk :=
  .ite h (.enqueue h)

theorem State.TablesOk.ringBroadcast {s : State} (h : s.TablesOk) {msgType ctx length : Nat} {payload : Payload} :
    (s.ringBroadcast msgType ctx length payload).TablesOk := by
  unfold State.ringBroadcast
  split
  · exact h
  · have h1 : (s.nextE2e bcastPair).2.TablesOk := .nextE2e h
    generalize s.nextE2e bcastPair = d at h1 ⊢
    obtain ⟨n, s1⟩ := d
    dsimp -zeta only
    extract_lets -underBinder -merge f
    exact .ite (.enqueueLive (.enqueueLive h1)) (.enqueue h1)

theorem State.TablesOk.enterState {s : State} (h : s.TablesOk) {n : Nat} {st : CtxState} : (s.enterState n st).TablesOk := by
  unfold State.enterState
  split
  · extract_lets -underBinder -merge s1
    have h1 : s1.TablesOk := .setCtx h
    exact .ite (.ringBroadcast h1) h1
  · exact h

theorem State.TablesOk.linkSend {s : State} (h : s.TablesOk) {p msgType length : Nat} {payload : Payload} :
    (s.linkSend p msgType length payload).TablesOk :=
  .enqueue h

theorem State.TablesOk.switchKey {s : State} (h : s.TablesOk) {p epoch : Nat} : (s.switchKey p epoch).TablesOk := by
  unfold State.switchKey
  exact .modLink (.linkSend h)

theorem State.TablesOk.startRekey {s : State} (h : s.TablesOk) {p : Nat} : (s.startRekey p).TablesOk := by
  unfold State.startRekey
  extract_lets -underBinder -merge l e
  exact .ite (.switchKey (.modLink h)) h

theorem State.TablesOk.holdLink {s : State} (h : s.TablesOk) {p : Nat} : (s.holdLink p).TablesOk := .modLink h

theorem State.TablesOk.resend {s : State} (h : s.TablesOk) {p : Nat} : (s.resend p).TablesOk := .eachDo (fun _ _ hs => .emit hs) h

theorem State.TablesOk.takeControl {s : State} (h : s.TablesOk) {p : Nat} {c : Control} : (s.takeControl p c).TablesOk := by
  unfold State.takeControl
  extract_lets -underBinder -merge s1 s2 s3
  have h1 : s1.TablesOk := .modLink h
  have h2 : s2.TablesOk := .ite (.resend h1) h1
  have h3 : s3.TablesOk := .ite (.startRekey h2) h2
  exact .pump h3

theorem State.TablesOk.accept {s : State} (h : s.TablesOk) {p : Nat} {f : Frame} : (s.accept p f).2.TablesOk := by
  unfold State.accept
  extract_lets -underBinder -merge l s1 s2 newKey s3
  split
  · exact h
  · split
    · exact .modLink h
    · split
      · exact .ite (.holdLink (.modLink (.countError h))) (.modLink (.countError h))
      · split
        · exact .modLink h
        · exact .takeControl (.modLink h)

theorem State.TablesOk.freeLocal {s : State} (h : s.TablesOk) {p : Nat} {f : Frame} : (s.freeLocal p f).TablesOk := .ite h (.modLink h)

theorem State.TablesOk.noteE2e {s : State} (h : s.TablesOk) {f : Frame} : (s.noteE2e f).TablesOk := .ite h (.modRing h)

theorem State.TablesOk.dropFrame {s : State} (h : s.TablesOk) {p : Nat} {f : Frame} : (s.dropFrame p f).TablesOk :=
  .countError (.freeLocal h)

theorem State.TablesOk.forwardBcast {s : State} (h : s.TablesOk) {p : Nat} {f : Frame} : (s.forwardBcast p f).TablesOk := by
  unfold State.forwardBcast
  extract_lets -underBinder -merge out
  exact .ite h (.enqueueLive h)

theorem State.TablesOk.take {s : State} (h : s.TablesOk) {p : Nat} {f : Frame} : (s.take p f).2.TablesOk := by
  unfold State.take
  have h1 : (s.accept p f).2.TablesOk := .accept h
  generalize s.accept p f = d at h1 ⊢
  obtain ⟨ok, s1⟩ := d
  dsimp -zeta only
  split
  · exact h1
  · split
    · exact .dropFrame h1
    · split
      · exact .freeLocal h1
      · extract_lets -underBinder -merge s2 s3
        have h2 : s2.TablesOk := .noteE2e h1
        have h3 : s3.TablesOk := .ite (.forwardBcast h2) h2
        split
        · exact .wakeTrigger (.modLink h3)
        · exact .ite h3 (.freeLocal h3)

theorem State.TablesOk.tap {s : State} (h : s.TablesOk) {p : Nat} {f : Frame} : (s.tap p f).TablesOk := by
  unfold State.tap
  split
  · exact h
  · split
    · exact .modRing h
    · exact .modRing h
    · exact h

theorem Res.Ok.arrive {s : State} (h : s.TablesOk) {msgType p : Nat} {f : Frame} {use : State → Res}
    (huse : ∀ ⦃s⦄, s.TablesOk → Res.Ok (use s)) :
    Res.Ok (s.arrive msgType p f use) := by
  unfold State.arrive
  split
  · exact .next (.tap h)
  · extract_lets -underBinder -merge s2
    have h2 : s2.TablesOk := .tap h
    have h3 : (s2.take p f).2.TablesOk := .take h2
    generalize s2.take p f = d at h3 ⊢
    obtain ⟨ok, s3⟩ := d
    dsimp -zeta only
    exact .ite (huse h3) (.next h3)

theorem State.TablesOk.takeAll {p : Nat} {l : List Frame} {s : State} (h : s.TablesOk) : (State.takeAll p l s).2.TablesOk := by
  induction l generalizing s with
  | nil => exact h
  | cons f l ih => exact ih (.take h)

theorem State.TablesOk.takeExpertTable {s : State} (h : s.TablesOk) {epoch : Nat} {table : Tab ExpertEntry} :
    (s.takeExpertTable epoch table).TablesOk :=
  .rest h

/-! ## Gaffer -/

theorem State.TablesOk.replyBare {s : State} (h : s.TablesOk) {c : Cmd} {op status : Nat} {params : List (Nat × Bytes)} :
    (s.replyBare c op status params).TablesOk :=
  .emit h

theorem State.TablesOk.refuse {s : State} (h : s.TablesOk) {t : Ticket} {status : Nat} : (s.refuse t status).TablesOk := .sendOn h

theorem Res.Ok.gafferWith {k : OpSpec} {c : Cmd} {body : Ticket → Session → State → Res}
    (hbody : ∀ a b ⦃s⦄, s.TablesOk → Res.Ok (body a b s)) {s : State} (h : s.TablesOk) :
    Res.Ok (gafferWith k c body s) := by
  unfold Machine.gafferWith
  split
  · exact .next h
  · split
    · split
      · exact .next (.replyBare h)
      · extract_lets -underBinder -merge t
        split
        · exact .fault
        · split
          · exact .next (.refuse h)
          · exact hbody _ _ (.modSession h)
    · exact .next (.replyBare h)

theorem Res.Ok.gaffer {op : Nat} {c : Cmd} {body : Ticket → State → Res} (hbody : ∀ a ⦃s⦄, s.TablesOk → Res.Ok (body a s)) {s : State}
    (h : s.TablesOk) : Res.Ok (gaffer op c body s) :=
  .gafferWith (fun _ _ _ hs => hbody _ hs) h

theorem Res.Ok.gafferVar {op : Nat} {c : Cmd} {body : Ticket → State → Res} (hbody : ∀ a ⦃s⦄, s.TablesOk → Res.Ok (body a s))
    {s : State} (h : s.TablesOk) : Res.Ok (gafferVar op c body s) :=
  .gafferWith (fun _ _ _ hs => .ite (hbody _ hs) (.next (.answerWith hs))) h

/-! ## Turns -/

theorem State.TablesOk.changeCtx {s : State} (h : s.TablesOk) {n ctx : Nat} : (s.changeCtx n ctx).TablesOk := by
  unfold State.changeCtx
  exact .ite h (.modTile (.withMem h (Memory.wf_zeroRange h.mem _ _)))

theorem State.TablesOk.changeHeld {n : Nat} {s : State} (h : s.TablesOk) : (State.changeHeld n s).TablesOk := by
  unfold State.changeHeld
  split
  · exact .ite h (.changeCtx h)
  · exact h

theorem State.TablesOk.holdTiles {s : State} (h : s.TablesOk) : s.holdTiles.TablesOk :=
  .eachDo (fun _ _ hs => .changeHeld hs) (.withTiles h (Tab.wf_each h.tiles _))

theorem State.TablesOk.noteReady {s : State} (h : s.TablesOk) : s.noteReady.TablesOk := by
  unfold State.noteReady
  extract_lets -underBinder -merge before floor s1
  have h1 : s1.TablesOk := .withCtxs h (Tab.wf_each h.ctxs _)
  exact .holdTiles h1

/-! ## Parisons -/

theorem State.TablesOk.placeRequest {s : State} (h : s.TablesOk) {ctx id : Nat} : (s.placeRequest ctx id).TablesOk := by
  unfold State.placeRequest
  split
  · extract_lets -underBinder -merge p rows p1 c' c'1 s1
    split
    · have h1 : s1.TablesOk := .withRequests h (Tab.wf_put h.requests _ _)
      exact .setCtx h1
    · exact h
  · exact h

theorem State.TablesOk.formCtx {ctx n : Nat} {s : State} (h : s.TablesOk) : (State.formCtx ctx n s).TablesOk := by
  induction n generalizing s with
  | zero => exact h
  | succ n ih =>
    unfold State.formCtx
    extract_lets s1
    have h1 : s1.TablesOk := .eachDo (fun _ _ hs => .placeRequest hs) h
    split
    · split
      · split
        · exact ih (.setCtx h1)
        · exact h1
      · exact h1
    · exact h1

theorem State.TablesOk.formAll {s : State} (h : s.TablesOk) : s.formAll.TablesOk := .eachDo (fun _ _ hs => .ite (.formCtx hs) hs) h

/-! ## StreamOps -/

theorem State.TablesOk.addStrm {s : State} (h : s.TablesOk) {x : Strm} : (s.addStrm x).2.TablesOk :=
  .withStreams (.fresh h) (Tab.wf_put (State.TablesOk.fresh h).streams _ _)

theorem State.TablesOk.delStrm {s : State} (h : s.TablesOk) {k : Nat} : (s.delStrm k).TablesOk :=
  .withStreams h (Tab.wf_del h.streams _)

theorem State.TablesOk.tryOpen {s : State} (h : s.TablesOk) {k : Nat} : (s.tryOpen k).TablesOk := by
  unfold State.tryOpen
  split
  · exact .ite (.modStrm h) h
  · exact h

theorem State.TablesOk.openService {s : State} (h : s.TablesOk) {ctx : Nat} {use : StreamUse} {kind total : Nat}
    {region : Option Region} {pages : List PageBody} {baseSeq : Nat} :
    (s.openService ctx use kind total region pages baseSeq).TablesOk := by
  unfold State.openService
  extract_lets -underBinder -merge e x
  exact .tryOpen (.addStrm h)

theorem State.TablesOk.openAnswers {s : State} (h : s.TablesOk) {ctx : Nat} : (s.openAnswers ctx).TablesOk := .ite h (.openService h)

theorem State.TablesOk.zeroBuffer {s : State} (h : s.TablesOk) {d : Bytes} : (s.zeroBuffer d).TablesOk :=
  .ite (.withMem h (Memory.wf_zeroRange h.mem _ _)) h

theorem State.TablesOk.abandonStrm {s : State} (h : s.TablesOk) {k : Nat} : (s.abandonStrm k).TablesOk := by
  unfold State.abandonStrm
  split
  · split
    · exact .modStrm h
    · split
      · exact .delStrm h
      · exact .delStrm (.zeroBuffer h)
  · exact h

theorem State.TablesOk.abandonAll {s : State} (h : s.TablesOk) {p : Strm → Bool} : (s.abandonAll p).TablesOk :=
  .eachDo (fun _ _ hs => .abandonStrm hs) h

theorem State.TablesOk.openFeeds {s : State} (h : s.TablesOk) {ctx rows : Nat} {tiles : List Nat} :
    (s.openFeeds ctx rows tiles).TablesOk := by
  unfold State.openFeeds
  split
  · exact .eachDo (fun _ _ hs => .tryOpen (.addStrm hs)) h
  · exact h

theorem State.TablesOk.endFeeds {s : State} (h : s.TablesOk) {ctx : Nat} : (s.endFeeds ctx).TablesOk := .abandonAll h

theorem State.TablesOk.consumeFeed {s : State} (h : s.TablesOk) {n : Nat} : (s.consumeFeed n).TablesOk :=
  .withStreams h (Tab.wf_each h.streams _)

/-! ## Directory -/

theorem State.TablesOk.submitFinal {s : State} (h : s.TablesOk) {t : Ticket} {status tokens : Nat} {reason : Option Nat} :
    (s.submitFinal t status tokens reason).TablesOk :=
  .answerWith (.ite (.countTenant h) h)

theorem State.TablesOk.endUse {s : State} (h : s.TablesOk) {t : Ticket} {status : Nat} : (s.endUse t status).TablesOk :=
  .ite (.submitFinal h) (.answer h)

theorem State.TablesOk.tellHolders {s : State} (h : s.TablesOk) {v : Var} {msgType : Nat} {m : Payload} :
    (s.tellHolders v msgType m).TablesOk :=
  .eachDo (fun _ _ hs => .ringSend hs) h

theorem State.TablesOk.announceVar {s : State} (h : s.TablesOk) {id : Nat} : (s.announceVar id).TablesOk := by
  unfold State.announceVar
  split
  · extract_lets -underBinder -merge seed
    exact .ite (.tellHolders h) h
  · exact h

theorem State.TablesOk.ungetVar {s : State} (h : s.TablesOk) {id : Nat} : (s.ungetVar id).TablesOk := by
  unfold State.ungetVar
  split
  · exact .ite (.tellHolders h) h
  · exact h

theorem State.TablesOk.clearSlot {s : State} (h : s.TablesOk) {slot : Nat} : (s.clearSlot slot).TablesOk := .modRing h

theorem State.TablesOk.dropReleased {s : State} (h : s.TablesOk) {id : Nat} : (s.dropReleased id).TablesOk := by
  unfold State.dropReleased
  split
  · exact .eachDo (fun _ _ hs => .ite (.clearSlot hs) (.ringSend hs)) (.modVar h)
  · exact h

theorem State.TablesOk.startWriteOut {s : State} (h : s.TablesOk) {id : Nat} : (s.startWriteOut id).TablesOk := by
  unfold State.startWriteOut
  split
  · split
    · exact .openService (.modCtx (.setVar h))
    · exact h
  · exact h

theorem State.TablesOk.endParked {s : State} (h : s.TablesOk) {id status : Nat} : (s.endParked id status).TablesOk :=
  .eachDo (fun _ _ hs => .endUse hs) (.modVar (.rest h))

theorem State.TablesOk.freeHbm {s : State} (h : s.TablesOk) {n : Nat} : (s.freeHbm n).TablesOk := .rest h

theorem State.TablesOk.releaseHbm {s : State} (h : s.TablesOk) {id : Nat} : (s.releaseHbm id).TablesOk := by
  unfold State.releaseHbm
  split
  · exact .ite (.freeHbm h) h
  · exact h

theorem State.TablesOk.becomeFree {s : State} (h : s.TablesOk) {id : Nat} : (s.becomeFree id).TablesOk := by
  unfold State.becomeFree
  split
  · extract_lets -underBinder -merge s1 s2 s3 s4 s5 s6 s7 s8
    have h1 : s1.TablesOk := .releaseHbm (.ungetVar h)
    have h2 : s2.TablesOk := .abandonAll h1
    have h3 : s3.TablesOk := .endParked h2
    have h4 : s4.TablesOk := by
      unfold s4
      split
      · exact .answer h3
      · exact h3
    have h5 : s5.TablesOk := .eachDo (fun _ _ hs => .ite (.clearSlot hs) hs) h4
    have h6 : s6.TablesOk := .eachDo (fun _ _ hs => .ite (.clearSlot hs) hs) h5
    have h7 : s7.TablesOk := .modCtx h6
    have h8 : s8.TablesOk := .withVars h7 (Tab.wf_del h7.vars _)
    exact .answerAll (.answerAll h8)
  · exact h

theorem State.TablesOk.wantLoad {s : State} (h : s.TablesOk) {id : Nat} : (s.wantLoad id).TablesOk := .modVar h

theorem State.TablesOk.pinParked {s : State} (h : s.TablesOk) {id : Nat} : (s.pinParked id).TablesOk := .modVar (.rest h)

theorem State.TablesOk.wantRestore {s : State} (h : s.TablesOk) {id : Nat} {fromAbsent : Bool} :
    (s.wantRestore id fromAbsent).TablesOk :=
  .wantLoad (.pinParked (.modVar h))

theorem State.TablesOk.fromAbsent {s : State} (h : s.TablesOk) {id : Nat} : (s.fromAbsent id).TablesOk := by
  unfold State.fromAbsent
  split
  · split
    · exact .wantRestore h
    · exact .ite (.wantLoad (.pinParked h)) h
  · exact h

theorem State.TablesOk.becomeAbsent {s : State} (h : s.TablesOk) {id : Nat} : (s.becomeAbsent id).TablesOk := by
  unfold State.becomeAbsent
  split
  · exact .fromAbsent (.answerAll (.setVar (.releaseHbm (.ungetVar h))))
  · exact h

theorem State.TablesOk.advanceEvict {s : State} (h : s.TablesOk) {id : Nat} : (s.advanceEvict id).TablesOk := by
  unfold State.advanceEvict
  split
  · exact .ite (.ite (.becomeFree h) (.ite (.wantRestore h) (.ite (.startWriteOut h) (.becomeAbsent h)))) h
  · exact h

theorem State.TablesOk.unpin {s : State} (h : s.TablesOk) {id holder : Nat} : (s.unpin id holder).TablesOk :=
  .advanceEvict (.dropReleased (.modVar h))

theorem State.TablesOk.unpinSent {s : State} (h : s.TablesOk) {t : Ticket} {id holder : Nat} : (s.unpinSent t id holder).TablesOk :=
  .ite (.rest h) (.unpin h)

theorem State.TablesOk.releaseSent {s : State} (h : s.TablesOk) : s.releaseSent.TablesOk := .eachDo (fun _ _ hs => .unpin hs) (.rest h)

theorem State.TablesOk.pin {s : State} (h : s.TablesOk) {id : Nat} : (s.pin id).TablesOk := .modVar h

theorem State.TablesOk.endEval {s : State} (h : s.TablesOk) {id status : Nat} {params : List (Nat × Bytes)} :
    (s.endEval id status params).TablesOk := by
  unfold State.endEval
  split
  · extract_lets -underBinder -merge s1 s2
    have h1 : s1.TablesOk := .withEvals h (Tab.wf_del h.evals _)
    have h2 : s2.TablesOk := .answerWith h1
    exact .ite (.unpin h2) h2
  · exact h

theorem State.TablesOk.endEvalSoon {s : State} (h : s.TablesOk) {id status : Nat} : (s.endEvalSoon id status).TablesOk := by
  unfold State.endEvalSoon
  split
  · exact .ite (.withEvals h (Tab.wf_put h.evals _ _)) (.endEval h)
  · exact h

theorem State.TablesOk.endRepeats {s : State} (h : s.TablesOk) {v status : Nat} : (s.endRepeats v status).TablesOk :=
  .eachDo (fun _ _ hs => .endEvalSoon hs) h

theorem State.TablesOk.parkUse {s : State} (h : s.TablesOk) {t : Ticket} {id : Nat} {pinned : Bool} {use : Instr} :
    (s.parkUse t id pinned use).TablesOk := by
  unfold State.parkUse
  split
  · exact .ite (.endUse h) (.modVar (.rest (.fresh h)))
  · exact h

theorem State.TablesOk.unpark {s : State} (h : s.TablesOk) {p : Parked → Bool} {f : Parked → State → State}
    (hf : ∀ a ⦃s⦄, s.TablesOk → (f a s).TablesOk) : (s.unpark p f).TablesOk :=
  .eachDo (fun _ _ hs => .advanceEvict (.modVar (hf _ hs))) (.rest h)

theorem Res.Ok.useVariant {s : State} (h : s.TablesOk) {t : Ticket} {use : Instr} {accept : State → Res}
    (haccept : ∀ ⦃s⦄, s.TablesOk → Res.Ok (accept s)) :
    Res.Ok (s.useVariant t use accept) := by
  unfold State.useVariant
  extract_lets -underBinder -merge id
  split
  · exact .next (.endUse h)
  · exact .next (.endUse h)
  · exact haccept (.modVar h)
  · exact .next (.ite (.wantLoad (.parkUse h)) (.parkUse h))
  · exact .next (.parkUse h)
  · exact .next (.parkUse h)
  · exact .next (.parkUse h)

theorem State.TablesOk.reclaim {s : State} (h : s.TablesOk) {need : Nat} : (s.reclaim need).TablesOk :=
  .eachDo (fun _ _ hs => .advanceEvict (.endRepeats (.modVar hs))) h

theorem State.TablesOk.openLoad {s : State} (h : s.TablesOk) {id : Nat} : (s.openLoad id).TablesOk := by
  unfold State.openLoad
  split
  · split
    · exact .ite (.openService h) (.openService h)
    · exact .openService h
  · exact h

theorem State.TablesOk.failLoad {s : State} (h : s.TablesOk) {id status : Nat} {lost : Bool} :
    (s.failLoad id status lost).TablesOk := by
  unfold State.failLoad
  split
  · extract_lets -underBinder -merge s1 s2 was s3 s4 s5 s6
    have h1 : s1.TablesOk := .releaseHbm (.ungetVar h)
    have h2 : s2.TablesOk := .abandonAll h1
    have h3 : s3.TablesOk := .modVar h2
    have h4 : s4.TablesOk := by
      unfold s4
      split
      · exact .ite (.answer h3) h3
      · exact h3
    have h5 : s5.TablesOk := .endParked h4
    have h6 : s6.TablesOk := .answerAll h5
    split
    · exact h6
    · split
      · exact .ite (.wantRestore h6) h6
      · exact .fromAbsent h6
  · exact h

theorem State.TablesOk.takeHbm {s : State} (h : s.TablesOk) {id n : Nat} : (s.takeHbm id n).TablesOk := .modVar (.rest h)

theorem State.TablesOk.needHbm {s : State} (h : s.TablesOk) {n : Nat} : (s.needHbm n).2.TablesOk := by
  unfold State.needHbm
  split
  · exact .rest h
  · split
    · exact h
    · extract_lets -underBinder -merge s1
      have h1 : s1.TablesOk := .reclaim h
      split
      · exact .rest h1
      · exact h1

theorem State.TablesOk.waitHbm {s : State} (h : s.TablesOk) {need : Nat} {use : SpaceUse} : (s.waitHbm need use).TablesOk := .rest h

theorem State.TablesOk.tryLoad {s : State} (h : s.TablesOk) {id : Nat} : (s.tryLoad id).TablesOk := by
  unfold State.tryLoad
  split
  · split
    · split
      · exact .openLoad (.takeHbm h)
      · split
        · exact h
        · extract_lets -underBinder -merge short s1
          split
          · exact .failLoad h
          · have h1 : s1.TablesOk := .reclaim h
            exact .ite (.openLoad (.takeHbm h1)) h1
    · exact h
  · exact h

theorem State.TablesOk.openMarked {s : State} (h : s.TablesOk) {id : Nat} : (s.openMarked id).TablesOk := by
  unfold State.openMarked
  split
  · extract_lets -underBinder -merge open'
    exact .ite (.openLoad h) h
  · exact h

theorem State.TablesOk.placeVar {s : State} (h : s.TablesOk) {id : Nat} {v : Var} {t : Ticket} {params : List (Nat × Bytes)} :
    (s.placeVar id v t params).TablesOk :=
  .answerWith (.announceVar (.setVar h))

theorem State.TablesOk.enterExtra {s : State} (h : s.TablesOk) {ctx variant : Nat} {extraNo slot : Nat} :
    (s.enterExtra ctx variant extraNo slot).TablesOk := by
  unfold State.enterExtra
  exact .ite (.modRing (.freeNat h)) h

theorem State.TablesOk.enterSlots {s : State} (h : s.TablesOk) {id : Nat} {v : Var} : (s.enterSlots id v).TablesOk := by
  refine .eachDo (fun _ _ hs => ?_) h
  split
  · exact .enterExtra hs
  · exact hs

theorem State.TablesOk.grantSpace {s : State} (h : s.TablesOk) {w : SpaceWait} : (s.grantSpace w).TablesOk := by
  unfold State.grantSpace
  split
  · exact .ringBroadcast h
  · exact .ringSend (.modCtx h)
  · exact .ite (.answer (.freeHbm h)) (.placeVar h)
  · exact .ite (.freeHbm h) (.ringSend (.enterSlots (.setVar h)))

theorem State.TablesOk.refuseSpace {s : State} (h : s.TablesOk) {w : SpaceWait} : (s.refuseSpace w).TablesOk := by
  unfold State.refuseSpace
  split
  · extract_lets -underBinder -merge t s1
    have h1 : s1.TablesOk := .withCtxs h (Tab.wf_del h.ctxs _)
    clear_value t
    split
    · exact .answer h1
    · exact h1
  · exact .ringSend (.withCtxs h (Tab.wf_del h.ctxs _))
  · exact .answer h
  · exact .ringSend h

theorem State.TablesOk.trySpace {s : State} (h : s.TablesOk) {w : SpaceWait} : (s.trySpace w).TablesOk := by
  unfold State.trySpace
  extract_lets -underBinder -merge take short s1
  have htake : ∀ s : State, s.TablesOk → (take s).TablesOk := fun _ hs => .grantSpace (.rest hs)
  have h1 : s1.TablesOk := .reclaim h
  split
  · exact htake _ h
  · split
    · exact .waitHbm h
    · split
      · exact .refuseSpace h
      · split
        · exact htake _ h1
        · exact .waitHbm h1

theorem State.TablesOk.trySpaces {s : State} (h : s.TablesOk) : s.trySpaces.TablesOk := .eachDo (fun _ _ hs => .trySpace hs) (.rest h)

theorem State.TablesOk.dropCtxWait {s : State} (h : s.TablesOk) {n : Nat} : (s.dropCtxWait n).TablesOk := .rest h

theorem State.TablesOk.endVarWaits {s : State} (h : s.TablesOk) {ctx status : Nat} : (s.endVarWaits ctx status).TablesOk := by
  unfold State.endVarWaits
  extract_lets -underBinder -merge of gone
  exact .answerAll (.rest h)

theorem State.TablesOk.endReclaims {s : State} (h : s.TablesOk) : s.endReclaims.TablesOk := .ite (.rest h) h

theorem State.TablesOk.reportQuiet {s : State} (h : s.TablesOk) : s.reportQuiet.TablesOk :=
  .eachDo (fun _ _ hs => .ite (.eachDo (fun _ _ ht => .ringSend ht) (.setCtx hs)) (.ite (.answerAll (.setCtx hs)) hs)) h

theorem State.TablesOk.settle {s : State} (h : s.TablesOk) : s.settle.TablesOk := by
  refine .noteReady (.formAll (.endReclaims (.reportQuiet (.eachDo (fun _ _ hs => ?_)
      (.trySpaces (.eachDo (fun _ _ hs => .openMarked (.tryLoad hs)) (.releaseSent h)))))))
  split
  · exact .ite (.tryOpen hs) hs
  · exact hs

theorem Res.Ok.settled {r : Res} (hr : Res.Ok r) : Res.Ok (settled r) := .bind hr (fun _ hs => .next (.settle hs))

/-! ## Work -/

theorem State.TablesOk.addSample {s : State} (h : s.TablesOk) {ctx v : Nat} {tokens : List Nat} :
    (s.addSample ctx v tokens).TablesOk := by
  unfold State.addSample
  split
  · exact .ite (.countTenant (.setCtx h)) (.countTenant h)
  · exact h

theorem State.TablesOk.dropRows {s : State} (h : s.TablesOk) {ctx id : Nat} : (s.dropRows ctx id).TablesOk := .modCtx h

theorem State.TablesOk.endRequest {s : State} (h : s.TablesOk) {id status : Nat} {reason : Option Nat} :
    (s.endRequest id status reason).TablesOk := by
  unfold State.endRequest
  split
  · extract_lets -underBinder -merge s1 s2 status s3 s4
    have h1 : s1.TablesOk := .withRequests h (Tab.wf_del h.requests _)
    have h2 : s2.TablesOk := .dropRows h1
    have h3 : s3.TablesOk := .submitFinal h2
    have h4 : s4.TablesOk := .ite (.addSample h3) h3
    exact .unpinSent h4
  · exact h

theorem State.TablesOk.endRequestSoon {s : State} (h : s.TablesOk) {id status : Nat} : (s.endRequestSoon id status).TablesOk := by
  unfold State.endRequestSoon
  split
  · exact .ite (.withRequests h (Tab.wf_put h.requests _ _)) (.endRequest h)
  · exact h

theorem State.TablesOk.cancelRequest {s : State} (h : s.TablesOk) {id : Nat} : (s.cancelRequest id).TablesOk := by
  unfold State.cancelRequest
  split
  · exact .ite (.withRequests h (Tab.wf_put h.requests _ _)) (.endRequest h)
  · exact h

theorem State.TablesOk.reduceAll {s : State} (h : s.TablesOk) {v : Var} {variant : Nat} {m : ReduceMsg} :
    (s.reduceAll v variant m).TablesOk :=
  .tellHolders h

theorem State.TablesOk.modStep {s : State} (h : s.TablesOk) {v n : Nat} {f : TStep → TStep} : (s.modStep v n f).TablesOk := .rest h

theorem State.TablesOk.takeHomeFull {s : State} (h : s.TablesOk) {variant n : Nat} {microBatch layer : Nat} :
    (s.takeHomeFull variant n microBatch layer).TablesOk :=
  .modStep h

theorem State.TablesOk.dropStep {s : State} (h : s.TablesOk) {v n : Nat} : (s.dropStep v n).TablesOk := .rest h

theorem State.TablesOk.stashEvents {s : State} (h : s.TablesOk) {t : TStep} : (s.stashEvents t).TablesOk := by
  unfold State.stashEvents
  extract_lets -underBinder -merge seq s1
  have h1 : s1.TablesOk := .ite (.raiseCtx h) h
  exact .ite h1 (.raiseCtx h1)

theorem State.TablesOk.snapCtx {s : State} (h : s.TablesOk) {ctx : Nat} : (s.snapCtx ctx).TablesOk := .modCtx h

theorem State.TablesOk.closeRecord {s : State} (h : s.TablesOk) {v n : Nat} {f : LogRecord → Option LogRecord} :
    (s.closeRecord v n f).TablesOk :=
  .modVar h

theorem State.TablesOk.returnNumber {s : State} (h : s.TablesOk) {t : TStep} {ends : Bool} : (s.returnNumber t ends).TablesOk := by
  unfold State.returnNumber
  extract_lets -underBinder -merge later s1
  exact .ite (.rest (.modVar h)) h

theorem State.TablesOk.discardStaged {s : State} (h : s.TablesOk) {t : TStep} : (s.discardStaged t).TablesOk := .modVar (.rest h)

theorem State.TablesOk.replyStep {s : State} (h : s.TablesOk) {t : TStep} {status cause : Nat} :
    (s.replyStep t status cause).TablesOk := by
  unfold State.replyStep
  extract_lets -underBinder -merge s1
  have h1 : s1.TablesOk := by
    unfold s1
    split
    · exact .ite h (.answerWith h)
    · exact h
  exact .ite (.unpin h1) h1

theorem State.TablesOk.failReplay {s : State} (h : s.TablesOk) {t : TStep} {status cause : Nat} :
    (s.failReplay t status cause).TablesOk := by
  unfold State.failReplay
  split
  · exact .answerWith (.rest h)
  · exact h

theorem State.TablesOk.abandonStep {s : State} (h : s.TablesOk) {v n status : Nat} : (s.abandonStep v n status).TablesOk := by
  unfold State.abandonStep
  split
  · extract_lets -underBinder -merge s1 s2 exps s3 s4
    have h1 : s1.TablesOk := by
      unfold s1
      split
      · exact .ite (.reduceAll h) h
      · exact h
    have h2 : s2.TablesOk := .discardStaged (.dropStep h1)
    have h3 : s3.TablesOk := by
      unfold s3
      split
      · exact h2
      · exact .closeRecord h2
    have h4 : s4.TablesOk := .snapCtx (.stashEvents (.returnNumber h3))
    exact .replyStep (.failReplay h4)
  · exact h

theorem State.TablesOk.endStepSoon {s : State} (h : s.TablesOk) {v n status : Nat} : (s.endStepSoon v n status).TablesOk := by
  unfold State.endStepSoon
  split
  · split
    · exact h
    · exact .ite (.modStep h) (.abandonStep h)
  · exact h

theorem State.TablesOk.eachStep {s : State} (h : s.TablesOk) {p : TStep → Bool} {f : Nat → Nat → State → State}
    (hf : ∀ a b ⦃s⦄, s.TablesOk → (f a b s).TablesOk) : (s.eachStep p f).TablesOk := by
  refine .eachDo (fun _ _ hs => ?_) h
  split
  · exact hf _ _ hs
  · exact hs

theorem State.TablesOk.endUses {s : State} (h : s.TablesOk) {v status : Nat} : (s.endUses v status).TablesOk :=
  .eachDo (fun _ _ hs => .endEvalSoon hs) (.eachStep (.eachDo (fun _ _ hs => .endRequestSoon hs) h) (fun _ _ _ hs => .endStepSoon hs))

theorem State.TablesOk.endPinnedParked {s : State} (h : s.TablesOk) {v status : Nat} : (s.endPinnedParked v status).TablesOk :=
  .unpark h (fun _ _ hs => .endUse hs)

theorem State.TablesOk.beginEvict {s : State} (h : s.TablesOk) {v : Nat} {forced : Bool} : (s.beginEvict v forced).TablesOk := by
  unfold State.beginEvict
  extract_lets -underBinder -merge s1 s2 s3
  have h1 : s1.TablesOk := .modVar h
  have h2 : s2.TablesOk := .endRepeats h1
  have h3 : s3.TablesOk := .ite (.endUses (.endPinnedParked h2)) h2
  exact .advanceEvict h3

theorem State.TablesOk.loseExports {s : State} (h : s.TablesOk) {v : Nat} : (s.loseExports v).TablesOk := by
  refine .eachDo (fun _ _ hs => ?_) h
  split
  · split
    · exact .unpin (.abandonStrm (.answer hs))
    · exact hs
  · exact hs

theorem State.TablesOk.loseVariant {s : State} (h : s.TablesOk) {v : Nat} : (s.loseVariant v).TablesOk := by
  unfold State.loseVariant
  split
  · extract_lets -underBinder -merge s1 s2 s3 s4 s5 s6 s7 s8
    have h1 : s1.TablesOk := .releaseHbm (.ungetVar h)
    have h2 : s2.TablesOk := .abandonAll h1
    have h3 : s3.TablesOk := .loseExports h2
    have h4 : s4.TablesOk := .modVar h3
    have h5 : s5.TablesOk := .endParked h4
    have h6 : s6.TablesOk := by
      refine .eachStep h5 (fun _ _ _ hs => ?_)
      split
      · exact .replyStep (.snapCtx (.stashEvents (.dropStep hs)))
      · exact hs
    have h7 : s7.TablesOk := .endUses h6
    have h8 : s8.TablesOk := .answerAll h7
    split
    · exact .becomeFree h8
    · exact .ite (.wantRestore h8) h8
  · exact h

theorem State.TablesOk.endProgram {s : State} (h : s.TablesOk) {ctx status : Nat} : (s.endProgram ctx status).TablesOk := by
  unfold State.endProgram
  split
  · split
    · exact .answerWith (.setCtx (.abandonAll h))
    · exact h
  · exact h

theorem State.TablesOk.endWaitingRuns {s : State} (h : s.TablesOk) {ctx status : Nat} : (s.endWaitingRuns ctx status).TablesOk := by
  unfold State.endWaitingRuns
  split
  · exact .eachDo (fun _ _ hs => .answerWith hs) (.setCtx h)
  · exact h

theorem State.TablesOk.cancelParked {s : State} (h : s.TablesOk) {p : Parked → Bool} : (s.cancelParked p).TablesOk := by
  refine .unpark h (fun _ _ hs => ?_)
  split
  · exact .ite (.addSample (.submitFinal hs)) (.submitFinal hs)
  · exact .submitFinal hs

theorem State.TablesOk.cancelParkedEval {s : State} (h : s.TablesOk) {p : Parked → Bool} : (s.cancelParkedEval p).TablesOk :=
  .unpark h (fun _ _ hs => .answer hs)

theorem State.TablesOk.closeSession {s : State} (h : s.TablesOk) {n : Nat} {flush : Bool} {next : QpState} :
    (s.closeSession n flush next).TablesOk := by
  unfold State.closeSession
  split
  · extract_lets -underBinder -merge s1 s2 s3 s4 s5 s6
    have h1 : s1.TablesOk := .ite (.eachDo (fun _ _ hs => .emit hs) h) h
    have h2 : s2.TablesOk := .withSessions h1 (Tab.wf_del h1.sessions _)
    have h3 : s3.TablesOk := .modQp h2
    have h4 : s4.TablesOk := .eachDo (fun _ _ hs => .cancelRequest hs) h3
    have h5 : s5.TablesOk := .cancelParked h4
    have h6 : s6.TablesOk := .cancelParkedEval h5
    exact .eachDo (fun _ _ hs => .endEvalSoon hs) h6
  · exact h

theorem State.TablesOk.endSlot {s : State} (h : s.TablesOk) {k : Nat} {x : Strm} {status : Nat} : (s.endSlot k x status).TablesOk := by
  unfold State.endSlot
  extract_lets -underBinder -merge s1 s2
  have h1 : s1.TablesOk := by
    unfold s1
    split
    · exact .answerWith h
    · exact h
  have h2 : s2.TablesOk := .ite (.zeroBuffer h1) h1
  exact .modStrm h2

theorem State.TablesOk.stopStreams {s : State} (h : s.TablesOk) {ctx status : Nat} : (s.stopStreams ctx status).TablesOk := by
  refine .eachDo (fun _ _ hs => ?_) h
  split
  · extract_lets -underBinder -merge s2
    have h2 : s2.TablesOk := by
      unfold s2
      split
      · split
        · exact hs
        · exact .answerWith hs
      · exact .answer hs
      · exact .unpin (.answer hs)
      · exact hs
    split
    · exact .endSlot h2
    · exact .abandonStrm h2
  · exact hs

theorem State.TablesOk.endCtxParked {s : State} (h : s.TablesOk) {ctx status : Nat} : (s.endCtxParked ctx status).TablesOk :=
  .unpark h (fun _ _ hs => .endUse hs)

theorem State.TablesOk.flushReplies {s : State} (h : s.TablesOk) {n : Nat} {l : List Egress} : (s.flushReplies n l).TablesOk := by
  induction l generalizing s with
  | nil => exact .modSession h
  | cons g l ih =>
    cases g with
    | reply p => exact ih (.emit h)
    | event e => exact .modSession h

theorem State.TablesOk.dropEvents {s : State} (h : s.TablesOk) {ctx : Nat} : (s.dropEvents ctx).TablesOk :=
  .eachDo (fun _ _ hs => .ite hs (.flushReplies hs)) (.withSessions h (Tab.wf_each h.sessions _))

theorem State.TablesOk.dropTokens {s : State} (h : s.TablesOk) {ctx : Nat} : (s.dropTokens ctx).TablesOk := by
  dsimp only [State.dropTokens, State.TablesOk]
  exact ⟨h.mem, h.qps, Tab.wf_each h.sessions _, h.counters, h.ctxs, h.createCounts, h.vars, h.evals, Tab.wf_each h.requests _,
    h.tiles, h.phys, h.spares, h.streams, h.stalls, h.ports, h.links⟩

theorem State.TablesOk.endCtxWork {s : State} (h : s.TablesOk) {ctx : Nat} : (s.endCtxWork ctx).TablesOk := by
  unfold State.endCtxWork
  extract_lets -underBinder -merge s1 s2 s3 s4 s5 s6 s7 busy
  have h1 : s1.TablesOk := .dropTokens h
  have h2 : s2.TablesOk := .eachStep h1 (fun _ _ _ hs => .endStepSoon hs)
  have h3 : s3.TablesOk := .eachDo (fun _ _ hs => .endRequestSoon hs) h2
  have h4 : s4.TablesOk := .eachDo (fun _ _ hs => .endEvalSoon hs) h3
  have h5 : s5.TablesOk := .dropEvents h4
  have h6 : s6.TablesOk := .endCtxParked (.stopStreams h5)
  have h7 : s7.TablesOk := .endVarWaits (.endWaitingRuns h6)
  exact .ite h7 (.endProgram h7)

/-! ## Contexts -/

theorem State.TablesOk.drawLife {s : State} (h : s.TablesOk) {given : Option Nat} : (s.drawLife given).2.2.TablesOk := by
  unfold State.drawLife
  have h1 : (s.draw 32).2.TablesOk := .draw h
  generalize s.draw 32 = d at h1 ⊢
  obtain ⟨salt, s1⟩ := d
  dsimp -zeta only
  split
  · exact h1
  · exact .draw (n := 32) h1

theorem State.TablesOk.placeCtx {s : State} (h : s.TablesOk) {n : Nat} {p : CreateParams} {t : Ticket} {st : Settings} {base : Nat}
    {now : Bool} :
    (s.placeCtx n p t st base now).TablesOk := by
  unfold State.placeCtx
  extract_lets -underBinder -merge inc uid
  have h1 : (s.drawLife p.seed).2.2.TablesOk := .drawLife h
  generalize s.drawLife p.seed = d at h1 ⊢
  obtain ⟨salt, seed, s1⟩ := d
  dsimp -zeta only
  extract_lets -underBinder -merge s2 s3 msg
  have h2 : s2.TablesOk := .withCreateCounts h1 (Tab.wf_put h1.createCounts _ _)
  have h3 : s3.TablesOk := .setCtx h2
  exact .ite (.ringBroadcast h3) (.waitHbm h3)

theorem State.TablesOk.createCtx {s : State} (h : s.TablesOk) {n : Nat} {p : CreateParams} {t : Ticket} :
    (s.createCtx n p t).TablesOk := by
  unfold State.createCtx
  split
  · exact .answer h
  · split
    · exact .answer h
    · split
      · exact .answer h
      · split
        · exact .answer h
        · split
          · exact .answer h
          · extract_lets -underBinder -merge st
            have h1 : (s.needHbm st.hbmPages).2.TablesOk := .needHbm h
            generalize s.needHbm st.hbmPages = d at h1 ⊢
            obtain ⟨space, s1⟩ := d
            dsimp -zeta only
            split
            · exact .placeCtx h1
            · exact .answer h1

theorem Res.Ok.execContextCreate {c : Cmd} {p : CreateParams} {s : State} (h : s.TablesOk) : Res.Ok (execContextCreate c p s) :=
  .gaffer (fun _ _ hs => .ite .fault (.settled (.next (.createCtx hs)))) h

theorem State.TablesOk.zeroCtx {s : State} (h : s.TablesOk) {x : Ctx} : (s.zeroCtx x).TablesOk :=
  .withMem h (Memory.wf_foldl (Memory.wf_foldl h.mem _ _ (fun _ _ hm => Memory.wf_zeroRange hm _ _)) _ _
    (fun _ _ hm => Memory.wf_zeroRange hm _ _))

theorem State.TablesOk.freeCtx {s : State} (h : s.TablesOk) {n : Nat} : (s.freeCtx n).TablesOk := by
  unfold State.freeCtx
  split
  · extract_lets -underBinder -merge held s1
    have h1 : s1.TablesOk := .dropCtxWait (.zeroCtx h)
    exact .withCtxs h1 (Tab.wf_del h1.ctxs _)
  · exact h

theorem Res.Ok.execContextCreateComplete {ctx : Nat} {refusal : Option Nat} {s : State} (h : s.TablesOk) :
    Res.Ok (execContextCreateComplete ctx refusal s) := by
  unfold Machine.execContextCreateComplete
  split
  · split
    · split
      · exact .next h
      · split
        · exact .settled (.next (.answer (.ringBroadcast (.freeCtx h))))
        · exact .next (.answerWith (.setCtx h))
    · exact .next h
  · exact .next h

theorem Res.Ok.execContextSuspend {c : Cmd} {s : State} (h : s.TablesOk) : Res.Ok (execContextSuspend c s) :=
  .gaffer (fun _ _ hs => .ite (.next (.answer hs)) (.settled (.next (.enterState (.modCtx hs))))) h

theorem Res.Ok.execContextResume {c : Cmd} {s : State} (h : s.TablesOk) : Res.Ok (execContextResume c s) :=
  .gaffer (fun _ _ hs => .ite (.settled (.next (.answer (.enterState (.modCtx hs))))) (.next (.answer hs))) h

theorem Res.Ok.execContextShares {c : Cmd} {weight : Option Nat} {caps : Option Caps} {ringWeight : Option Nat} {s : State}
    (h : s.TablesOk) : Res.Ok (execContextShares c weight caps ringWeight s) :=
  .gaffer (fun _ _ hs => .ite (.next (.answer hs)) (.next (.answer (.modCtx hs)))) h

theorem State.TablesOk.dropForming {s : State} (h : s.TablesOk) {ctx : Nat} : (s.dropForming ctx).TablesOk := .modCtx h

theorem State.TablesOk.endSuspends {s : State} (h : s.TablesOk) {ctx : Nat} : (s.endSuspends ctx).TablesOk := by
  unfold State.endSuspends
  split
  · exact .answerAll (.setCtx h)
  · exact h

theorem Res.Ok.execContextReset {c : Cmd} {s : State} (h : s.TablesOk) : Res.Ok (execContextReset c s) := by
  refine .gaffer (fun _ _ hs => ?_) h
  split
  · exact .next (.answer hs)
  · split
    · exact .next (.setCtx hs)
    · split
      · exact .next (.answer hs)
      · exact .settled (.next (.endCtxWork (.endSuspends (.dropForming (.enterState (.setCtx hs))))))

theorem State.TablesOk.endReplays {s : State} (h : s.TablesOk) {n : Nat} : (s.endReplays n).TablesOk := .answerAll (.rest h)

theorem State.TablesOk.dropBundles {s : State} (h : s.TablesOk) {n : Nat} : (s.dropBundles n).TablesOk := .rest h

theorem State.TablesOk.clearCtx {s : State} (h : s.TablesOk) {n : Nat} : (s.clearCtx n).TablesOk :=
  .eachDo (fun _ _ hs => .becomeFree hs) (.dropBundles (.endReplays h))

theorem Res.Ok.execResetComplete {ctx : Nat} {s : State} (h : s.TablesOk) : Res.Ok (execResetComplete ctx s) := by
  unfold Machine.execResetComplete
  split
  · split
    · exact .settled (.next (.eachDo (fun _ _ hs => .answerWith hs) (.raise (.ringBroadcast (.setCtx (.withCreateCounts (.drawLife
        (.zeroCtx (.clearCtx h))) (Tab.wf_put (State.TablesOk.drawLife (.zeroCtx (.clearCtx h))).createCounts _ _)))))))
    · exact .next h
  · exact .next h

theorem Res.Ok.execContextDestroy {c : Cmd} {s : State} (h : s.TablesOk) : Res.Ok (execContextDestroy c s) := by
  refine .gaffer (fun _ _ hs => ?_) h
  split
  · exact .next (.answer hs)
  · exact .settled (.next (.endCtxWork (.endSuspends (.dropForming (.answerAll (.enterState (.setCtx hs)))))))

theorem Res.Ok.execDestroyComplete {ctx : Nat} {s : State} (h : s.TablesOk) : Res.Ok (execDestroyComplete ctx s) := by
  unfold Machine.execDestroyComplete
  split
  · split
    · exact .thenReset (.settled (.next (.answerAll (.ringBroadcast (.freeCtx (.eachDo (fun _ _ hs => .closeSession hs) (.clearCtx
        h)))))))
    · exact .next h
  · exact .next h

theorem State.TablesOk.spoil {s : State} (h : s.TablesOk) {n : Nat} {d : Bytes} : (s.spoil n d).TablesOk :=
  .withMem h (Memory.wf_foldl h.mem _ _ (fun _ _ hm => Memory.wf_writeBytes hm _ _))

theorem State.TablesOk.stopTile {s : State} (h : s.TablesOk) {n : Nat} : (s.stopTile n).TablesOk :=
  .modTile (.eachDo (fun _ _ hs => .spoil hs) h)

theorem Res.Ok.execTransportUnitStop {ctx : Nat} {s : State} (h : s.TablesOk) : Res.Ok (execTransportUnitStop ctx s) := by
  unfold Machine.execTransportUnitStop
  split
  · split
    · split
      · exact .settled (.next (.endProgram (.modCtx (.eachDo (fun _ _ hs => .modTile hs) (.eachDo (fun _ _ hs => .stopTile hs) h)))))
      · exact .next h
    · exact .next h
  · exact .next h

/-! ## Training -/

theorem State.TablesOk.answerOpt {s : State} (h : s.TablesOk) {t : Option Ticket} {status : Nat} :
    (s.answerOpt t status).TablesOk := by
  unfold State.answerOpt
  split
  · exact .answer h
  · exact h

theorem State.TablesOk.acceptStep {s : State} (h : s.TablesOk) {ticket : Option Ticket} {id ctx : Nat} {p : StepParams} :
    (s.acceptStep ticket id ctx p).TablesOk := by
  unfold State.acceptStep
  split
  · split
    · exact .answerOpt h
    · extract_lets -underBinder -merge took samples
      split
      · exact .answerOpt h
      · split
        · exact .answerOpt h
        · split
          · exact .answerOpt h
          · have h1 : s.fresh.2.TablesOk := .fresh h
            generalize s.fresh = d at h1 ⊢
            obtain ⟨key, s1⟩ := d
            dsimp -zeta only
            extract_lets -underBinder -merge t kept r s2 s3
            exact .ite (.answerOpt h1) (.pin (.rest (.setVar (.setCtx h1))))
  · exact .answerOpt h

theorem State.TablesOk.takeAuto {s : State} (h : s.TablesOk) {id : Nat} : (s.takeAuto id).TablesOk := .ite (.acceptStep h) h

theorem State.TablesOk.acceptEval {s : State} (h : s.TablesOk) {t : Ticket} {samples : List Sample} {microRows every : Nat} :
    (s.acceptEval t samples microRows every).TablesOk := by
  unfold State.acceptEval
  split
  · split
    · exact .answer h
    · split
      · exact .answer h
      · exact .pin (.withEvals (.fresh h) (Tab.wf_put (State.TablesOk.fresh h).evals _ _))
  · exact .answer h

theorem State.TablesOk.acceptRule {s : State} (h : s.TablesOk) {t : Ticket} {p : RuleParams} : (s.acceptRule t p).TablesOk :=
  .answer (.modCtx (.modVar (.fresh h)))

theorem State.TablesOk.acceptFreeze {s : State} (h : s.TablesOk) {t : Ticket} {l : List TensorRef} :
    (s.acceptFreeze t l).TablesOk := by
  unfold State.acceptFreeze
  split
  · exact .ite (.answer h) (.answer (.setVar h))
  · exact .answer h

theorem State.TablesOk.acceptThaw {s : State} (h : s.TablesOk) {t : Ticket} {l : List TensorRef} : (s.acceptThaw t l).TablesOk := by
  unfold State.acceptThaw
  split
  · split
    · exact .answer h
    · exact .ite (.answer h) (.answer (.setVar h))
  · exact .answer h

theorem State.TablesOk.raiseAdjust {s : State} (h : s.TablesOk) {t : TStep} {l : List Adjust} : (s.raiseAdjust t l).TablesOk := by
  refine .eachDo (fun _ _ hs => ?_) h
  split
  · exact .raiseCtx hs
  · exact hs

theorem State.TablesOk.nextReplay {s : State} (h : s.TablesOk) {v : Nat} : (s.nextReplay v).TablesOk := by
  unfold State.nextReplay
  split
  · exact h
  · split
    · extract_lets -underBinder -merge s1 s2 last
      have h1 : s1.TablesOk := .rest h
      have h2 : s2.TablesOk := .modVar h1
      exact .answerWith h2
    · split
      · exact h
      · exact .pin (.modVar (.rest (.fresh h)))

theorem State.TablesOk.replayGoesOn {s : State} (h : s.TablesOk) {t : TStep} : (s.replayGoesOn t).TablesOk := by
  unfold State.replayGoesOn
  exact .ite (.nextReplay (.rest h)) h

theorem State.TablesOk.startReplay {s : State} (h : s.TablesOk) {t : Ticket} {first last : Nat} {l : List LogRecord} :
    (s.startReplay t first last l).TablesOk := by
  unfold State.startReplay
  split
  · extract_lets -underBinder -merge rs before follows s1
    exact .ite (.answer h) (.nextReplay (.rest h))
  · exact .answer h

theorem State.TablesOk.endRecorded {s : State} (h : s.TablesOk) {t : TStep} {status cause : Nat} {kind : RecordKind} :
    (s.endRecorded t status cause kind).TablesOk := by
  unfold State.endRecorded
  extract_lets -underBinder -merge s1 v s2 s3 s4 s5 s6
  have h1 : s1.TablesOk := .discardStaged (.dropStep h)
  have h2 : s2.TablesOk := .ite h1 (.closeRecord h1)
  have h3 : s3.TablesOk := .ite (.countTenant h2) h2
  have h4 : s4.TablesOk := .snapCtx (.stashEvents (.returnNumber h3))
  have h5 : s5.TablesOk := .ite h4 (.failReplay h4)
  have h6 : s6.TablesOk := .replyStep h5
  exact .ite (.replayGoesOn h6) h6

theorem State.TablesOk.clearSets {s : State} (h : s.TablesOk) {set : Nat} : (s.clearSets set).TablesOk :=
  .withTiles h (Tab.wf_each h.tiles _)

theorem State.TablesOk.activate {s : State} (h : s.TablesOk) {v : Nat} : (s.activate v).TablesOk := by
  unfold State.activate
  extract_lets -underBinder -merge act s1
  have h1 : s1.TablesOk := by
    unfold s1
    split
    · exact h
    · split
      · exact h
      · exact .modVar h
  exact .modVar (.fresh h1)

theorem State.TablesOk.skipGradient {s : State} (h : s.TablesOk) {t : TStep} {stats : List LayerStat} :
    (s.skipGradient t stats).TablesOk := by
  unfold State.skipGradient
  split
  · exact .endRecorded (.raiseAdjust (.setVar h))
  · exact h

theorem Res.Ok.execStep {c : Cmd} {p : StepParams} {s : State} (h : s.TablesOk) : Res.Ok (execStep c p s) :=
  .gafferVar (fun _ _ hs => .ite (.next (.answer hs)) (.settled (.useVariant hs (fun _ ht => .next (.acceptStep ht))))) h

theorem Res.Ok.execEval {c : Cmd} {samples : List Sample} {microRows every : Nat} {s : State} (h : s.TablesOk) : Res.Ok
    (execEval c samples microRows every s) :=
  .gafferVar (fun _ _ hs => .ite (.next (.answer hs)) (.settled (.useVariant hs (fun _ ht => .next (.acceptEval ht))))) h

theorem Res.Ok.execSetRule {c : Cmd} {p : RuleParams} {s : State} (h : s.TablesOk) : Res.Ok (execSetRule c p s) :=
  .gafferVar (fun _ _ hs => .ite .fault (.settled (.useVariant hs (fun _ ht => .next (.acceptRule ht))))) h

theorem Res.Ok.execFreeze {c : Cmd} {tensors : List TensorRef} {s : State} (h : s.TablesOk) : Res.Ok (execFreeze c tensors s) :=
  .gafferVar (fun _ _ hs => .settled (.useVariant hs (fun _ ht => .next (.acceptFreeze ht)))) h

theorem Res.Ok.execThaw {c : Cmd} {tensors : List TensorRef} {s : State} (h : s.TablesOk) : Res.Ok (execThaw c tensors s) :=
  .gafferVar (fun _ _ hs => .settled (.useVariant hs (fun _ ht => .next (.acceptThaw ht)))) h

/-! ## Serving -/

theorem State.TablesOk.acceptSubmit {s : State} (h : s.TablesOk) {t : Ticket} {p : SubmitParams} {order : Nat} :
    (s.acceptSubmit t p order).TablesOk := by
  unfold State.acceptSubmit
  split
  · extract_lets -underBinder -merge pages r s1 s2
    split
    · exact .submitFinal h
    · have h1 : s1.TablesOk := .withRequests h (Tab.wf_put h.requests _ _)
      have h2 : s2.TablesOk := .pin h1
      exact .ite (.endRequest h2) h2
  · exact .submitFinal h

theorem Res.Ok.execSubmit {c : Cmd} {p : SubmitParams} {s : State} (h : s.TablesOk) : Res.Ok (execSubmit c p s) := by
  refine .gafferVar (fun _ _ hs => ?_) h
  split
  · exact .next (.submitFinal hs)
  · split
    · exact .next (.submitFinal hs)
    · exact .settled (.useVariant hs (fun _ ht => .next (.acceptSubmit (.fresh ht))))

theorem Res.Ok.execCancel {c : Cmd} {target : Nat} {s : State} (h : s.TablesOk) : Res.Ok (execCancel c target s) :=
  .gaffer (fun _ _ hs => .settled (.next (.eachDo (fun _ _ ht => .endEvalSoon ht)
      (.cancelParkedEval (.cancelParked (.eachDo (fun _ _ ht => .cancelRequest ht) (.answer hs))))))) h

theorem Res.Ok.execHoldLimitExpiry {ctx : Nat} {s : State} (h : s.TablesOk) : Res.Ok (execHoldLimitExpiry ctx s) := by
  unfold Machine.execHoldLimitExpiry
  split
  · exact .ite (.settled (.next (.setCtx h))) (.next h)
  · exact .next h

theorem State.TablesOk.modParison {s : State} (h : s.TablesOk) {ctx : Nat} {f : Parison → Parison} : (s.modParison ctx f).TablesOk :=
  .modCtx h

theorem State.TablesOk.modRow {s : State} (h : s.TablesOk) {ctx i : Nat} {f : Row → Row} : (s.modRow ctx i f).TablesOk := .modParison h

theorem State.TablesOk.sendBundle {s : State} (h : s.TablesOk) {dst : Nat} {b : Bundle} : (s.sendBundle dst b).TablesOk :=
  .eachDo (fun _ _ hs => .ringSendTag hs) h

theorem State.TablesOk.queueBundle {s : State} (h : s.TablesOk) {b : Bundle} : (s.queueBundle b).TablesOk := .rest h

theorem State.TablesOk.endRows {s : State} (h : s.TablesOk) {ctx : Nat} {ids : List Nat} {status : Nat} :
    (s.endRows ctx ids status).TablesOk :=
  .eachDo (fun _ _ hs => .endRequest hs) (.modParison h)

theorem State.TablesOk.abortRows {s : State} (h : s.TablesOk) {ctx layer e : Nat} : (s.abortRows ctx layer e).TablesOk := by
  unfold State.abortRows
  split
  · split
    · exact .endRows h
    · exact h
  · exact h

theorem State.TablesOk.endRunning {s : State} (h : s.TablesOk) {ctx status : Nat} : (s.endRunning ctx status).TablesOk := by
  unfold State.endRunning
  split
  · exact .endStepSoon h
  · exact .endEvalSoon h
  · exact h

theorem State.TablesOk.sendTravel {s : State} (h : s.TablesOk) {ctx : Nat} {b : Bundle} : (s.sendTravel ctx b).TablesOk := by
  unfold State.sendTravel
  split
  · exact h
  · split
    · exact .endRunning h
    · extract_lets -underBinder -merge b
      exact .ite (.queueBundle h) (.openAnswers (.sendBundle h))

theorem State.TablesOk.sendExpert {s : State} (h : s.TablesOk) {ctx layer e : Nat} : (s.sendExpert ctx layer e).TablesOk := by
  unfold State.sendExpert
  split
  · split
    · split
      · exact h
      · split
        · exact .abortRows h
        · have h1 : s.fresh.2.TablesOk := .fresh h
          generalize s.fresh = d at h1 ⊢
          obtain ⟨k, s1⟩ := d
          dsimp -zeta only
          extract_lets -underBinder -merge b
          exact .ite (.queueBundle h1) (.openAnswers (.sendBundle h1))
    · exact .eachDo (fun _ _ hs => .sendTravel hs) h
  · exact h

theorem State.TablesOk.dispatchLayer {s : State} (h : s.TablesOk) {ctx layer : Nat} : (s.dispatchLayer ctx layer).TablesOk := by
  unfold State.dispatchLayer
  split
  · split
    · exact .ite (.eachDo (fun _ _ hs => .sendExpert hs) h) h
    · exact h
  · exact h

theorem State.TablesOk.returnToken {s : State} (h : s.TablesOk) {q : Request} {token position generation : Nat} :
    (s.returnToken q token position generation).TablesOk :=
  .interim (.ite (.countTenant h) h)

theorem State.TablesOk.chunkDone {s : State} (h : s.TablesOk) {id : Nat} : (s.chunkDone id).TablesOk := by
  unfold State.chunkDone
  split
  · split
    · exact .endRequest h
    · exact .ite (.endRequest h) (.withRequests h (Tab.wf_put h.requests _ _))
  · exact h

theorem State.TablesOk.yieldToken {s : State} (h : s.TablesOk) {b : BaseShape} {r : Row} : (s.yieldToken b r).TablesOk := by
  unfold State.yieldToken
  split
  · extract_lets -underBinder -merge logits s1 token q s2 s3
    have h1 : s1.TablesOk := .countF8 h
    split
    · exact .endRequest h1
    · split
      · exact .endRequest (.countError h1)
      · have h2 : s2.TablesOk := .withRequests h1 (Tab.wf_put h1.requests _ _)
        have h3 : s3.TablesOk := .returnToken h2
        split
        · exact .endRequest h3
        · split
          · exact .endRequest h3
          · exact h3
  · exact h

theorem Res.Ok.continueRow {s : State} (h : s.TablesOk) {ctx row : Nat} : Res.Ok (s.continueRow ctx row) := by
  unfold State.continueRow
  split
  · split
    · split
      · split
        · exact .next h
        next c b _ _ _ p _ _ _ r _ _ =>
          generalize (if r.layer = 0 then (r, 0) else finishLayer (s.rowModel b p r) r (r.layer - 1)) = d
          obtain ⟨r, sats⟩ := d
          dsimp -zeta only
          extract_lets -underBinder -merge s1 s2 done x s3 s4
          have h1 : s1.TablesOk := .countF8 h
          split
          · have h2 : s2.TablesOk := .modRow h1
            split
            · exact .settled (.next (.yieldToken h2))
            · exact .ite (.settled (.next (.chunkDone h2))) (.next h2)
          · have h3 : s3.TablesOk := .countF8 h1
            have h4 : s4.TablesOk := by
              unfold s4
              split
              · exact .withRequests h3 (Tab.wf_put h3.requests _ _)
              · exact h3
            exact .settled (.next (.dispatchLayer (.modRow h4)))
      · exact .next h
    · exact .next h
  · exact .next h

theorem State.TablesOk.takeBack {s : State} (h : s.TablesOk) {b : Bundle} : (s.takeBack b).TablesOk := by
  unfold State.takeBack
  split
  · split
    · exact .ite (.modParison h) h
    · exact .ite (.setCtx h) h
  · exact h

theorem Res.Ok.arriveBundle {s : State} (h : s.TablesOk) {kind p : Nat} {frames : List Frame} {b : Bundle} {use : State → Res}
    (huse : ∀ ⦃s⦄, s.TablesOk → Res.Ok (use s)) :
    Res.Ok (s.arriveBundle kind p frames b use) := by
  unfold State.arriveBundle
  split
  · exact .next h
  · have h2 : (State.takeAll p frames s).2.TablesOk := .takeAll h
    generalize State.takeAll p frames s = d at h2 ⊢
    obtain ⟨ok, s2⟩ := d
    dsimp -zeta only
    exact .ite (huse h2) (.next h2)

theorem Res.Ok.execFwdBack {port : Nat} {frames : List Frame} {b : Bundle} {s : State} (h : s.TablesOk) : Res.Ok
    (execFwdBack port frames b s) :=
  .arriveBundle h (fun _ hs => .next (.takeBack hs))

theorem Res.Ok.execBwdBack {port : Nat} {frames : List Frame} {b : Bundle} {s : State} (h : s.TablesOk) : Res.Ok
    (execBwdBack port frames b s) :=
  .arriveBundle h (fun _ hs => .next (.takeBack hs))

theorem Res.Ok.execBounce {port : Nat} {frames : List Frame} {b : Bundle} {s : State} (h : s.TablesOk) : Res.Ok
    (execBounce port frames b s) :=
  .arriveBundle h (fun _ hs => .ite (.next (.sendExpert hs)) (.next hs))

theorem State.TablesOk.receiveBundle {s : State} (h : s.TablesOk) {b : Bundle} : (s.receiveBundle b).TablesOk :=
  .ite h (.ite (.sendBundle h) (.queueBundle h))

theorem Res.Ok.execFwdOut {port : Nat} {frames : List Frame} {b : Bundle} {s : State} (h : s.TablesOk) : Res.Ok
    (execFwdOut port frames b s) :=
  .arriveBundle h (fun _ hs => .next (.receiveBundle hs))

theorem Res.Ok.execBwdOut {port : Nat} {frames : List Frame} {b : Bundle} {s : State} (h : s.TablesOk) : Res.Ok
    (execBwdOut port frames b s) :=
  .arriveBundle h (fun _ hs => .next (.receiveBundle hs))

theorem Res.Ok.execBundleRun {s : State} (h : s.TablesOk) : Res.Ok (execBundleRun s) := by
  unfold Machine.execBundleRun
  split
  · exact .next h
  · split
    · exact .next h
    · exact .next (.eachDo (fun _ _ hs => .modTile hs) (.rest h))

theorem State.TablesOk.answerBundle {s : State} (h : s.TablesOk) {b : Bundle} : (s.answerBundle b).TablesOk :=
  .ite (.takeBack h) (.sendBundle h)

theorem State.TablesOk.releaseQuad {s : State} (h : s.TablesOk) {q : Nat} : (s.releaseQuad q).TablesOk :=
  .eachDo (fun _ _ hs => .modTile (.withMem hs (Memory.wf_zeroRange hs.mem _ _))) h

theorem State.TablesOk.noteStat {s : State} (h : s.TablesOk) {set layer : Nat} {st : LayerStat} : (s.noteStat set layer st).TablesOk :=
  .modTile h

theorem State.TablesOk.keepValues {s : State} (h : s.TablesOk) {w : HomeStash} : (s.keepValues w).TablesOk := by
  unfold State.keepValues
  extract_lets -underBinder -merge area s1
  have h1 : s1.TablesOk := .rest h
  exact .ite (.rest h1) (.ite (.takeHomeFull h1) (.ringSend h1))

theorem State.TablesOk.finishBundle {s : State} (h : s.TablesOk) {b : Bundle} : (s.finishBundle b).TablesOk := by
  unfold State.finishBundle
  split
  · exact h
  · split
    · extract_lets -underBinder -merge runs keep s1 x s2
      have h1 : s1.TablesOk := .countF8 h
      have h2 : s2.TablesOk := .ite h1 (.noteStat h1)
      exact .answerBundle (.ite (.keepValues h2) h2)
    · extract_lets -underBinder -merge values s1
      have h1 : s1.TablesOk := .countF8 h
      exact .answerBundle (.noteStat (.rest h1))

theorem Res.Ok.execBundleRunEnd {tag : Nat} {s : State} (h : s.TablesOk) : Res.Ok (execBundleRunEnd tag s) := by
  unfold Machine.execBundleRunEnd
  split
  · extract_lets -underBinder -merge s1 s2
    have h1 : s1.TablesOk := .rest h
    have h2 : s2.TablesOk := by
      unfold s2
      split
      · exact .releaseQuad h1
      · exact h1
    exact .next (.finishBundle h2)
  · exact .next h

theorem Res.Ok.execExpertReplacementDone {s : State} (h : s.TablesOk) : Res.Ok (execExpertReplacementDone s) := by
  unfold Machine.execExpertReplacementDone
  split
  · exact .next h
  · exact .settled (.next (.eachDo (fun _ _ hs => .eachDo (fun _ _ ht => .eachDo (fun _ _ ht => .sendExpert ht) ht) hs)
      (.takeExpertTable h)))

/-! ## Variants -/

theorem State.TablesOk.createVariant {s : State} (h : s.TablesOk) {t : Ticket} {p : VariantParams} :
    (s.createVariant t p).TablesOk := by
  unfold State.createVariant
  split
  · exact .answer h
  · extract_lets -underBinder -merge owners infos pages
    split
    · exact .answer h
    · have h1 : (s.needHbm pages).2.TablesOk := .needHbm h
      generalize s.needHbm pages = d at h1 ⊢
      obtain ⟨space, s1⟩ := d
      dsimp -zeta only
      split
      · exact .answer h1
      · have h2 : (s1.freeNat).2.TablesOk := .freeNat h1
        generalize s1.freeNat = d at h2 ⊢
        obtain ⟨page, s2⟩ := d
        dsimp -zeta only
        extract_lets -underBinder -merge x v s3
        have h3 : s3.TablesOk := .countF8 h2
        exact .ite (.placeVar h3) (.waitHbm h3)

theorem Res.Ok.execVariantCreate {c : Cmd} {p : VariantParams} {s : State} (h : s.TablesOk) : Res.Ok (execVariantCreate c p s) :=
  .gafferVar (fun _ _ hs => .ite .fault (.settled (.next (.createVariant hs)))) h

theorem State.TablesOk.overtakeRestore {s : State} (h : s.TablesOk) {id : Nat} : (s.overtakeRestore id).TablesOk := by
  unfold State.overtakeRestore
  split
  · split
    · exact .answer (.setVar h)
    · exact h
  · exact h

theorem State.TablesOk.destroyVariant {s : State} (h : s.TablesOk) {t : Ticket} : (s.destroyVariant t).TablesOk := by
  unfold State.destroyVariant
  extract_lets -underBinder -merge id
  split
  · exact .answer h
  · exact .beginEvict (.modVar h)
  · exact .advanceEvict (.modVar (.overtakeRestore h))
  · exact .becomeFree (.modVar h)

theorem Res.Ok.execVariantDestroy {c : Cmd} {s : State} (h : s.TablesOk) : Res.Ok (execVariantDestroy c s) :=
  .gafferVar (fun _ _ hs => .settled (.next (.destroyVariant hs))) h

theorem State.TablesOk.evict {s : State} (h : s.TablesOk) {t : Ticket} {forced : Bool} : (s.evict t forced).TablesOk := by
  unfold State.evict
  extract_lets -underBinder -merge id s1
  have h1 : s1.TablesOk := .modVar h
  split
  · exact .answer h
  · exact .answer h
  · exact .answer h
  · exact .beginEvict h1
  · exact .ite (.beginEvict h1) h1
  · exact .modVar h1
  · exact h1

theorem Res.Ok.execEvict {c : Cmd} {s : State} (h : s.TablesOk) : Res.Ok (execEvict c s) :=
  .gafferVar (fun _ _ hs => .settled (.next (.evict hs))) h

theorem Res.Ok.execEvictForce {c : Cmd} {s : State} (h : s.TablesOk) : Res.Ok (execEvictForce c s) :=
  .gafferVar (fun _ _ hs => .ite (.next (.answer hs)) (.settled (.next (.evict hs)))) h

theorem State.TablesOk.acceptAttach {s : State} (h : s.TablesOk) {t : Ticket} {extraNo slot : Nat} :
    (s.acceptAttach t extraNo slot).TablesOk := by
  unfold State.acceptAttach
  split
  · split
    · exact .answer h
    · split
      · exact .answer h
      · exact .ite (.answer h) (.answer (.announceVar (.enterExtra (.setVar (.countF8 h)))))
  · exact .answer h

theorem Res.Ok.execExpertAttach {c : Cmd} {extraNo slot : Nat} {s : State} (h : s.TablesOk) : Res.Ok
    (execExpertAttach c extraNo slot s) :=
  .gafferVar (fun _ _ hs => .settled (.useVariant hs (fun _ ht => .next (.acceptAttach ht)))) h

theorem State.TablesOk.acceptDetach {s : State} (h : s.TablesOk) {t : Ticket} {extraNo : Nat} :
    (s.acceptDetach t extraNo).TablesOk := by
  unfold State.acceptDetach
  split
  · split
    · exact .answer h
    · split
      · exact .answer h
      · exact .answer (.dropReleased (.setVar h))
  · exact .answer h

theorem Res.Ok.execExpertDetach {c : Cmd} {extraNo : Nat} {s : State} (h : s.TablesOk) : Res.Ok (execExpertDetach c extraNo s) :=
  .gafferVar (fun _ _ hs => .settled (.useVariant hs (fun _ ht => .next (.acceptDetach ht)))) h

theorem State.TablesOk.acceptExport {s : State} (h : s.TablesOk) {t : Ticket} {dest : Region} {withLog : Option Bool} :
    (s.acceptExport t dest withLog).TablesOk := by
  unfold State.acceptExport
  split
  · extract_lets -underBinder -merge data n head s1 use
    split
    · exact .answerWith h
    · exact .ite (.answer h) (.openService (.pin (.modCtx h)))
  · exact .answer h

theorem Res.Ok.execVariantExport {c : Cmd} {dest : Region} {s : State} (h : s.TablesOk) : Res.Ok (execVariantExport c dest s) :=
  .gafferVar (fun _ _ hs => .ite (.next (.answer hs)) (.settled (.useVariant hs (fun _ ht => .next (.acceptExport ht))))) h

theorem Res.Ok.execCheckpoint {c : Cmd} {dest : Region} {withLog : Bool} {s : State} (h : s.TablesOk) : Res.Ok
    (execCheckpoint c dest withLog s) :=
  .gafferVar (fun _ _ hs => .ite (.next (.answer hs)) (.settled (.useVariant hs (fun _ ht => .next (.acceptExport ht))))) h

theorem State.TablesOk.beginImport {s : State} (h : s.TablesOk) {t : Ticket} {image : Region} {o : Option (List Nat)} :
    (s.beginImport t image o).TablesOk := by
  unfold State.beginImport
  extract_lets -underBinder -merge owners
  exact .ite (.answer h) (.openService h)

theorem Res.Ok.execVariantImport {c : Cmd} {image : Region} {owners : Option (List Nat)} {s : State} (h : s.TablesOk) : Res.Ok
    (execVariantImport c image owners s) :=
  .gafferVar (fun _ _ hs => .ite (.next (.answer hs)) (.settled (.next (.beginImport hs)))) h

theorem State.TablesOk.restoreResident {s : State} (h : s.TablesOk) {id : Nat} : (s.restoreResident id).TablesOk :=
  .beginEvict (.modVar h)

theorem State.TablesOk.beginRestore {s : State} (h : s.TablesOk) {t : Ticket} {image : Region} :
    (s.beginRestore t image).TablesOk := by
  unfold State.beginRestore
  extract_lets -underBinder -merge id
  split
  · exact .answer h
  · split
    · exact .answer h
    · extract_lets -underBinder -merge s1
      have h1 : s1.TablesOk := .setVar h
      split
      · exact .restoreResident h1
      · exact .wantRestore h1
      · exact .wantRestore h1
      · exact h1

theorem Res.Ok.execRestore {c : Cmd} {image : Region} {s : State} (h : s.TablesOk) : Res.Ok (execRestore c image s) :=
  .gafferVar (fun _ _ hs => .ite (.next (.answer hs)) (.settled (.next (.beginRestore hs)))) h

theorem State.TablesOk.acceptReplay {s : State} (h : s.TablesOk) {t : Ticket} {first last : Nat} {log : Option Region} :
    (s.acceptReplay t first last log).TablesOk := by
  unfold State.acceptReplay
  split
  · exact .openService h
  · exact .startReplay h
  · exact .answer h

theorem Res.Ok.execReplay {c : Cmd} {first last : Nat} {log : Option Region} {s : State} (h : s.TablesOk) : Res.Ok
    (execReplay c first last log s) :=
  .gafferVar (fun _ _ hs => .ite (.next (.answer hs)) (.settled (.useVariant hs (fun _ ht => .next (.acceptReplay ht))))) h

/-! ## Release -/

theorem State.TablesOk.acceptUse {s : State} (h : s.TablesOk) {p : Parked} : (s.acceptUse p).TablesOk := by
  unfold State.acceptUse
  split
  · exact .acceptStep h
  · exact .acceptEval h
  · exact .acceptRule h
  · exact .acceptFreeze h
  · exact .acceptThaw h
  · exact .acceptAttach h
  · exact .acceptDetach h
  · exact .acceptExport h
  · exact .acceptExport h
  · exact .acceptReplay h
  · exact .acceptSubmit h
  · exact h

theorem State.TablesOk.releaseOne {s : State} (h : s.TablesOk) {id : Nat} : (s.releaseOne id).TablesOk := by
  unfold State.releaseOne
  split
  · exact .ite (.acceptUse (.modVar (.rest h))) h
  · exact h

theorem State.TablesOk.releaseParked {s : State} (h : s.TablesOk) {id : Nat} : (s.releaseParked id).TablesOk :=
  .foldl (fun _ hs _ => .releaseOne hs) h

theorem State.TablesOk.becomeResident {s : State} (h : s.TablesOk) {id : Nat} : (s.becomeResident id).TablesOk := by
  unfold State.becomeResident
  extract_lets -underBinder -merge s1
  have h1 : s1.TablesOk := .releaseParked h
  split
  · split
    · exact h1
    · split
      · exact .restoreResident h1
      · exact .ite (.beginEvict h1) h1
  · exact h1

theorem State.TablesOk.endRestore {s : State} (h : s.TablesOk) {id : Nat} : (s.endRestore id).TablesOk := by
  unfold State.endRestore
  split
  · split
    · split
      · extract_lets -underBinder -merge s1 halted s2 s3
        have h1 : s1.TablesOk := .setVar h
        have h2 : s2.TablesOk := .modCtx h1
        have h3 : s3.TablesOk := .ite (.enterState h2) h2
        exact .answerWith h3
      · exact h
    · exact h
  · exact h

theorem State.TablesOk.loadComplete {s : State} (h : s.TablesOk) {id : Nat} : (s.loadComplete id).TablesOk :=
  .becomeResident (.endRestore (.modVar h))

theorem State.TablesOk.partPlaced {s : State} (h : s.TablesOk) {id position : Nat} : (s.partPlaced id position).TablesOk := by
  unfold State.partPlaced
  split
  · split
    · extract_lets -underBinder -merge s1
      have h1 : s1.TablesOk := .modVar h
      exact .ite (.loadComplete h1) h1
    · exact h
  · exact h

theorem Res.Ok.execLoadPartPlaced {variant position : Nat} {s : State} (h : s.TablesOk) : Res.Ok
    (execLoadPartPlaced variant position s) :=
  .settled (.next (.partPlaced h))

theorem State.TablesOk.placeImage {s : State} (h : s.TablesOk) {id : Nat} {i : VariantImage} : (s.placeImage id i).TablesOk :=
  .announceVar (.modVar (.freeNat h))

theorem State.TablesOk.placeRestored {s : State} (h : s.TablesOk) {id : Nat} {i : VariantImage} : (s.placeRestored id i).TablesOk := by
  unfold State.placeRestored
  extract_lets -underBinder -merge owners held ctx s1
  have h1 : s1.TablesOk := .eachDo (fun _ _ hs => .ite (.clearSlot hs) (.ringSend hs)) h
  exact .announceVar (.modVar (.freeNat h1))

theorem Res.Ok.execWriteOutComplete {variant : Nat} {s : State} (h : s.TablesOk) : Res.Ok (execWriteOutComplete variant s) := by
  unfold Machine.execWriteOutComplete
  split
  · extract_lets -underBinder -merge written found s1 s2
    split
    · exact .settled (.next (.becomeAbsent (.modVar (.eachDo (fun _ _ hs => .delStrm hs) h))))
    · exact .next h
  · exact .next h

theorem State.TablesOk.failWriteOut {s : State} (h : s.TablesOk) {id status : Nat} : (s.failWriteOut id status).TablesOk := by
  unfold State.failWriteOut
  split
  · extract_lets -underBinder -merge s1 s2 s3
    have h1 : s1.TablesOk := .setVar h
    have h2 : s2.TablesOk := .answerAll h1
    have h3 : s3.TablesOk := .ite (.rest h2) h2
    exact .becomeResident (.pinParked h3)
  · exact h

/-! ## Retire -/

theorem State.TablesOk.failFed {s : State} (h : s.TablesOk) {ctx status : Nat} : (s.failFed ctx status).TablesOk := by
  unfold State.failFed
  split
  · split
    · exact .endStepSoon h
    · exact .endEvalSoon h
    · exact .eachDo (fun _ _ hs => .endRequestSoon hs) h
    · exact h
  · exact h

theorem State.TablesOk.failAnswers {s : State} (h : s.TablesOk) {ctx status : Nat} : (s.failAnswers ctx status).TablesOk := by
  unfold State.failAnswers
  split
  · split
    · exact .endStepSoon h
    · exact .endEvalSoon h
    · exact .endRows h
    · exact h
  · exact h

theorem State.TablesOk.failStrm {s : State} (h : s.TablesOk) {k status : Nat} : (s.failStrm k status).TablesOk := by
  unfold State.failStrm
  split
  · split
    · split
      · exact .abandonStrm h
      · exact .abandonStrm (.answerWith h)
    · exact .endSlot h
    · exact .failLoad h
    · exact .failLoad h
    · exact .abandonStrm (.answer h)
    · exact .failWriteOut (.abandonStrm h)
    · exact .unpin (.abandonStrm (.answer h))
    · exact .abandonStrm (.answer h)
    · exact .abandonStrm h
    · exact .failFed (.abandonStrm h)
    · exact .failAnswers (.abandonStrm h)
  · exact h

theorem State.TablesOk.endAnswers {s : State} (h : s.TablesOk) {ctx status : Nat} : (s.endAnswers ctx status).TablesOk :=
  .eachDo (fun _ _ hs => .failStrm hs) h

theorem State.TablesOk.loseStep {s : State} (h : s.TablesOk) {v n : Nat} : (s.loseStep v n).TablesOk := by
  unfold State.loseStep
  split
  · split
    · exact h
    · split
      · exact .ringSend h
      · split
        · exact .abandonStep h
        · extract_lets -underBinder -merge s1
          have h1 : s1.TablesOk := by
            unfold s1
            split
            · exact .reduceAll h
            · exact h
          exact .modStep (.discardStaged h1)
  · exact h

theorem State.TablesOk.loseUnit {s : State} (h : s.TablesOk) {ctx : Nat} {c : Ctx} {r : Running} : (s.loseUnit ctx c r).TablesOk := by
  unfold State.loseUnit
  extract_lets -underBinder -merge s1 s2
  have h1 : s1.TablesOk := .eachDo (fun _ _ hs => .stopTile hs) (.endFeeds h)
  have h2 : s2.TablesOk := .setCtx h1
  split
  · exact .ite h2 (.modCtx h2)
  · exact .withEvals h2 (Tab.wf_modify h2.evals _ _)
  · exact .endProgram h2
  · exact h2

theorem State.TablesOk.endDue {s : State} (h : s.TablesOk) {ctx : Nat} : (s.endDue ctx).TablesOk := by
  refine .eachDo (fun _ _ hs => ?eval) (.eachDo (fun _ _ hs => .endRequest hs) (.eachDo (fun _ _ hs => ?request) h))
  case eval =>
    split
    · exact .endEval hs
    · exact hs
  case request =>
    split
    · exact .endRequest hs
    · exact hs

theorem State.TablesOk.abortProgram {s : State} (h : s.TablesOk) {ctx : Nat} {c : Ctx} : (s.abortProgram ctx c).TablesOk :=
  .ite (.endProgram h) h

theorem State.TablesOk.loseCtx {s : State} (h : s.TablesOk) {n ctx : Nat} : (s.loseCtx n ctx).TablesOk := by
  unfold State.loseCtx
  split
  · extract_lets -underBinder -merge s1 s2
    have h1 : s1.TablesOk := by
      unfold s1
      split
      · exact .ite (.endDue (.loseUnit h)) h
      · exact h
    split
    · have h2 : s2.TablesOk := .eachStep h1 (fun _ _ _ hs => .loseStep hs)
      split
      · exact .abortProgram h2
      · exact h2
    · exact h1
  · exact h

theorem State.TablesOk.loseBundles {s : State} (h : s.TablesOk) {n : Nat} : (s.loseBundles n).TablesOk := .rest h

theorem State.TablesOk.endTileStreams {s : State} (h : s.TablesOk) {n : Nat} : (s.endTileStreams n).TablesOk :=
  .eachDo (fun _ _ hs => .failStrm hs) h

theorem State.TablesOk.zeroTile {s : State} (h : s.TablesOk) {n : Nat} : (s.zeroTile n).TablesOk :=
  .withMem h (Memory.wf_zeroRange h.mem _ _)

theorem State.TablesOk.vacate {s : State} (h : s.TablesOk) {n : Nat} : (s.vacate n).TablesOk :=
  have h1 : (s.zeroTile n).TablesOk := .zeroTile h
  ⟨h1.mem, h1.qps, h1.sessions, h1.counters, h1.ctxs, h1.createCounts, h1.vars, h1.evals, h1.requests, Tab.wf_del h.tiles _,
    Tab.wf_del h.phys _, h1.spares, h1.streams, h1.stalls, h1.ports, h1.links⟩

theorem State.TablesOk.listTile {s : State} (h : s.TablesOk) {q i : Nat} : (s.listTile q i).TablesOk := .modFlash (.modPower h)

theorem State.TablesOk.replaceTile {s : State} (h : s.TablesOk) {n : Nat} : (s.replaceTile n).TablesOk := by
  unfold State.replaceTile
  extract_lets -underBinder -merge s1
  have h1 : s1.TablesOk := by
    unfold s1
    split
    · exact .listTile h
    · exact h
  split
  · have h2 : (s1.zeroTile n).TablesOk := .zeroTile h1
    exact ⟨h2.mem, h2.qps, h2.sessions, h2.counters, h2.ctxs, h2.createCounts, h2.vars, h2.evals, h2.requests,
      Tab.wf_put h1.tiles _ _, Tab.wf_put h1.phys _ _, Tab.wf_del h1.spares _, h2.streams, h2.stalls, h2.ports, h2.links⟩
  · exact .vacate h1

theorem State.TablesOk.raiseDegraded {s : State} (h : s.TablesOk) {cause detail : Nat} : (s.raiseDegraded cause detail).TablesOk :=
  .raiseModule h

theorem State.TablesOk.loseTile {s : State} (h : s.TablesOk) {n : Nat} : (s.loseTile n).TablesOk :=
  .endTileStreams (.loseBundles (.eachDo (fun _ _ hs => .loseCtx hs) (.modTile h)))

theorem State.TablesOk.retireTile {s : State} (h : s.TablesOk) {n cause seq : Nat} {r : FaultRecord} :
    (s.retireTile n cause seq r).TablesOk := by
  unfold State.retireTile
  split
  · exact h
  · extract_lets -underBinder -merge s1 s2 s3
    have h1 : s1.TablesOk := .replaceTile (.loseTile h)
    have h2 : s2.TablesOk := .raiseFor h1
    have h3 : s3.TablesOk := .record h2
    exact .ite (.raiseDegraded h3) h3

theorem Res.Ok.execRetireTile {c : Cmd} {tile : Nat} {s : State} (h : s.TablesOk) : Res.Ok (execRetireTile c tile s) :=
  .gaffer (fun _ _ hs => .ite (.next (.answer hs)) (.ite (.next (.answer hs)) (.settled (.next (.answerWith (.retireTile hs)))))) h

theorem State.TablesOk.sramSingle {s : State} (h : s.TablesOk) {n : Nat} : (s.sramSingle n).TablesOk := .countError (.modTile h)

theorem State.TablesOk.sramDouble {s : State} (h : s.TablesOk) {n : Nat} : (s.sramDouble n).TablesOk := .retireTile h

theorem State.TablesOk.bankLine {s : State} (h : s.TablesOk) {n : Nat} {line : HbmOutcome} : (s.bankLine n line).TablesOk := by
  unfold State.bankLine
  split
  · exact .sramSingle h
  · exact .sramDouble h
  · exact h

theorem State.TablesOk.rerunSteps {s : State} (h : s.TablesOk) {p : TStep → Bool} : (s.rerunSteps p).TablesOk :=
  .eachStep h (fun _ _ _ hs => .loseStep hs)

theorem State.TablesOk.rerunUnit {s : State} (h : s.TablesOk) {ctx : Nat} : (s.rerunUnit ctx).TablesOk := by
  unfold State.rerunUnit
  split
  · split
    · exact .endDue (.loseUnit h)
    · exact h
  · exact h

theorem State.TablesOk.dropResident {s : State} (h : s.TablesOk) {v : Nat} : (s.dropResident v).TablesOk := .ite (.beginEvict h) h

theorem State.TablesOk.hbmLost {s : State} (h : s.TablesOk) {area : HbmArea} : (s.hbmLost area).TablesOk := by
  unfold State.hbmLost
  split
  · exact .enterFailed h
  · exact h
  · exact .loseVariant h
  · exact .dropResident h
  · exact .rerunSteps (.rerunUnit h)
  · exact .endRequestSoon h
  · exact h

theorem State.TablesOk.retirePage {s : State} (h : s.TablesOk) {address : Nat} : (s.retirePage address).TablesOk := by
  unfold State.retirePage
  extract_lets -underBinder -merge p
  exact .ite h (.rest h)

theorem State.TablesOk.hbmLine {s : State} (h : s.TablesOk) {address : Nat} {area : HbmArea} {o : HbmOutcome} :
    (s.hbmLine address area o).TablesOk := by
  unfold State.hbmLine
  split
  · exact h
  · exact .countError h
  · exact .hbmLost (.retirePage (.record (.countError h)))
  · exact .hbmLost (.retirePage (.record (.countError h)))

theorem State.TablesOk.someLine {s : State} (h : s.TablesOk) {module : Bool} : (s.someLine module).2.TablesOk := .freeNat h

theorem State.TablesOk.areaLine {s : State} (h : s.TablesOk) {module : Bool} {area : HbmArea} {line : HbmOutcome} :
    (s.areaLine module area line).TablesOk :=
  .hbmLine (.someLine (module := module) h)

theorem Res.Ok.execPatrolScrub {address : Nat} {area : HbmArea} {outcome : HbmOutcome} {s : State} (h : s.TablesOk) :
    Res.Ok (execPatrolScrub address area outcome s) := by
  unfold Machine.execPatrolScrub
  split
  · exact .next h
  · extract_lets -underBinder -merge o
    exact .settled (.next (.hbmLine h))

/-! ## Starts -/

theorem State.TablesOk.enqueueOp {s : State} (h : s.TablesOk) {n ctx : Nat} {desc : Bytes} : (s.enqueueOp n ctx desc).TablesOk :=
  .modTile h

theorem State.TablesOk.refuseStart {s : State} (h : s.TablesOk) {k : Nat} {x : Strm} : (s.refuseStart k x).TablesOk := by
  unfold State.refuseStart
  split
  · exact .endProgram h
  · exact .failStrm h

theorem State.TablesOk.makeStart {s : State} (h : s.TablesOk) {k : Nat} : (s.makeStart k).TablesOk := by
  unfold State.makeStart
  split
  · split
    · extract_lets -underBinder -merge n d own
      exact .ite (.modStrm (.enqueueOp h)) (.refuseStart h)
    · exact h
  · exact h

theorem State.TablesOk.finishStrm {s : State} (h : s.TablesOk) {k : Nat} : (s.finishStrm k).TablesOk := by
  unfold State.finishStrm
  split
  · split
    · split
      · exact .delStrm (.answerWith h)
      · exact .endSlot h
    · exact h
  · exact h

theorem State.TablesOk.makeStarts {s : State} (h : s.TablesOk) : s.makeStarts.TablesOk :=
  .eachDo (fun _ _ hs => .finishStrm (.foldl (fun _ ht _ => .makeStart ht) hs)) h

theorem Res.Ok.started {r : Res} (hr : Res.Ok r) : Res.Ok (started r) := .bind hr (fun _ hs => .next (.settle (.makeStarts hs)))

/-! ## Link -/

theorem State.TablesOk.dropPassing {s : State} (h : s.TablesOk) {p : Nat} {f : Frame} : (s.dropPassing p f).TablesOk :=
  .countError (.freePassing h)

theorem State.TablesOk.pumpBoth {s : State} (h : s.TablesOk) {p : Nat} : (s.pumpBoth p).TablesOk := .pump (.pump h)

theorem Res.Ok.execFrameForward {port : Nat} {frame : Frame} {s : State} (h : s.TablesOk) :
    Res.Ok (execFrameForward port frame s) := by
  unfold Machine.execFrameForward
  split
  · exact .next h
  · extract_lets -underBinder -merge s1
    have h1 : s1.TablesOk := .tap h
    have h2 : (s1.accept port frame).2.TablesOk := .accept h1
    generalize s1.accept port frame = d at h2 ⊢
    obtain ⟨ok, s2⟩ := d
    dsimp -zeta only
    split
    · exact .next h2
    · exact .ite (.next (.ite (.dropFrame h2) (.dropPassing h2))) (.next (.pumpBoth (.modLink h2)))

theorem Res.Ok.execCaneStreamFrame {port : Nat} {frame : Frame} {s : State} (h : s.TablesOk) : Res.Ok
    (execCaneStreamFrame port frame s) :=
  .arrive h (fun _ hs => .next (.modLink hs))

theorem Res.Ok.execIdle {port : Nat} {frame : Frame} {s : State} (h : s.TablesOk) : Res.Ok (execIdle port frame s) :=
  .arrive h (fun _ hs => .next hs)

theorem State.TablesOk.neighbourLeft {s : State} (h : s.TablesOk) {p : Nat} {d : Lldpdu} {cause : Nat} :
    (s.neighbourLeft p d cause).TablesOk :=
  .raiseModule (.modPort h)

theorem State.TablesOk.newNeighbour {s : State} (h : s.TablesOk) {p : Nat} {d : Lldpdu} : (s.newNeighbour p d).TablesOk := by
  unfold State.newNeighbour
  extract_lets -underBinder -merge s1
  have h1 : s1.TablesOk := by
    unfold s1
    split
    · exact .ite (.neighbourLeft h) h
    · exact h
  exact .raiseModule (.modPort h1)

theorem State.TablesOk.meetNeighbour {s : State} (h : s.TablesOk) {p : Nat} {d : Lldpdu} : (s.meetNeighbour p d).TablesOk := by
  unfold State.meetNeighbour
  split
  · exact .ite (.modPort h) (.newNeighbour h)
  · exact .newNeighbour h

theorem Res.Ok.execLldp {port : Nat} {frame : Option Frame} {pdu : Lldpdu} {s : State} (h : s.TablesOk) :
    Res.Ok (execLldp port frame pdu s) := by
  unfold Machine.execLldp
  split
  · exact .ite (.arrive h (fun _ hs => .next (.meetNeighbour hs))) (.next h)
  · exact .ite (.next (.modPort h)) (.next h)

theorem State.TablesOk.sendLldp {s : State} (h : s.TablesOk) {p : Nat} : (s.sendLldp p).TablesOk := .ite (.linkSend h) (.emit h)

theorem Res.Ok.execLldpTimer {port : Nat} {s : State} (h : s.TablesOk) : Res.Ok (execLldpTimer port s) :=
  .ite (.next (.sendLldp h)) (.next h)

theorem Res.Ok.execRekey {port : Nat} {frame : Frame} {s : State} (h : s.TablesOk) : Res.Ok (execRekey port frame s) := by
  refine .arrive h (fun _ hs => ?_)
  split
  · extract_lets -underBinder -merge l
    exact .ite (.next (.switchKey (.modLink hs))) (.next hs)
  · exact .next hs

theorem Res.Ok.execRekeyDue {port : Nat} {s : State} (h : s.TablesOk) : Res.Ok (execRekeyDue port s) := by
  unfold Machine.execRekeyDue
  extract_lets -underBinder -merge l
  split
  · exact .next h
  · exact .ite (.next (.startRekey h)) (.next (.modLink h))

theorem Res.Ok.execRingSignalLoss {port : Nat} {s : State} (h : s.TablesOk) : Res.Ok (execRingSignalLoss port s) :=
  .ite (.next (.holdLink h)) (.next h)

theorem State.TablesOk.endRingStreams {s : State} (h : s.TablesOk) {p : Nat} {q : Strm → Bool} : (s.endRingStreams p q).TablesOk :=
  .eachDo (fun _ _ hs => .failStrm hs) h

theorem State.TablesOk.rejoin {s : State} (h : s.TablesOk) {p : Nat} {q : Partner} {rate : Nat} : (s.rejoin p q rate).TablesOk :=
  .resend (.modLink h)

theorem State.TablesOk.relink {s : State} (h : s.TablesOk) {p : Nat} {q : Partner} {rate : Nat} : (s.relink p q rate).TablesOk :=
  .modLink (.modLink h)

theorem Res.Ok.execLinkEstablished {port : Nat} {partner : Partner} {rate : Nat} {s : State} (h : s.TablesOk) :
    Res.Ok (execLinkEstablished port partner rate s) := by
  unfold Machine.execLinkEstablished
  split
  · exact .next h
  · extract_lets -underBinder -merge old same gone s1 s2
    have h2 : s2.TablesOk := by
      unfold s2
      split
      · exact .rejoin h
      · have h1 : s1.TablesOk := .relink h
        exact .ite (.endRingStreams h1) h1
    exact .started (.next (.pumpBoth (.sendLldp h2)))

theorem State.TablesOk.turnRound {s : State} (h : s.TablesOk) {p : Nat} : (s.turnRound p).TablesOk := .pumpBoth (.modLink (.modLink h))

theorem Res.Ok.execLinkHoldExpiry {port : Nat} {s : State} (h : s.TablesOk) : Res.Ok (execLinkHoldExpiry port s) := by
  unfold Machine.execLinkHoldExpiry
  split
  · exact .next h
  · extract_lets -underBinder -merge lost s1 s2 s3
    have h1 : s1.TablesOk := .modLink h
    have h2 : s2.TablesOk := by
      unfold s2
      split
      · exact .neighbourLeft h1
      · exact h1
    have h3 : s3.TablesOk := .raiseDegraded h2
    exact .started (.next (.turnRound (.eachDo (fun _ _ hs => .endAnswers hs) (.endRingStreams (.record (.freeOutcome h3))))))

theorem Res.Ok.execBerWindow {port : Nat} {exceeded : Bool} {s : State} (h : s.TablesOk) : Res.Ok (execBerWindow port exceeded s) := by
  unfold Machine.execBerWindow
  extract_lets -underBinder -merge l
  split
  · exact .next h
  · split
    · exact .next (.modLink h)
    · split
      · exact .next (.modLink h)
      · exact .ite (.next (.holdLink (.modLink h))) (.next (.raiseDegraded (.modLink h)))

theorem Res.Ok.execEqAdapt {port lane : Nat} {settings : LaneSet} {request : Nat} {s : State} (h : s.TablesOk) :
    Res.Ok (execEqAdapt port lane settings request s) := by
  unfold Machine.execEqAdapt
  split
  · exact .next h
  · split
    · exact .ite (.next (.modLink h)) (.next h)
    · exact .ite (.next (.modPort h)) (.next h)

theorem State.TablesOk.failJoin {s : State} (h : s.TablesOk) {status : Nat} {params : List (Nat × Bytes)} :
    (s.failJoin status params).TablesOk := by
  unfold State.failJoin
  extract_lets -underBinder -merge t s1
  have h1 : s1.TablesOk := .modRing h
  clear_value t
  split
  · exact .answerWith h1
  · exact h1

theorem Res.Ok.execCaneTrainingFailed {port : Nat} {s : State} (h : s.TablesOk) : Res.Ok (execCaneTrainingFailed port s) := by
  unfold Machine.execCaneTrainingFailed
  split
  · exact .next h
  · extract_lets -underBinder -merge s1 s2
    have h1 : s1.TablesOk := .countError h
    have h2 : s2.TablesOk := .modLink h1
    split
    · exact .next (.failJoin h2)
    · exact .next (.failJoin h2)
    · exact .next h2

/-! ## Commit -/

theorem State.TablesOk.takeGrads {s : State} (h : s.TablesOk) {variant n microBatch : Nat} {l : List (Nat × List Nat)} :
    (s.takeGrads variant n microBatch l).TablesOk := by
  unfold State.takeGrads
  split
  · exact .ite h (.modStep (.modVar h))
  · exact h

theorem State.TablesOk.takeBegan {s : State} (h : s.TablesOk) {variant n src : Nat} {w : StepHead} :
    (s.takeBegan variant n src w).TablesOk := by
  unfold State.takeBegan
  split
  · exact .ite h (.clearSets (.activate (.pin (.rest (.fresh h)))))
  · exact h

theorem State.TablesOk.leaveStep {s : State} (h : s.TablesOk) {t : TStep} : (s.leaveStep t).TablesOk := .unpin (.dropStep h)

theorem State.TablesOk.takeAbandon {s : State} (h : s.TablesOk) {variant n : Nat} : (s.takeAbandon variant n).TablesOk := by
  unfold State.takeAbandon
  split
  · exact .ite h (.leaveStep (.discardStaged h))
  · exact h

theorem State.TablesOk.openStep {s : State} (h : s.TablesOk) {t : TStep} {v : Var} : (s.openStep t v).TablesOk :=
  .modStep (.reduceAll (.clearSets (.activate h)))

theorem State.TablesOk.beginUpdate {s : State} (h : s.TablesOk) {t : TStep} {v : Var} {stats : List LayerStat} :
    (s.beginUpdate t v stats).TablesOk :=
  .modStep h

theorem Res.Ok.execCheck {variant stepNo : Nat} {s : State} (h : s.TablesOk) : Res.Ok (execCheck variant stepNo s) := by
  unfold Machine.execCheck
  split
  · split
    · exact .next h
    · extract_lets -underBinder -merge s1 stats s2 s3 bad s4
      have h1 : s1.TablesOk := .ite (.openStep h) h
      have h2 : s2.TablesOk := .clearSets h1
      split
      · exact .next (.ringSend (.modStep h2))
      · exact .settled (.next (.ite (.skipGradient (.reduceAll h2)) (.beginUpdate (.reduceAll h2))))
  · exact .next h

theorem State.TablesOk.takeChecked {s : State} (h : s.TablesOk) {variant n : Nat} {bad : Bool} {stats : List LayerStat} :
    (s.takeChecked variant n bad stats).TablesOk := by
  unfold State.takeChecked
  split
  · split
    · exact h
    · exact .ite (.leaveStep (.discardStaged (.setVar h))) (.beginUpdate h)
  · exact h

theorem State.TablesOk.noteBadUpdate {s : State} (h : s.TablesOk) {t : TStep} {layer : Nat} : (s.noteBadUpdate t layer).TablesOk := by
  unfold State.noteBadUpdate
  split
  · exact .modTile h
  · exact h

theorem State.TablesOk.writeLayer {s : State} (h : s.TablesOk) {t : TStep} {v : Var} {l : Nat} {rest : List Nat} :
    (s.writeLayer t v l rest).TablesOk := by
  unfold State.writeLayer
  extract_lets -underBinder -merge done bad n elems counted sats w s1 s2
  have h1 : s1.TablesOk := .setVar (.countF8 h)
  have h2 : s2.TablesOk := .ite (.noteBadUpdate h1) h1
  exact .modStep h2

theorem State.TablesOk.sendCopies {s : State} (h : s.TablesOk) {variant stepNo : Nat} : (s.sendCopies variant stepNo).TablesOk := by
  unfold State.sendCopies
  split
  · extract_lets -underBinder -merge l
    exact .ite (.reduceAll h) h
  · exact h

theorem Res.Ok.execUpdateLayer {variant stepNo : Nat} {s : State} (h : s.TablesOk) {line : HbmOutcome} :
    Res.Ok (execUpdateLayer variant stepNo s line) := by
  unfold Machine.execUpdateLayer
  split
  · split
    · exact .next h
    · split
      · exact .next h
      · extract_lets -underBinder -merge s1
        have h1 : s1.TablesOk := .areaLine h
        split
        · exact .settled (.next h1)
        · exact .settled (.next h1)
        · exact .settled (.next (.sendCopies (.writeLayer h1)))
  · exact .next h

theorem Res.Ok.execVote {variant stepNo : Nat} {s : State} (h : s.TablesOk) : Res.Ok (execVote variant stepNo s) := by
  unfold Machine.execVote
  split
  · exact .ite (.next (.ite (.modStep (.setVar h)) (.ringSend (.modStep (.setVar h))))) (.next h)
  · exact .next h

theorem State.TablesOk.takeCopies {s : State} (h : s.TablesOk) {variant n : Nat} {l : List (Nat × WorkCopy)} :
    (s.takeCopies variant n l).TablesOk :=
  .modStep h

theorem State.TablesOk.takeVote {s : State} (h : s.TablesOk) {variant n src : Nat} {x : Vote} {l : List (Nat × TensorState)} :
    (s.takeVote variant n src x l).TablesOk := by
  unfold State.takeVote
  split
  · exact .ite h (.modVar (.modStep h))
  · exact h

theorem State.TablesOk.raiseDrift {s : State} (h : s.TablesOk) {t : TStep} : (s.raiseDrift t).TablesOk := by
  unfold State.raiseDrift
  extract_lets -underBinder -merge n m
  exact .ite (.raiseCtx h) h

theorem State.TablesOk.runRepeats {s : State} (h : s.TablesOk) {t : TStep} : (s.runRepeats t).TablesOk := by
  refine .eachDo (fun _ _ hs => ?_) h
  split
  · split
    · exact .pin (.withEvals hs (Tab.wf_put hs.evals _ _))
    · exact .withEvals hs (Tab.wf_put hs.evals _ _)
  · exact hs

theorem State.TablesOk.sendDigests {s : State} (h : s.TablesOk) {variant n : Nat} {due : Bool} :
    (s.sendDigests variant n due).TablesOk := by
  unfold State.sendDigests
  split
  · exact .ite (.reduceAll h) h
  · exact h

theorem State.TablesOk.flip {s : State} (h : s.TablesOk) {t : TStep} {v : Var} : (s.flip t v).TablesOk := by
  unfold State.flip
  extract_lets -underBinder -merge adj due s1 s2 s3
  have h1 : s1.TablesOk := .raiseAdjust (.setVar h)
  have h2 : s2.TablesOk := .modStep h1
  have h3 : s3.TablesOk := .ite (.raiseDrift h2) h2
  exact .runRepeats (.sendDigests (.reduceAll h3))

theorem Res.Ok.execFlip {variant stepNo : Nat} {s : State} (h : s.TablesOk) : Res.Ok (execFlip variant stepNo s) := by
  unfold Machine.execFlip
  split
  · split
    · exact .ite (.settled (.next (.flip h))) (.settled (.next (.endRecorded (.reduceAll h))))
    · exact .next h
  · exact .next h

theorem State.TablesOk.takeFlip {s : State} (h : s.TablesOk) {variant n : Nat} : (s.takeFlip variant n).TablesOk := by
  unfold State.takeFlip
  split
  · split
    · exact h
    · extract_lets -underBinder -merge due s1 s2
      have h1 : s1.TablesOk := .modStep (.setVar h)
      have h2 : s2.TablesOk := .sendDigests h1
      exact .ite h2 (.leaveStep h2)
  · exact h

theorem State.TablesOk.completeRecord {s : State} (h : s.TablesOk) {t : TStep} {agreed : Bool} :
    (s.completeRecord t agreed).TablesOk := by
  unfold State.completeRecord
  exact .ite h (.closeRecord h)

theorem State.TablesOk.writeLog {s : State} (h : s.TablesOk) {id : Nat} : (s.writeLog id).TablesOk := by
  unfold State.writeLog
  split
  · extract_lets -underBinder -merge n
    split
    · split
      · exact .openService (.modCtx (.setVar h))
      · exact h
    · exact h
  · exact h

theorem State.TablesOk.diverge {s : State} (h : s.TablesOk) {t : TStep} {strict : Bool} : (s.diverge t strict).TablesOk := by
  unfold State.diverge
  extract_lets -underBinder -merge tensors s1 s2 s3
  have h1 : s1.TablesOk := .raiseCtx h
  split
  · have h2 : s2.TablesOk := .modCtx h1
    have h3 : s3.TablesOk := .ite (.enterState h2) h2
    exact .eachStep h3 (fun _ _ _ hs => .endStepSoon hs)
  · exact h1

theorem State.TablesOk.finishStep {s : State} (h : s.TablesOk) {variant stepNo : Nat} : (s.finishStep variant stepNo).TablesOk := by
  unfold State.finishStep
  split
  · extract_lets -underBinder -merge all digests differs strict s1 s2 s3 s4 s5 s6
    split
    · have h1 : s1.TablesOk := .completeRecord (.dropStep h)
      have h2 : s2.TablesOk := .writeLog h1
      have h3 : s3.TablesOk := .ite (.diverge h2) h2
      have h4 : s4.TablesOk := .countTenant h3
      have h5 : s5.TablesOk := .snapCtx (.stashEvents h4)
      have h6 : s6.TablesOk := .replyStep h5
      exact .replayGoesOn h6
    · exact h
  · exact h

theorem Res.Ok.execHeaderWriteComplete {variant stepNo : Nat} {s : State} (h : s.TablesOk) :
    Res.Ok (execHeaderWriteComplete variant stepNo s) := by
  unfold Machine.execHeaderWriteComplete
  split
  · split
    · exact .settled (.next (.ite (.finishStep (.modStep (.setVar h))) (.leaveStep (.ringSend (.modStep (.setVar h))))))
    · exact .next h
  · exact .next h

theorem State.TablesOk.takeDiffer {s : State} (h : s.TablesOk) {variant n src : Nat} {differ : List Nat} :
    (s.takeDiffer variant n src differ).TablesOk :=
  .finishStep (.modStep h)

theorem State.TablesOk.takeDigests {s : State} (h : s.TablesOk) {variant n src : Nat} {l : List (Nat × Bytes)} :
    (s.takeDigests variant n src l).TablesOk := by
  unfold State.takeDigests
  split
  · extract_lets -underBinder -merge differ s1
    have h1 : s1.TablesOk := .ite h (.ringSend (.setVar h))
    split
    · exact .takeDiffer h1
    · split
      · exact .ringSend h1
      · exact h1
  · exact h

theorem State.TablesOk.takeFetch {s : State} (h : s.TablesOk) {variant src : Nat} {l : List Nat} :
    (s.takeFetch variant src l).TablesOk := by
  unfold State.takeFetch
  split
  · exact .ringSend h
  · exact h

theorem State.TablesOk.takeFetched {s : State} (h : s.TablesOk) {variant : Nat} {l : List (Nat × WorkCopy)} :
    (s.takeFetched variant l).TablesOk :=
  .modVar h

/-! ## Legs -/

theorem State.TablesOk.continuePass {s : State} (h : s.TablesOk) {ctx : Nat} : (s.continuePass ctx).TablesOk := by
  unfold State.continuePass
  split
  · split
    · split
      · exact h
      · split
        · exact .eachDo (fun _ _ hs => .sendTravel hs) (.setCtx (.rest h))
        · exact h
    · exact h
  · exact h

theorem Res.Ok.execLayerContinue {ctx row : Nat} {s : State} (h : s.TablesOk) : Res.Ok (execLayerContinue ctx row s) := by
  unfold Machine.execLayerContinue
  split
  · exact .continueRow h
  · exact .settled (.next (.continuePass h))

theorem State.TablesOk.openTravel {s : State} (h : s.TablesOk) {ctx : Nat} : (s.openTravel ctx).TablesOk := .modCtx h

theorem State.TablesOk.closeTravel {s : State} (h : s.TablesOk) {ctx : Nat} : (s.closeTravel ctx).TablesOk := .modCtx h

/-! ## Units -/

theorem State.TablesOk.enterTile {s : State} (h : s.TablesOk) {n ctx : Nat} : (s.enterTile n ctx).TablesOk := by
  unfold State.enterTile
  extract_lets -underBinder -merge code
  exact .modTile h

theorem State.TablesOk.leaveTile {s : State} (h : s.TablesOk) {n : Nat} : (s.leaveTile n).TablesOk := .modTile h

theorem State.TablesOk.clearFaults {s : State} (h : s.TablesOk) {started : Option Nat} {ctx : Nat} :
    (s.clearFaults started ctx).TablesOk := by
  unfold State.clearFaults
  split
  · split
    · exact .eachDo (fun _ _ hs => .modTile hs) h
    · exact h
  · exact h

theorem State.TablesOk.startMicro {s : State} (h : s.TablesOk) {v n i : Nat} : (s.startMicro v n i).TablesOk := by
  unfold State.startMicro
  split
  · extract_lets -underBinder -merge s1 g
    have h1 : s1.TablesOk := .ite (.clearFaults (.openStep h)) h
    exact .modStep h1
  · exact h

theorem State.TablesOk.startEval {s : State} (h : s.TablesOk) {id i : Nat} : (s.startEval id i).TablesOk := by
  unfold State.startEval
  split
  · split
    · extract_lets -underBinder -merge e
      exact .withEvals h (Tab.wf_put h.evals _ _)
    · exact h
  · exact h

theorem State.TablesOk.startProgram {s : State} (h : s.TablesOk) {ctx : Nat} : (s.startProgram ctx).TablesOk := by
  unfold State.startProgram
  extract_lets -underBinder -merge fresh
  exact .modCtx (.whenDo (fun _ hs => .clearFaults hs) h)

theorem State.TablesOk.beginWork {s : State} (h : s.TablesOk) {ctx : Nat} {w : Work} : (s.beginWork ctx w).TablesOk := by
  unfold State.beginWork
  split
  · exact .openTravel (.startMicro h)
  · exact .openTravel (.startEval h)
  · exact h
  · exact .startProgram h
  · exact h
  · exact h

theorem Res.Ok.execUnitStart {ctx : Nat} {s : State} (h : s.TablesOk) : Res.Ok (execUnitStart ctx s) := by
  unfold Machine.execUnitStart
  split
  · split
    · extract_lets -underBinder -merge tiles s1 s2 s3
      split
      · exact .next h
      · have h1 : s1.TablesOk := .modCtx h
        have h2 : s2.TablesOk := .eachDo (fun _ _ hs => .enterTile hs) h1
        have h3 : s3.TablesOk := by
          unfold s3
          split
          · exact .openFeeds h2
          · exact h2
        exact .started (.next (.beginWork h3))
    · exact .next h
  · exact .next h

theorem State.TablesOk.drainMicro {s : State} (h : s.TablesOk) {t : TStep} {held : List StashEntry} {i : Nat} :
    (s.drainMicro t held i).TablesOk := by
  unfold State.drainMicro
  split
  · exact .modStep (.countF8 (.eachDo (fun _ _ hs => .ringSend hs) (.setVar h)))
  · exact h

theorem State.TablesOk.leaveBlocks {s : State} (h : s.TablesOk) {tiles : List Nat} : (s.leaveBlocks tiles).TablesOk :=
  .eachDo (fun _ _ hs => .modTile (.freeNat hs)) h

theorem State.TablesOk.endExhausted {s : State} (h : s.TablesOk) {t : TStep} : (s.endExhausted t).TablesOk := by
  unfold State.endExhausted
  split
  · exact .endRecorded (.reduceAll h)
  · exact h

theorem State.TablesOk.endMicro {s : State} (h : s.TablesOk) {v n i : Nat} {held : List StashEntry} :
    (s.endMicro v n i held).TablesOk := by
  unfold State.endMicro
  split
  · split
    · exact .ite (.endExhausted h) (.abandonStep h)
    · exact .drainMicro h
  · exact h

theorem State.TablesOk.finishEval {s : State} (h : s.TablesOk) {id : Nat} : (s.finishEval id).TablesOk := by
  unfold State.finishEval
  split
  · split
    · exact .endEval h
    · exact .unpin (.withEvals (.interim h) (Tab.wf_put (State.TablesOk.interim h).evals _ _))
  · exact h

theorem State.TablesOk.endEvalMicro {s : State} (h : s.TablesOk) {id i : Nat} : (s.endEvalMicro id i).TablesOk := by
  unfold State.endEvalMicro
  split
  · split
    · exact .endEval h
    · extract_lets -underBinder -merge r e s1
      have h1 : s1.TablesOk := .countF8 (.withEvals h (Tab.wf_put h.evals _ _))
      exact .ite (.finishEval h1) h1
  · exact h

theorem State.TablesOk.endUpdate {s : State} (h : s.TablesOk) {v n : Nat} : (s.endUpdate v n).TablesOk := by
  unfold State.endUpdate
  split
  · split
    · exact .ite h (.abandonStep h)
    · exact h
  · exact h

theorem State.TablesOk.endStretch {s : State} (h : s.TablesOk) {ctx : Nat} : (s.endStretch ctx).TablesOk := by
  unfold State.endStretch
  split
  · exact .endProgram h
  · split
    · split
      · exact .ite (.endProgram h) h
      · exact h
    · exact h

theorem State.TablesOk.endWork {s : State} (h : s.TablesOk) {ctx : Nat} {w : Work} {tiles : List Nat} {held : List StashEntry} :
    (s.endWork ctx w tiles held).TablesOk := by
  unfold State.endWork
  split
  · exact .closeTravel (.endMicro (.leaveBlocks h))
  · exact .closeTravel (.endEvalMicro h)
  · exact .endUpdate h
  · exact .endStretch h
  · exact h
  · exact h

theorem State.TablesOk.charge {s : State} (h : s.TablesOk) {ctx n g : Nat} : (s.charge ctx n g).TablesOk := .countTenant (.modCtx h)

theorem Res.Ok.execUnitEnd {ctx cycles : Nat} {s : State} (h : s.TablesOk) : Res.Ok (execUnitEnd ctx cycles s) := by
  unfold Machine.execUnitEnd
  split
  · split
    · split
      · exact .next h
      · exact .settled (.next (.endWork (.eachDo (fun _ _ hs => .leaveTile hs) (.modCtx (.endFeeds (.charge h))))))
    · exact .next h
  · exact .next h

theorem State.TablesOk.exhaust {s : State} (h : s.TablesOk) {ctx : Nat} {t : TStep} : (s.exhaust ctx t).TablesOk :=
  .modStep (.rest (.modCtx h))

theorem State.TablesOk.recompute {s : State} (h : s.TablesOk) {ctx : Nat} {c : Ctx} {t : TStep} {b : Nat} {z : StashSize}
    {rows : List RowSet} :
    (s.recompute ctx c t b z rows).TablesOk := by
  unfold State.recompute
  split
  · exact .exhaust h
  · exact .modStep (.setCtx h)

theorem State.TablesOk.exhausted {s : State} (h : s.TablesOk) {ctx : Nat} {c : Ctx} {t : TStep} {b : Nat} {z : StashSize}
    {rows : List RowSet} : (s.exhausted ctx c t b z rows).TablesOk :=
  .ite (.exhaust h) (.recompute h)

theorem Res.Ok.execLayerForwardEnd {ctx : Nat} {set : StashSize} {s : State} (h : s.TablesOk) :
    Res.Ok (execLayerForwardEnd ctx set s) := by
  unfold Machine.execLayerForwardEnd
  split
  · split
    · exact .next h
    · extract_lets -underBinder -merge rows room r used s1 c place
      split
      · exact .next (.exhausted h)
      · have h1 : s1.TablesOk := .modStep h
        split
        · exact .next (.setCtx h1)
        · exact .next (.exhausted h1)
  · exact .next h

theorem Res.Ok.execSpillWriteComplete {ctx microBatch layer : Nat} {s : State} (h : s.TablesOk) :
    Res.Ok (execSpillWriteComplete ctx microBatch layer s) := by
  unfold Machine.execSpillWriteComplete
  split
  · exact .next (.setCtx h)
  · exact .next h

theorem Res.Ok.execStashBringBack {ctx : Nat} {s : State} (h : s.TablesOk) : Res.Ok (execStashBringBack ctx s) := by
  unfold Machine.execStashBringBack
  split
  · split
    · exact .next h
    · extract_lets -underBinder -merge e
      split
      · exact .next h
      · split
        · exact .next h
        · exact .next (.modStep (.setCtx h))
  · exact .next h

theorem Res.Ok.execTileNapEntry {tile : Nat} {s : State} (h : s.TablesOk) : Res.Ok (execTileNapEntry tile s) := by
  unfold Machine.execTileNapEntry
  extract_lets -underBinder -merge t
  exact .ite (.next h) (.next (.modTile h))

theorem Res.Ok.execTileWakeComplete {tile : Nat} {s : State} (h : s.TablesOk) : Res.Ok (execTileWakeComplete tile s) := by
  unfold Machine.execTileWakeComplete
  extract_lets -underBinder -merge t
  exact .ite (.next (.changeHeld (.modTile h))) (.next h)

/-! ## Messages -/

theorem State.TablesOk.takeReduce {s : State} (h : s.TablesOk) {variant src : Nat} {xx : ReduceMsg} :
    (s.takeReduce variant src xx).TablesOk := by
  unfold State.takeReduce
  split
  · exact .takeBegan h
  · exact .takeGrads h
  · exact .takeHomeFull h
  · exact .modStep h
  · exact .takeChecked h
  · exact .takeCopies h
  · exact .takeVote h
  · exact .takeFlip h
  · exact .takeAbandon h
  · exact .loseStep h
  · exact .finishStep (.modStep h)
  · exact .takeDigests h
  · exact .takeDiffer h
  · exact .takeFetch h
  · exact .takeFetched h

theorem Res.Ok.execReduce {port : Nat} {frame : Frame} {s : State} (h : s.TablesOk) : Res.Ok (execReduce port frame s) := by
  refine .arrive h (fun _ hs => ?_)
  split
  · exact .settled (.next (.takeReduce hs))
  · exact .next hs

theorem State.TablesOk.placePresence {s : State} (h : s.TablesOk) {src n inc : Nat} {uid : Bytes} {groupFirst base : Nat}
    {p : CreateParams} : (s.placePresence src n inc uid groupFirst base p).TablesOk := by
  unfold State.placePresence
  extract_lets -underBinder -merge reply
  have hreply : ∀ r s, s.TablesOk → (reply r s).TablesOk := fun _ _ hs => .ringSend hs
  split
  · exact hreply _ _ h
  · split
    · exact hreply _ _ h
    next ext _ =>
      extract_lets -underBinder -merge st
      have h1 : (s.needHbm st.hbmPages).2.TablesOk := .needHbm h
      generalize s.needHbm st.hbmPages = d at h1 ⊢
      obtain ⟨space, s1⟩ := d
      dsimp -zeta only
      extract_lets -underBinder -merge x
      split
      · exact hreply _ _ (.setCtx h1)
      · exact .waitHbm (.setCtx h1)
      · exact hreply _ _ h1

theorem State.TablesOk.dropFollowed {s : State} (h : s.TablesOk) {n : Nat} : (s.dropFollowed n).TablesOk := .rest h

theorem State.TablesOk.freePresence {s : State} (h : s.TablesOk) {n : Nat} : (s.freePresence n).TablesOk := by
  unfold State.freePresence
  split
  · exact .ite h (.freeCtx (.clearCtx (.dropFollowed h)))
  · exact h

theorem State.TablesOk.takeIncarnation {s : State} (h : s.TablesOk) {n inc seed : Nat} : (s.takeIncarnation n inc seed).TablesOk := by
  unfold State.takeIncarnation
  split
  · exact .ite h (.setCtx (.zeroCtx (.clearCtx (.dropFollowed h))))
  · exact h

theorem State.TablesOk.takeExperts {s : State} (h : s.TablesOk) {epoch : Nat} {homes : List Nat} :
    (s.takeExperts epoch homes).TablesOk :=
  .ite (.takeExpertTable h) h

theorem State.TablesOk.placePart {s : State} (h : s.TablesOk) {src ctx id : Nat} {owners : List Nat} {slots : List (Option Nat)}
    {i : VariantImage} : (s.placePart src ctx id owners slots i).TablesOk := by
  unfold State.placePart
  extract_lets -underBinder -merge reply
  have hreply : ∀ r s, s.TablesOk → (reply r s).TablesOk := fun _ _ hs => .ringSend hs
  split
  · split
    · exact h
    · exact hreply _ _ (.enterSlots (.setVar h))
  · extract_lets -underBinder -merge pages
    have h1 : (s.freeNat.2.needHbm pages).2.TablesOk := .needHbm (.freeNat h)
    generalize s.freeNat = e at h1 ⊢
    obtain ⟨page, s1⟩ := e
    dsimp -zeta only at h1 ⊢
    extract_lets -underBinder -merge blank v v'
    generalize s1.needHbm pages = d at h1 ⊢
    obtain ⟨space, s2⟩ := d
    dsimp -zeta only
    split
    · exact hreply _ _ (.enterSlots (.setVar h1))
    · exact .waitHbm h1
    · exact hreply _ _ h1

theorem State.TablesOk.partRefused {s : State} (h : s.TablesOk) {id : Nat} {refusal : Option Nat} :
    (s.partRefused id refusal).TablesOk := by
  unfold State.partRefused
  split
  · exact .ite (.failLoad h) h
  · exact h

theorem State.TablesOk.dropPart {s : State} (h : s.TablesOk) {id : Nat} : (s.dropPart id).TablesOk := by
  unfold State.dropPart
  extract_lets -underBinder -merge s1
  have h1 : s1.TablesOk := .rest h
  split
  · exact .ite h1 (.becomeFree (.rest h1))
  · exact h1

theorem State.TablesOk.dropSlot {s : State} (h : s.TablesOk) {id slot : Nat} : (s.dropSlot id slot).TablesOk := by
  unfold State.dropSlot
  extract_lets -underBinder -merge s1
  have h1 : s1.TablesOk := .ite (.clearSlot h) h
  exact .modVar h1

theorem State.TablesOk.takeCtxState {s : State} (h : s.TablesOk) {src n code : Nat} : (s.takeCtxState src n code).TablesOk := by
  unfold State.takeCtxState
  split
  · exact .ite h (.setCtx h)
  · exact .ringSend h
  · exact h

theorem State.TablesOk.takeAnnounce {s : State} (h : s.TablesOk) {src ctx : Nat} {xx : AnnounceMsg} :
    (s.takeAnnounce src ctx xx).TablesOk := by
  unfold State.takeAnnounce
  split
  · exact .takeIncarnation h
  · exact .freePresence h
  · exact .placePresence h
  · exact h
  · exact .takeExperts h
  · exact .placePart h
  · exact .partRefused h
  · exact .dropPart h
  · exact .dropSlot h
  · exact .takeCtxState h
  · exact .modCtx h
  · exact .rest h

theorem Res.Ok.execAnnounce {port : Nat} {frame : Frame} {s : State} (h : s.TablesOk) : Res.Ok (execAnnounce port frame s) := by
  refine .arrive h (fun _ hs => ?_)
  split
  · exact .settled (.next (.takeAnnounce hs))
  · exact .next hs

/-! ## Members -/

theorem State.TablesOk.neighbourDeparts {s : State} (h : s.TablesOk) {old : RollEntry} : (s.neighbourDeparts old).TablesOk := by
  refine .eachDo (fun _ _ hs => ?_) h
  split
  · exact .ite (.neighbourLeft hs) hs
  · exact hs

theorem State.TablesOk.detachAt {s : State} (h : s.TablesOk) {p : Nat} : (s.detachAt p).TablesOk := .withVars h (Tab.wf_each h.vars _)

theorem State.TablesOk.memberDeparts {s : State} (h : s.TablesOk) {p : Nat} {old : RollEntry} : (s.memberDeparts p old).TablesOk := by
  unfold State.memberDeparts
  extract_lets -underBinder -merge s1 homed s2 owned s3 s4 s5
  have h1 : s1.TablesOk := .neighbourDeparts h
  have h2 : s2.TablesOk := .eachDo (fun _ _ hs => .freePresence hs) h1
  have h3 : s3.TablesOk := .eachDo (fun _ _ hs => .loseVariant hs) h2
  have h4 : s4.TablesOk := .detachAt h3
  have h5 : s5.TablesOk := .eachDo (fun _ _ hs => .ite (.endRingStreams hs) hs) h4
  exact .modRing h5

theorem State.TablesOk.restartPairs {s : State} (h : s.TablesOk) {p : Nat} : (s.restartPairs p).TablesOk := .modRing h

theorem State.TablesOk.loseExpert {s : State} (h : s.TablesOk) {e : Nat} : (s.loseExpert e).TablesOk :=
  .raiseDegraded (.eachStep (.eachDo (fun _ _ hs => .eachDo (fun _ _ ht => .sendExpert ht) hs) (.modRing h))
      (fun _ _ _ hs => .endStepSoon hs))

theorem State.TablesOk.replaceExperts {s : State} (h : s.TablesOk) {r : RollCall} {gone : List Nat} :
    (s.replaceExperts r gone).TablesOk := by
  unfold State.replaceExperts
  extract_lets -underBinder -merge s1 size l s2 s3
  have h1 : s1.TablesOk := .modRing h
  have h2 : s2.TablesOk := .modRing h1
  have h3 : s3.TablesOk := by
    unfold s3
    split
    · exact .eachDo (fun _ _ hs => .emit hs) h2
    · exact h2
  exact .eachDo (fun _ _ hs => .loseExpert hs) h3

theorem State.TablesOk.loseStashed {s : State} (h : s.TablesOk) {had : Bool} : (s.loseStashed had).TablesOk := by
  unfold State.loseStashed
  exact .ite (.rerunSteps (.eachDo (fun _ _ hs => .rerunUnit hs) h)) h

theorem State.TablesOk.becomeMember {s : State} (h : s.TablesOk) : s.becomeMember.TablesOk := by
  unfold State.becomeMember
  extract_lets -underBinder -merge t s1 s2
  have h2 : s2.TablesOk := .raiseFor (.modRing h)
  clear_value t
  split
  · exact .answerWith h2
  · exact h2

theorem State.TablesOk.takeTable {s : State} (h : s.TablesOk) {r : RollCall} : (s.takeTable r).TablesOk := by
  unfold State.takeTable
  extract_lets -underBinder -merge old departed crossed s1 s2 s3 s4 had leaving s5
  have h1 : s1.TablesOk := .modRing h
  have h2 : s2.TablesOk := .eachDo (fun _ _ hs => .memberDeparts hs) h1
  have h3 : s3.TablesOk := .eachDo (fun _ _ hs => .endAnswers hs) h2
  have h4 : s4.TablesOk := .eachDo (fun _ _ hs => .restartPairs hs) h3
  have h5 : s5.TablesOk := .loseStashed (.replaceExperts h4)
  split
  · exact .ite (.becomeMember h5) h5
  · exact h5

theorem State.TablesOk.publish {s : State} (h : s.TablesOk) {r : RollCall} : (s.publish r).TablesOk := .ringBroadcast (.takeTable h)

theorem State.TablesOk.issueRoll {s : State} (h : s.TablesOk) : s.issueRoll.TablesOk := by
  unfold State.issueRoll
  extract_lets -underBinder -merge r s1
  have h1 : s1.TablesOk := .modRing h
  exact .ite (.publish h1) (.enqueue (.nextE2e h1))

theorem Res.Ok.execRollCallTimer {s : State} (h : s.TablesOk) : Res.Ok (execRollCallTimer s) :=
  .settled (.next (.ite (.issueRoll h) h))

theorem Res.Ok.execCollectPassTimeout {s : State} (h : s.TablesOk) : Res.Ok (execCollectPassTimeout s) :=
  .settled (.next (.ite (.issueRoll h) h))

theorem Res.Ok.execAnchorLost {s : State} (h : s.TablesOk) : Res.Ok (execAnchorLost s) := by
  unfold Machine.execAnchorLost
  split
  · exact .next (.ite h (.modRing h))
  · exact .next h

theorem Res.Ok.execNoRingTimeout {s : State} (h : s.TablesOk) : Res.Ok (execNoRingTimeout s) := .ite (.next (.modRing h)) (.next h)

theorem State.TablesOk.openBypass {s : State} (h : s.TablesOk) {p : Nat} : (s.openBypass p).TablesOk := .modBoard (.modRing h)

theorem Res.Ok.execAnchorBackoffExpiry {s : State} (h : s.TablesOk) : Res.Ok (execAnchorBackoffExpiry s) := by
  unfold Machine.execAnchorBackoffExpiry
  split
  · exact .next h
  · split
    · exact .settled (.next (.issueRoll (.modRing h)))
    · exact .next (.openBypass h)
    · exact .next h

theorem State.TablesOk.passOn {s : State} (h : s.TablesOk) {p : Nat} {f : Frame} : (s.passOn p f).TablesOk := .enqueue h

theorem State.TablesOk.writeEntry {s : State} (h : s.TablesOk) {p : Nat} {f : Frame} {r : RollCall} : (s.writeEntry p f r).TablesOk :=
  .passOn (.modRing h)

theorem State.TablesOk.yieldAnchor {s : State} (h : s.TablesOk) {r : RollCall} : (s.yieldAnchor r).TablesOk := .modRing h

theorem State.TablesOk.passReturns {s : State} (h : s.TablesOk) {p : Nat} {f : Frame} {r : RollCall} : (s.passReturns p f r).TablesOk
    :=
  .ite h (.ite (.enqueue h) (.publish h))

theorem State.TablesOk.refuseYield {s : State} (h : s.TablesOk) : s.refuseYield.TablesOk := .modBoard (.modRing (.countError h))

theorem State.TablesOk.takeCollect {s : State} (h : s.TablesOk) {p : Nat} {f : Frame} {r : RollCall} :
    (s.takeCollect p f r).TablesOk := by
  unfold State.takeCollect
  extract_lets -underBinder -merge other
  split
  · split
    · exact .passReturns h
    · split
      · exact .ite (.refuseYield h) (.writeEntry (.yieldAnchor h))
      · exact h
  · exact .writeEntry h

theorem Res.Ok.execRollCallCollect {port : Nat} {frame : Frame} {s : State} (h : s.TablesOk) :
    Res.Ok (execRollCallCollect port frame s) := by
  unfold Machine.execRollCallCollect
  split
  · split
    · exact .next h
    · extract_lets -underBinder -merge s1
      have h1 : s1.TablesOk := .tap h
      have h2 : (s1.accept port frame).2.TablesOk := .accept h1
      generalize s1.accept port frame = d at h2 ⊢
      obtain ⟨ok, s2⟩ := d
      dsimp -zeta only
      split
      · exact .next h2
      · extract_lets -underBinder -merge s3
        have h3 : s3.TablesOk := .ite (.freeLocal h2) (.freePassing h2)
        exact .settled (.next (.ite (.takeCollect h3) h3))
  · exact .next h

theorem State.TablesOk.refuseJoin {s : State} (h : s.TablesOk) {cause : Nat} : (s.refuseJoin cause).TablesOk :=
  .failJoin (.countError h)

theorem State.TablesOk.beginJoinLoad {s : State} (h : s.TablesOk) {r : RollCall} : (s.beginJoinLoad r).TablesOk := .ite (.rest h) h

theorem State.TablesOk.tryAdmit {s : State} (h : s.TablesOk) : s.tryAdmit.TablesOk := by
  unfold State.tryAdmit
  split
  · split
    · exact .refuseJoin h
    · extract_lets -underBinder -merge quiet
      exact .beginJoinLoad (.modRing h)
  · exact h

theorem State.TablesOk.hearRoll {s : State} (h : s.TablesOk) {p : Nat} {f : Frame} {r : RollCall} : (s.hearRoll p f r).TablesOk :=
  .tryAdmit (.modRing (.tap h))

theorem Res.Ok.execRollCallPublish {port : Nat} {frame : Frame} {s : State} (h : s.TablesOk) :
    Res.Ok (execRollCallPublish port frame s) := by
  unfold Machine.execRollCallPublish
  split
  · split
    · exact .next h
    · split
      · exact .settled (.next (.ite (.hearRoll h) h))
      · exact .arrive h (fun _ hs => .ite (.next hs) (.started (.next (.takeTable hs))))
  · exact .next h

theorem Res.Ok.execJoinQuietPasses {s : State} (h : s.TablesOk) : Res.Ok (execJoinQuietPasses s) := by
  unfold Machine.execJoinQuietPasses
  split
  · split
    · split
      · exact .next (.refuseJoin h)
      · exact .next (.openBypass h)
    · exact .next h
  · exact .next h

theorem State.TablesOk.foundRing {s : State} (h : s.TablesOk) : s.foundRing.TablesOk := .becomeMember (.modRing (.modRing h))

theorem State.TablesOk.bypassOpened {s : State} (h : s.TablesOk) : s.bypassOpened.TablesOk := by
  unfold State.bypassOpened
  extract_lets -underBinder -merge s1
  have h1 : s1.TablesOk := .modBoard h
  split
  · split
    · exact .foundRing h1
    · exact .modRing h1
  · exact h1

theorem State.TablesOk.outOfRing {s : State} (h : s.TablesOk) : s.outOfRing.TablesOk := .withLinks h (Tab.wf_each h.links _)

theorem State.TablesOk.bypassClosed {s : State} (h : s.TablesOk) : s.bypassClosed.TablesOk := by
  unfold State.bypassClosed
  extract_lets -underBinder -merge s1
  have h1 : s1.TablesOk := .modBoard h
  split
  · extract_lets -underBinder -merge t e s2 s3
    have h3 : s3.TablesOk := .raiseFor (.modRing (.outOfRing h1))
    clear_value t
    split
    · exact .answerWith h3
    · exact h3
  · exact h1
  · exact h1
  · exact .outOfRing h1

theorem Res.Ok.execBypassSettled {s : State} (h : s.TablesOk) : Res.Ok (execBypassSettled s) := by
  unfold Machine.execBypassSettled
  split
  · exact .settled (.next (.bypassOpened h))
  · exact .settled (.next (.bypassClosed h))
  · exact .next h

theorem Res.Ok.execLeaveDrained {s : State} (h : s.TablesOk) : Res.Ok (execLeaveDrained s) := by
  unfold Machine.execLeaveDrained
  extract_lets -underBinder -merge listed
  exact .ite (.next (.modBoard (.modRing h))) (.next h)

theorem State.TablesOk.beginJoin {s : State} (h : s.TablesOk) {t : Option Ticket} {image : Option Region} :
    (s.beginJoin t image).TablesOk :=
  .modRing (.eachDo (fun _ _ hs => .modLink hs) h)

theorem Res.Ok.execRingJoin {c : Cmd} {baseImage : Option Region} {s : State} (h : s.TablesOk) : Res.Ok (execRingJoin c baseImage s) :=
  (.gaffer (fun _ _ hs => .ite (.next (.answer hs)) (.ite (.next (.answerWith hs)) (by
  split
  · exact .next (.answerWith hs)
  · exact .next (.ite (.beginJoin hs) (.answer hs))
  · exact .ite (.next (.answer hs)) (.settled (.next (.tryAdmit (.modRing hs))))
  · exact .ite (.next (.answer hs)) (.settled (.next (.tryAdmit (.modRing hs))))
  · exact (.next (.answer hs))))) h)

theorem Res.Ok.execRingLeave {c : Cmd} {s : State} (h : s.TablesOk) : Res.Ok (execRingLeave c s) :=
  .gaffer (fun _ _ hs => .ite (.next (.modRing hs)) (.next (.answer hs))) h

/-! ## Base -/

theorem State.TablesOk.beginBaseLoad {s : State} (h : s.TablesOk) {t : Ticket} {image : Region} {digest : Bytes}
    {placement : Option (List Nat)} {range : Option (Nat × Nat)} :
    (s.beginBaseLoad t image digest placement range).TablesOk := by
  unfold State.beginBaseLoad
  extract_lets -underBinder -merge first x base s1 s2
  have h1 : s1.TablesOk := .rest h
  have h2 : s2.TablesOk := .ite (.ringBroadcast h1) h1
  exact .emit h2

theorem Res.Ok.execBaseLoad {c : Cmd} {image : Region} {digest : Bytes} {placement : Option (List Nat)} {range : Option (Nat × Nat)}
    {s : State} (h : s.TablesOk) : Res.Ok (execBaseLoad c image digest placement range s) :=
  (.gaffer (fun _ _ hs => .ite (.next (.answer hs)) (by
  split
  · exact .ite (.next (.beginBaseLoad hs)) (.next (.answer hs))
  · split
    · exact .next (.answer hs)
    · split
      · exact .ite (.next (.beginBaseLoad hs)) (.next (.answer hs))
      · exact (.next (.rest hs)))) h)

theorem State.TablesOk.failBaseLoad {s : State} (h : s.TablesOk) {status : Nat} : (s.failBaseLoad status).TablesOk := by
  unfold State.failBaseLoad
  extract_lets -underBinder -merge ts join x s1 s2
  have h1 : s1.TablesOk := .rest h
  have h2 : s2.TablesOk := .answerAll h1
  exact .ite (.refuseJoin h2) h2

theorem State.TablesOk.placeBase {s : State} (h : s.TablesOk) {b : BaseShape} {pages : Nat} {extent : Option (Nat × Nat)} :
    (s.placeBase b pages extent).TablesOk := by
  unfold State.placeBase
  extract_lets -underBinder -merge ts table mem1 mem2 old base r s1
  have hmem1 : Memory.wf mem1 := by
    unfold mem1
    split
    · exact Memory.wf_zeroRange h.mem _ _
    · exact h.mem
  have hmem2 : Memory.wf mem2 := by
    unfold mem2
    split
    · exact Memory.wf_writeBytes hmem1 _ _
    · exact hmem1
  have h1 : s1.TablesOk := .withMem h hmem2
  exact .eachDo (fun _ _ hs => .answerWith hs) h1

theorem Res.Ok.execBaseLoadComplete {result : ReadResult BaseShape} {s : State} (h : s.TablesOk) :
    Res.Ok (execBaseLoadComplete result s) := by
  unfold Machine.execBaseLoadComplete
  split
  · exact .next h
  · split
    · exact .next h
    · split
      · split
        · exact .settled (.next (.failBaseLoad h))
        · split
          · exact .settled (.next (.failBaseLoad h))
          · exact .settled (.next (.placeBase h))
      · exact .settled (.next (.failBaseLoad h))
      · exact .settled (.next (.failBaseLoad h))

/-! ## Fabric -/

theorem State.TablesOk.sendXoff {s : State} (h : s.TablesOk) {p k : Nat} : (s.sendXoff p k).TablesOk := .ite (.emit (.modPort h)) h

theorem State.TablesOk.bufferFrame {s : State} (h : s.TablesOk) {p : Nat} {f : RoceFrame} : (s.bufferFrame p f).TablesOk := by
  unfold State.bufferFrame
  split
  · exact .ite (.sendXoff (.modPort h)) h
  · exact h

theorem State.TablesOk.answerCe {s : State} (h : s.TablesOk) {f : RoceFrame} : (s.answerCe f).TablesOk := by
  unfold State.answerCe
  split
  · exact .ite (.emit h) h
  · exact h

theorem Res.Ok.execRocePacketReceive {port : Nat} {frame : RoceFrame} {s : State} (h : s.TablesOk) :
    Res.Ok (execRocePacketReceive port frame s) := by
  unfold Machine.execRocePacketReceive
  split
  · exact .next h
  · exact .ite (.next (.countError h)) (.next (.wakeTrigger (.answerCe (.bufferFrame h))))

theorem State.TablesOk.modLive {s : State} (h : s.TablesOk) {qp : Nat} {f : Qp → Qp} : (s.modLive qp f).TablesOk := .modQp h

theorem Res.Ok.execCnpReceive {qp : Nat} {s : State} (h : s.TablesOk) : Res.Ok (execCnpReceive qp s) := .next (.modLive h)

theorem Res.Ok.execCnpRateTimer {qp : Nat} {s : State} (h : s.TablesOk) : Res.Ok (execCnpRateTimer qp s) := .next (.modLive h)

theorem State.TablesOk.flushPort_flush {s : State} (h : s.TablesOk) {n : Nat} {l : List Egress} :
    (State.flushPort.flush n l s).TablesOk := by
  induction l generalizing s with
  | nil => exact .modSession h
  | cons g l ih =>
    cases g with
    | reply p => exact ih (.emit h)
    | event e => exact .modSession h

theorem State.TablesOk.flushPort {s : State} (h : s.TablesOk) {p : Nat} : (s.flushPort p).TablesOk := by
  refine .eachDo (fun _ _ hs => ?_) h
  split
  · exact .ite (.flushPort_flush hs) hs
  · exact hs

theorem Res.Ok.execPfcFrameReceive {port priority : Nat} {pause : Bool} {pausedCycles : Nat} {s : State} (h : s.TablesOk) :
    Res.Ok (execPfcFrameReceive port priority pause pausedCycles s) := by
  unfold Machine.execPfcFrameReceive
  split
  · exact .next h
  · extract_lets -underBinder -merge was s1 s2
    have h1 : s1.TablesOk := .ite (.countPerf h) h
    have h2 : s2.TablesOk := .modPort h1
    exact .thenReset (.settled (.next (.ite (.flushPort h2) h2)))

theorem Res.Ok.execCmConnect {port qp : Nat} {s : State} (h : s.TablesOk) : Res.Ok (execCmConnect port qp s) := by
  unfold Machine.execCmConnect
  extract_lets -underBinder -merge live taken
  exact .ite (.next h) (.next (.wakeTrigger (.emit (.withQps h (Tab.wf_put h.qps _ _)))))

theorem State.TablesOk.qpError {s : State} (h : s.TablesOk) {qp : Nat} : (s.qpError qp).TablesOk := by
  unfold State.qpError
  split
  · extract_lets -underBinder -merge s1
    have h1 : s1.TablesOk := by
      unfold s1
      split
      · exact .closeSession h
      · exact h
    exact .modQp (.drainQp h1)
  · exact h

theorem Res.Ok.execTransportError {qp : Nat} {s : State} (h : s.TablesOk) : Res.Ok (execTransportError qp s) :=
  .thenReset (.settled (.next (.qpError h)))

theorem State.TablesOk.fabricDown {s : State} (h : s.TablesOk) {p : Nat} : (s.fabricDown p).TablesOk :=
  .modPort (.eachDo (fun _ _ hs => .qpError hs) h)

theorem Res.Ok.execFabricPortDown {port : Nat} {s : State} (h : s.TablesOk) : Res.Ok (execFabricPortDown port s) :=
  .ite (.thenReset (.settled (.next (.fabricDown h)))) (.next h)

theorem Res.Ok.execFabricPortLinkUp {port : Nat} {s : State} (h : s.TablesOk) : Res.Ok (execFabricPortLinkUp port s) :=
  .ite (.next (.sendLldp (.modPort h))) (.next h)

theorem State.TablesOk.nakAccess {s : State} (h : s.TablesOk) {qp : Nat} : (s.nakAccess qp).TablesOk := .qpError (.emit h)

theorem State.TablesOk.wakeRange {s : State} (h : s.TablesOk) {a n : Nat} : (s.wakeRange a n).TablesOk :=
  .ite (.eachDo (fun _ _ hs => .ite (.modTile hs) hs) h) h

theorem State.TablesOk.serveAccess {s : State} (h : s.TablesOk) {qp a : Nat} {xx : RdmaOp} : (s.serveAccess qp a xx).TablesOk := by
  unfold State.serveAccess
  split
  · exact .emit (.wakeRange h)
  · exact .withMem (.wakeRange h) (Memory.wf_writeBytes h.mem _ _)

theorem State.TablesOk.accessLine {s : State} (h : s.TablesOk) {ctx a : Nat} {line : HbmOutcome} :
    (s.accessLine ctx a line).TablesOk := by
  unfold State.accessLine
  split
  · exact .bankLine h
  · split
    · exact h
    · exact .hbmLine h

theorem Res.Ok.doAccess {s : State} (h : s.TablesOk) {qp ctx a : Nat} {op : RdmaOp} {line : HbmOutcome} :
    Res.Ok (s.doAccess qp ctx a op line) := by
  unfold State.doAccess
  split
  · exact .settled (.next (.accessLine h))
  · exact .next (.serveAccess (.accessLine h))
  · exact .ite .fault (.next (.serveAccess h))

theorem Res.Ok.execInboundRdmaAccess {qp rkey address : Nat} {op : RdmaOp} {s : State} (h : s.TablesOk) {line : HbmOutcome} :
    Res.Ok (execInboundRdmaAccess qp rkey address op s line) := by
  unfold Machine.execInboundRdmaAccess
  split
  · exact .next h
  · split
    · exact .next h
    · split
      · exact .next (.countError (.drainQp h))
      · extract_lets -underBinder -merge n s1
        have h1 : s1.TablesOk := .wakeTrigger (.drainQp h)
        split
        · split
          · exact .ite (.next (.emit h1)) (.settled (.next (.nakAccess h1)))
          · exact .settled (.next (.nakAccess h1))
        · split
          · split
            · exact .ite (.doAccess h1) (.settled (.next (.nakAccess h1)))
            · exact .settled (.next (.nakAccess h1))
          · exact .settled (.next (.nakAccess h1))

/-! ## Sessions -/

theorem State.TablesOk.greet {s : State} (h : s.TablesOk) {c : Cmd} {q : Qp} {offers : List (Nat × Nat)} :
    (s.greet c q offers).TablesOk := by
  unfold State.greet
  split
  · exact .replyBare h
  · split
    · exact .replyBare h
    · exact .replyBare (.modQp h)

theorem Res.Ok.execHello {c : Cmd} {offers : List (Nat × Nat)} {s : State} (h : s.TablesOk) : Res.Ok (execHello c offers s) := by
  unfold Machine.execHello
  split
  · exact .next h
  · split
    · exact .gaffer (fun _ _ hs => .ite .fault (.ite (.next (.answer hs)) (.next (.answerWith hs)))) h
    · split
      · exact .fault
      · exact .ite (.next (.replyBare h)) (.next (.greet h))

theorem State.TablesOk.openOn {s : State} (h : s.TablesOk) {c : Cmd} {role : Nat} {key : Bytes} : (s.openOn c role key).TablesOk := by
  unfold State.openOn
  split
  · exact .replyBare (.countError h)
  · split
    · exact .replyBare h
    · have h1 : s.fresh.2.TablesOk := .fresh h
      generalize s.fresh = d at h1 ⊢
      obtain ⟨serial, s1⟩ := d
      dsimp -zeta only
      extract_lets -underBinder -merge ss s2 s3 first
      have h2 : s2.TablesOk := .modQp h1
      have h3 : s3.TablesOk := .replyBare h2
      exact .withSessions h3 (Tab.wf_put h3.sessions _ _)

theorem Res.Ok.execOpenSession {c : Cmd} {role : Nat} {key : Bytes} {s : State} (h : s.TablesOk) :
    Res.Ok (execOpenSession c role key s) := by
  unfold Machine.execOpenSession
  split
  · exact .next h
  · split
    · split
      · exact .ite .fault (.next (.refuse h))
      · exact .next (.replyBare h)
    · exact .ite (.next (.replyBare h)) (.next (.openOn h))
    · exact .next (.replyBare h)

theorem Res.Ok.takeCloseSession {c : Cmd} {s : State} (h : s.TablesOk) : Res.Ok (takeCloseSession c s) :=
  .gaffer (fun _ _ hs => .settled (.next (.closeSession (.answer hs)))) h

theorem Res.Ok.execCloseSession {c : Cmd} {s : State} (h : s.TablesOk) : Res.Ok (execCloseSession c s) :=
  .thenReset (.takeCloseSession h)

theorem Res.Ok.execKeyAdd {c : Cmd} {role : Nat} {salt digest : Bytes} {s : State} (h : s.TablesOk) : Res.Ok
    (execKeyAdd c role salt digest s) :=
  (.gafferWith (fun _ _ _ hs => .ite (.next (.answer hs)) (.ite (by
  split
  · exact .next (.answer hs)
  · exact (.next (.answerWith (.modFlash hs)))) (by
  split
  · exact .next (.answer hs)
  · split
    · exact .next (.answer hs)
    · exact (.next (.answerWith (.setCtx hs)))))) h)

theorem Res.Ok.execKeyRemove {c : Cmd} {role slot : Nat} {s : State} (h : s.TablesOk) : Res.Ok (execKeyRemove c role slot s) :=
  .gafferWith (fun _ _ _ hs => .ite (.next (.answer hs)) (.ite (.ite (.next (.answer hs)) (.next (.answer (.modFlash hs))))
      (.next (.answer (.modCtx hs))))) h

theorem Res.Ok.execEventPacketSend {session : Nat} {s : State} (h : s.TablesOk) : Res.Ok (execEventPacketSend session s) := by
  unfold Machine.execEventPacketSend
  split
  · split
    · exact .next h
    · split
      · exact .thenReset (.settled (.next (.flushReplies (.modSession (.emit h)))))
      · exact .next h
  · exact .next h

/-! ## Device -/

theorem Res.Ok.execQuery {c : Cmd} {target : Nat} {s : State} (h : s.TablesOk) : Res.Ok (execQuery c target s) :=
  .gafferWith (fun _ _ _ hs => .ite (.next (.answerWith (.rest hs))) (.next (.answer hs))) h

theorem State.TablesOk.clearErrors {s : State} (h : s.TablesOk) {scope : Nat} : (s.clearErrors scope).TablesOk := by
  unfold State.clearErrors
  split
  · dsimp only [State.TablesOk]
    exact ⟨h.mem, h.qps, h.sessions, Tab.wf_each h.counters _, h.ctxs, h.createCounts, h.vars, h.evals, h.requests, h.tiles, h.phys,
      h.spares, h.streams, Tab.wf_each h.stalls _, h.ports, h.links⟩
  · exact h

theorem Res.Ok.execCounters {c : Cmd} {scope : Nat} {s : State} (h : s.TablesOk) : Res.Ok (execCounters c scope s) :=
  .gafferWith (fun _ _ _ hs => .ite (.next (.answer hs)) (.next (.answerWith hs))) h

theorem Res.Ok.execCountersClear {c : Cmd} {scope : Nat} {s : State} (h : s.TablesOk) : Res.Ok (execCountersClear c scope s) :=
  .gafferWith (fun _ _ _ hs => .ite (.next (.answer hs)) (.next (.clearErrors (.answerWith hs)))) h

theorem Res.Ok.execPowerStatus {c : Cmd} {s : State} (h : s.TablesOk) : Res.Ok (execPowerStatus c s) :=
  .gaffer (fun _ _ hs => .next (.answerWith (.rest hs))) h

theorem Res.Ok.execFaultRecordRead {c : Cmd} {first count : Nat} {s : State} (h : s.TablesOk) : Res.Ok
    (execFaultRecordRead c first count s) :=
  .gaffer (fun _ _ hs => .ite (.next (.answer hs)) (.next (.answerWith hs))) h

/-! ## Firmware -/

theorem Res.Ok.takeSelectProfile {c : Cmd} {profile : Nat} {reset : Bool} {s : State} (h : s.TablesOk) : Res.Ok
    (takeSelectProfile c profile reset s) := by
  refine .gaffer (fun _ _ hs => ?_) h
  split
  · exact .next (.answer hs)
  · split
    · exact .next (.answer hs)
    · exact .next (.ite (.modPower (.answerWith (.rest hs))) (.answerWith (.rest hs)))

theorem Res.Ok.execSelectProfile {c : Cmd} {profile : Nat} {s : State} (h : s.TablesOk) : Res.Ok (execSelectProfile c profile s) :=
  .takeSelectProfile h

theorem Res.Ok.execSelectProfileReset {c : Cmd} {profile : Nat} {s : State} (h : s.TablesOk) : Res.Ok
    (execSelectProfileReset c profile s) :=
  .thenReset (.takeSelectProfile h)

theorem Res.Ok.execFwStage {c : Cmd} {image : Region} {s : State} (h : s.TablesOk) : Res.Ok (execFwStage c image s) :=
  .gaffer (fun _ _ hs => .ite (.next (.answer hs)) (.next (.emit (.modFw (.modFlash hs))))) h

theorem Res.Ok.execFwStageCheckDone {image : ReadResult Image} {s : State} (h : s.TablesOk) :
    Res.Ok (execFwStageCheckDone image s) := by
  unfold Machine.execFwStageCheckDone
  split
  · exact .next h
  · split
    · exact .next h
    · extract_lets -underBinder -merge s1
      have h1 : s1.TablesOk := .modFw h
      split
      · exact .ite (.next (.answerWith (.raiseFor (.modFlash h1)))) (.next (.answer (.modFlash h1)))
      · exact .next (.answer h1)
      · exact .next (.answer h1)

theorem Res.Ok.takeFwActivate {c : Cmd} {s : State} (h : s.TablesOk) : Res.Ok (takeFwActivate c s) := by
  refine .gaffer (fun _ _ hs => ?_) h
  split
  · exact .next (.answer hs)
  · split
    · exact .next (.answer hs)
    · exact .ite (.next (.answer (.modFlash hs))) (.next (.modFw (.modFlash hs)))

theorem State.TablesOk.goOffline {s : State} (h : s.TablesOk) : s.goOffline.TablesOk := .ite (.modFw h) h

theorem Res.Ok.execFwActivate {c : Cmd} {s : State} (h : s.TablesOk) : Res.Ok (execFwActivate c s) :=
  .bind (.takeFwActivate h) (fun _ hs => .next (.goOffline hs))

theorem Res.Ok.execFwActivateTimeout {s : State} (h : s.TablesOk) : Res.Ok (execFwActivateTimeout s) := by
  unfold Machine.execFwActivateTimeout
  exact .ite (.next (.modFw (.modFlash h))) (.next h)

theorem State.TablesOk.answerAttest {s : State} (h : s.TablesOk) {t : Ticket} {nonce : Bytes} {contexts : List Nat} :
    (s.answerAttest t nonce contexts).TablesOk := by
  unfold State.answerAttest
  split
  · exact .ite (.answerWith (.modSession h)) h
  · exact h

theorem Res.Ok.execAttest {c : Cmd} {nonce : Bytes} {contexts : Option (List Nat)} {s : State} (h : s.TablesOk) : Res.Ok
    (execAttest c nonce contexts s) := by
  refine .gafferWith (fun _ _ _ hs => ?_) h
  split
  · exact .next (.answer hs)
  · exact .ite (.next (.modFw hs)) (.next (.answerAttest hs))

theorem State.TablesOk.burn {s : State} (h : s.TablesOk) : s.burn.TablesOk := by
  unfold State.burn
  split
  · exact .rest h
  · exact h

theorem Res.Ok.execGafferReturn {s : State} (h : s.TablesOk) : Res.Ok (execGafferReturn s) := by
  unfold Machine.execGafferReturn
  split
  · exact .next h
  · extract_lets -underBinder -merge ticket held new s1 s2 s3
    have h1 : s1.TablesOk := .modFw h
    have h2 : s2.TablesOk := by
      unfold s2
      clear_value ticket
      split
      · exact .answerWith h1
      · exact h1
    have h3 : s3.TablesOk := .eachDo (fun _ _ hs => .answerAttest hs) h2
    exact .settled (.next (.ite (.burn h3) h3))

/-! ## Board -/

theorem State.TablesOk.toStep {s : State} (h : s.TablesOk) {n : Nat} : (s.toStep n).TablesOk := .modPower h

theorem State.TablesOk.endStep1 {s : State} (h : s.TablesOk) : s.endStep1.TablesOk := .ite (.modPower h) (.toStep h)

theorem State.TablesOk.recordPowerLoss {s : State} (h : s.TablesOk) : s.recordPowerLoss.TablesOk := .ite (.modFlash (.record h)) h

theorem State.TablesOk.boot {s : State} (h : s.TablesOk) {i : Image} {other : Bool} : (s.boot i other).TablesOk := by
  unfold State.boot
  extract_lets -underBinder -merge s1 s2 s3
  have h1 : s1.TablesOk := .ite (.modFlash h) h
  have h2 : s2.TablesOk := .modFlash h1
  have h3 : s3.TablesOk := .modFw h2
  exact .recordPowerLoss (.rest h3)

theorem State.TablesOk.endStep2 {s : State} (h : s.TablesOk) : s.endStep2.TablesOk := by
  unfold State.endStep2
  split
  · exact .enterFailed h
  · exact .ite (.enterFailed h) (.toStep (.boot h))

theorem State.TablesOk.endStep4 {s : State} (h : s.TablesOk) : s.endStep4.TablesOk := by
  unfold State.endStep4
  split
  · exact .enterFailed h
  · exact .toStep (.modPower (.rest h))

theorem State.TablesOk.endStep5 {s : State} (h : s.TablesOk) : s.endStep5.TablesOk := .toStep (.rest h)

theorem State.TablesOk.failTile {s : State} (h : s.TablesOk) {x : Nat × Nat} : (s.failTile x).TablesOk := .listTile (.record h)

/-- Sixteen good tiles of each quadrant are numbered in order (R378). -/
theorem State.spareMap_phys_wf (s : State) (readable : Bool) (failed : List (Nat × Nat)) : (s.spareMap readable failed).1.wf := by
  simp only [State.spareMap, Tab.wf, Tab.keys, List.map_flatMap, List.map_map, Function.comp_def, List.pairwise_flatMap]
  refine ⟨fun k _ => ?_, List.pairwise_lt_range.imp fun {i k} hik a ha b hb => ?_⟩
  · rw [List.pairwise_map, List.pairwise_iff_getElem]
    intro i j hi hj hij
    simpa using hij
  · simp only [List.mem_map] at ha hb
    obtain ⟨x, hx, rfl⟩ := ha
    obtain ⟨y, -, rfl⟩ := hb
    have := List.snd_lt_of_mem_zipIdx hx
    have := List.length_take_le 16 (s.serving readable failed i)
    omega

/-- A quadrant has one spare at most (R378). -/
theorem State.spareMap_spares_wf (s : State) (readable : Bool) (failed : List (Nat × Nat)) : (s.spareMap readable failed).2.wf := by
  have one : ∀ l : List Nat, ∀ k : Nat, ((l.take 1).map (fun _ => k)).Pairwise (· < ·) := by
    intro l k
    rcases l with _ | ⟨a, l⟩ <;> simp
  simp only [State.spareMap, Tab.wf, Tab.keys, List.map_flatMap, List.map_map, Function.comp_def, List.pairwise_flatMap]
  refine ⟨fun k _ => one _ k, List.pairwise_lt_range.imp fun {i k} hik a ha b hb => ?_⟩
  simp only [List.mem_map] at ha hb
  obtain ⟨x, -, rfl⟩ := ha
  obtain ⟨y, -, rfl⟩ := hb
  exact hik

theorem State.TablesOk.endStep6 {s : State} (h : s.TablesOk) {failed : List (Nat × Nat)} {readable : Bool} :
    (s.endStep6 failed readable).TablesOk := by
  have hphys := s.spareMap_phys_wf readable failed
  have hspares := s.spareMap_spares_wf readable failed
  unfold State.endStep6
  generalize s.spareMap readable failed = d at hphys hspares ⊢
  obtain ⟨phys, spares⟩ := d
  dsimp -zeta only at hphys hspares ⊢
  extract_lets -underBinder -merge s1 s2 s3
  have h1 : s1.TablesOk := .ite h (.record (.freeOutcome h))
  have h2 : s2.TablesOk := .eachDo (fun _ _ hs => .failTile hs) h1
  have htiles : Tab.wf (phys.map (fun p => (p.1, s2.startedTile))) := by simpa [Tab.wf, Tab.keys, Function.comp_def] using hphys
  have h3 : s3.TablesOk := ⟨h2.mem, h2.qps, h2.sessions, h2.counters, h2.ctxs, h2.createCounts, h2.vars, h2.evals, h2.requests, htiles,
    hphys, hspares, h2.streams, h2.stalls, h2.ports, h2.links⟩
  exact .toStep (.modBoard h3)

theorem State.TablesOk.endStep7 {s : State} (h : s.TablesOk) {failed : List Nat} : (s.endStep7 failed).TablesOk := by
  unfold State.endStep7
  extract_lets -underBinder -merge ok s1 up s2 bad s3
  have h1 : s1.TablesOk := .toStep h
  have h2 : s2.TablesOk := .eachDo (fun _ _ hs => .sendLldp (.modPort hs)) h1
  split
  · have h3 : s3.TablesOk := .countError h2
    exact .ite (.beginJoin h3) (.eachDo (fun _ _ hs => .modLink hs) h3)
  · exact h2

theorem State.TablesOk.finishStart {s : State} (h : s.TablesOk) : s.finishStart.TablesOk := by
  unfold State.finishStart
  extract_lets -underBinder -merge s1 s2
  have h1 : s1.TablesOk := .modPower h
  have h2 : s2.TablesOk := .raise h1
  exact .ite (.raiseDegraded h2) h2

theorem Res.Ok.execStartupStepComplete {result : StepResult} {s : State} (h : s.TablesOk) :
    Res.Ok (execStartupStepComplete result s) := by
  unfold Machine.execStartupStepComplete
  split
  · exact .next (.endStep1 h)
  · exact .next (.endStep2 h)
  · exact .next (.enterFailed h)
  · exact .next (.toStep h)
  · exact .next (.endStep4 h)
  · exact .next (.endStep5 h)
  · exact .next (.enterFailed h)
  · exact .next (.endStep6 h)
  · exact .next (.endStep6 h)
  · exact .next (.endStep7 h)
  · exact .next (.endStep7 h)
  · exact .ite (.settled (.next (.finishStart h))) (.next h)
  · exact .next h

theorem Res.Ok.execNrstAssert {s : State} (h : s.TablesOk) : Res.Ok (execNrstAssert s) := by
  unfold Machine.execNrstAssert
  extract_lets -underBinder -merge s1
  have h1 : s1.TablesOk := .modBoard h
  split
  · exact .next h1
  · exact .next h1
  · exact .next h1
  · exact .next (.warmReset h1)

theorem Res.Ok.execNrstRelease {s : State} (h : s.TablesOk) : Res.Ok (execNrstRelease s) := by
  unfold Machine.execNrstRelease
  extract_lets -underBinder -merge s1
  have h1 : s1.TablesOk := .modBoard h
  split
  · exact .next (.toStep h1)
  · exact .next (.ite (.toStep h1) h1)
  · exact .next h1

theorem Res.Ok.execProfileResetRelease {s : State} (h : s.TablesOk) : Res.Ok (execProfileResetRelease s) := by
  unfold Machine.execProfileResetRelease
  split
  · exact .next (.ite (.modPower h) (.toStep h))
  · exact .next h

theorem Res.Ok.execInputLoss {s : State} (h : s.TablesOk) : Res.Ok (execInputLoss s) := .next (.ite h (.loseInput h))

theorem Res.Ok.execOvervoltage {s : State} (h : s.TablesOk) : Res.Ok (execOvervoltage s) := .next (.ite h (.loseInput h))

theorem Res.Ok.execPowerOn {decivolts : Nat} {s : State} (h : s.TablesOk) : Res.Ok (execPowerOn decivolts s) :=
  .ite (.next (.toStep (.modBoard h))) (.next h)

theorem Res.Ok.execStrapSample {straps : Nat} {s : State} (h : s.TablesOk) : Res.Ok (execStrapSample straps s) := by
  unfold Machine.execStrapSample
  split
  · exact .next (.ite (.modBoard h) h)
  · exact .next h

theorem Res.Ok.execEntropyHealthFail {s : State} (h : s.TablesOk) : Res.Ok (execEntropyHealthFail s) := .next (.ite (.enterFailed h) h)

theorem Res.Ok.execDrbgReseed {s : State} (h : s.TablesOk) : Res.Ok (execDrbgReseed s) := .next (.ite (.rest h) h)

theorem State.TablesOk.writeFrIndex {s : State} (h : s.TablesOk) {v : Nat} : (s.writeFrIndex v).TablesOk := .modBoard h

theorem Res.Ok.execFrIndexWrite {value : Nat} {s : State} (h : s.TablesOk) : Res.Ok (execFrIndexWrite value s) :=
  .next (.ite (.writeFrIndex h) h)

theorem Res.Ok.execBmbRegisterWrite {address value : Nat} {s : State} (h : s.TablesOk) : Res.Ok (execBmbRegisterWrite address value s)
    :=
  .next (.ite (.writeFrIndex h) h)

/-! ## Tiles -/

theorem State.TablesOk.restTile {s : State} (h : s.TablesOk) {n : Nat} : (s.restTile n).TablesOk := .modTile h

theorem State.TablesOk.complete {s : State} (h : s.TablesOk) {n count code : Nat} : (s.complete n count code).TablesOk :=
  .restTile (.modTile h)

theorem State.TablesOk.arrayFault {s : State} (h : s.TablesOk) {n : Nat} : (s.arrayFault n).2.TablesOk := by
  unfold State.arrayFault
  extract_lets -underBinder -merge s1
  have h1 : s1.TablesOk := .countError h
  split
  · split
    · exact .retireTile h1
    · exact .modTile (.record h1)
  · exact .record h1

theorem State.TablesOk.registerCorrected {s : State} (h : s.TablesOk) {n : Nat} : (s.registerCorrected n).TablesOk := .modTile h

theorem State.TablesOk.noteOutputs {s : State} (h : s.TablesOk) {n : Nat} {vals : List OutValue} : (s.noteOutputs n vals).TablesOk :=
  .countF8 (.modTile h)

theorem State.TablesOk.tileWrites {s : State} (h : s.TablesOk) {n : Nat} {ws : List (Nat × Bytes)} : (s.tileWrites n ws).TablesOk :=
  .withMem h (Memory.wf_foldl h.mem _ _ (fun _ _ hm => Memory.wf_writeBytes hm _ _))

theorem State.TablesOk.matmulResult {s : State} (h : s.TablesOk) {n : Nat} {x : ArrayIn} {l : Loaded} {d : Bytes} :
    (s.matmulResult n x l d).TablesOk :=
  .noteOutputs (.tileWrites h)

theorem State.TablesOk.finishMatmul {s : State} (h : s.TablesOk) {n : Nat} {ops : List QueueOp} {bad : Option Nat} {code : Nat} :
    (s.finishMatmul n ops bad code).TablesOk :=
  .restTile (.modTile (.eachDo (fun _ _ hs => .ite (.spoil hs) (.matmulResult hs)) h))

theorem State.TablesOk.noteEvent {s : State} (h : s.TablesOk) {n : Nat} {e : ArrayEvent} : (s.noteEvent n e).TablesOk := by
  unfold State.noteEvent
  split
  · exact .registerCorrected h
  · exact .sramSingle h
  · exact h

theorem State.TablesOk.runMatmul {s : State} (h : s.TablesOk) {n : Nat} {ops : List QueueOp} {e : ArrayEvent} :
    (s.runMatmul n ops e).TablesOk := by
  unfold State.runMatmul
  split
  · exact .sramDouble h
  · extract_lets -underBinder -merge s1
    have h1 : s1.TablesOk := .noteEvent h
    split
    · exact .finishMatmul h1
    · have h2 : (s1.arrayFault n).2.TablesOk := .arrayFault h1
      generalize s1.arrayFault n = d at h2 ⊢
      obtain ⟨gone, s2⟩ := d
      dsimp -zeta only
      exact .ite h2 (.finishMatmul h2)
    · have h2 : (s1.arrayFault n).2.TablesOk := .arrayFault h1
      generalize s1.arrayFault n = d at h2 ⊢
      obtain ⟨gone, s2⟩ := d
      dsimp -zeta only
      exact .ite h2 (.finishMatmul h2)
    · have h2 : (s1.arrayFault n).2.TablesOk := .arrayFault h1
      generalize s1.arrayFault n = d at h2 ⊢
      obtain ⟨gone, s2⟩ := d
      dsimp -zeta only
      exact .ite h2 (.finishMatmul h2)

theorem State.TablesOk.unitEvent {s : State} (h : s.TablesOk) {n : Nat} {e : ArrayEvent} : (s.unitEvent n e).TablesOk := by
  unfold State.unitEvent
  split
  · exact .sramDouble h
  · exact .arrayFault h
  · exact .arrayFault h
  · exact .arrayFault h
  · exact .consumeFeed (.noteEvent h)

theorem State.TablesOk.refuseOperation {s : State} (h : s.TablesOk) {n : Nat} {q : QueueOp} : (s.refuseOperation n q).TablesOk :=
  .endProgram (.complete h)

theorem Res.Ok.execMatmul {tile : Nat} {event : ArrayEvent} {s : State} (h : s.TablesOk) : Res.Ok (execMatmul tile event s) := by
  unfold Machine.execMatmul
  split
  · exact .next h
  · split
    · exact .ite (.next h) (.started (.next (.unitEvent h)))
    · split
      · exact .next h
      · extract_lets -underBinder -merge ops
        split
        · exact .started (.next (.refuseOperation h))
        · split
          · exact .fault
          · exact .started (.next (.runMatmul h))

theorem State.TablesOk.ewResult {s : State} (h : s.TablesOk) {n : Nat} {d : Bytes} : (s.ewResult n d).TablesOk :=
  .noteOutputs (.tileWrites h)

theorem State.TablesOk.runEw {s : State} (h : s.TablesOk) {n : Nat} {q : QueueOp} {e : ArrayEvent} : (s.runEw n q e).TablesOk := by
  unfold State.runEw
  split
  · exact .sramDouble h
  · extract_lets -underBinder -merge s1
    have h1 : s1.TablesOk := .noteEvent h
    split
    · have h2 : (s1.arrayFault n).2.TablesOk := .arrayFault h1
      generalize s1.arrayFault n = d at h2 ⊢
      obtain ⟨gone, s2⟩ := d
      dsimp -zeta only
      exact .ite h2 (.complete (.ewResult h2))
    · exact .complete (.ewResult h1)

theorem Res.Ok.execElementwise {tile : Nat} {event : ArrayEvent} {s : State} (h : s.TablesOk) :
    Res.Ok (execElementwise tile event s) := by
  unfold Machine.execElementwise
  split
  · exact .next h
  · split
    · exact .ite (.next h) (.started (.next (.unitEvent h)))
    · split
      · exact .next h
      · split
        · exact .started (.next (.refuseOperation h))
        · split
          · exact .fault
          · exact .started (.next (.runEw h))

theorem Res.Ok.execNop {tile : Nat} {s : State} (h : s.TablesOk) : Res.Ok (execNop tile s) := by
  unfold Machine.execNop
  split
  · exact .next h
  · split
    · exact .next h
    · split
      · exact .fault
      · exact .ite (.next h) (.started (.next (.complete h)))

theorem Res.Ok.execMarverFill {tile : Nat} {s : State} (h : s.TablesOk) {line : HbmOutcome} : Res.Ok (execMarverFill tile s line) := by
  unfold Machine.execMarverFill
  extract_lets -underBinder -merge t
  split
  · exact .next h
  · split
    · split
      · exact .next h
      · exact .ite (.started (.next (.sramDouble h))) (.next (.modTile (.bankLine h)))
    · exact .next h

/-! ## Transfers -/

theorem State.TablesOk.issue {s : State} (h : s.TablesOk) {id : Nat} {data : Bytes} : (s.issue id data).TablesOk := .modStrm h

theorem State.TablesOk.touchTile {s : State} (h : s.TablesOk) {n : Nat} : (s.touchTile n).TablesOk := .ite (.modTile h) h

theorem State.TablesOk.haltStrm {s : State} (h : s.TablesOk) {id : Nat} {x : Strm} {window page : Nat} :
    (s.haltStrm id x window page).TablesOk := by
  unfold State.haltStrm
  extract_lets -underBinder -merge s1
  have h1 : s1.TablesOk := .modStrm h
  split
  · exact .answerWith h1
  · exact .answerWith h1
  · split
    · split
      · exact .interim h1
      · exact h1
    · exact h1
  · exact h1

theorem State.TablesOk.abortTask {s : State} (h : s.TablesOk) {id : Nat} {x : Strm} : (s.abortTask id x).TablesOk := by
  unfold State.abortTask
  split
  · extract_lets -underBinder -merge mine s1 group s2
    have h1 : s1.TablesOk := .eachDo (fun _ _ hs => .failStrm hs) h
    have h2 : s2.TablesOk := .eachDo (fun _ _ hs => .stopTile hs) h1
    exact .endProgram h2
  · exact .failStrm h

theorem State.TablesOk.takePageFault {s : State} (h : s.TablesOk) {id : Nat} {x : Strm} {f : Nat × Nat} :
    (s.takePageFault id x f).TablesOk := by
  unfold State.takePageFault
  split
  · exact .ite (.haltStrm h) (.abortTask h)
  · exact h

theorem State.TablesOk.takeRing {s t : State} (h : s.TablesOk) {port ctx tag : Nat} {d : Bytes}
    (ht : s.takeRing port ctx tag = some (d, t)) : t.TablesOk := by
  unfold State.takeRing at ht
  split at ht
  · cases ht
  · cases ht
    exact .eachDo (fun _ _ hs => .freeLocal hs) (.modLink h)

theorem State.TablesOk.sendRing {s : State} (h : s.TablesOk) {port ctx tag : Nat} {data : Bytes} :
    (s.sendRing port ctx tag data).TablesOk :=
  .enqueue (.nextE2e h)

theorem State.TablesOk.takeSource {s t : State} (h : s.TablesOk) {x : Strm} {d : Bytes} (ht : s.takeSource x = some (d, t)) :
    t.TablesOk := by
  unfold State.takeSource at ht
  extract_lets at ht
  split at ht
  · cases ht
    exact h
  · split at ht
    · exact h.takeRing ht
    · split at ht
      · cases ht
        exact .emit h
      · cases ht

theorem State.TablesOk.sendDest {s : State} (h : s.TablesOk) {x : Strm} {data : Bytes} : (s.sendDest x data).TablesOk := by
  unfold State.sendDest
  extract_lets -underBinder -merge d
  split
  · exact .sendRing h
  · split
    · split
      · exact .eachDo (fun _ _ hs => .emit hs) h
      · exact h
    · exact h

theorem State.TablesOk.moveOne {s : State} (h : s.TablesOk) {id : Nat} {x : Strm} : (s.moveOne id x).TablesOk := by
  unfold State.moveOne
  extract_lets d
  split
  · exact h
  · split
    · exact .touchTile h
    · split
      · exact h
      · split
        · exact h
        · split
          · exact .takePageFault h
          · split
            next ht => exact .issue (.sendDest (h.takeSource ht))
            · exact h

theorem State.TablesOk.feedOne {s : State} (h : s.TablesOk) {id : Nat} {x : Strm} : (s.feedOne id x).TablesOk := .ite (.issue h) h

theorem Res.Ok.execCopy {id : Nat} {s : State} (h : s.TablesOk) : Res.Ok (execCopy id s) := by
  unfold Machine.execCopy
  split
  · exact .started (.next (.ite (.feedOne h) (.moveOne h)))
  · exact .next h

theorem Res.Ok.execStrided {id : Nat} {s : State} (h : s.TablesOk) : Res.Ok (execStrided id s) := by
  unfold Machine.execStrided
  split
  · exact .started (.next (.moveOne h))
  · exact .next h

theorem Res.Ok.execRotate {id : Nat} {s : State} (h : s.TablesOk) : Res.Ok (execRotate id s) := by
  unfold Machine.execRotate
  split
  · exact .started (.next (.moveOne h))
  · exact .next h

theorem State.TablesOk.hopInputs {s t : State} (h : s.TablesOk) {x : Strm} {partials wire : Bytes} {own : List Word}
    (ht : s.hopInputs x partials = some (wire, own, t)) : t.TablesOk := by
  unfold State.hopInputs at ht
  extract_lets at ht
  split at ht
  · split at ht
    next hr =>
      cases ht
      exact h.takeRing hr
    · cases ht
  · split at ht
    · cases ht
      exact h
    · cases ht

theorem State.TablesOk.noteHop {s : State} (h : s.TablesOk) {x : Strm} {sums : List Word} {out : List Narrow} :
    (s.noteHop x sums out).TablesOk := by
  unfold State.noteHop
  extract_lets -underBinder -merge d n shift bad stat
  exact .ite h (.modTile h)

theorem State.TablesOk.noteOwner {s : State} (h : s.TablesOk) {x : Strm} {sums : List Word} : (s.noteOwner x sums).TablesOk := by
  unfold State.noteOwner
  extract_lets -underBinder -merge d n
  exact .ite h (.modTile h)

theorem State.TablesOk.hopOne {s : State} (h : s.TablesOk) {id : Nat} {x : Strm} {partials : Bytes} :
    (s.hopOne id x partials).TablesOk := by
  unfold State.hopOne
  extract_lets d
  split
  · exact h
  next ht =>
    have h1 := h.hopInputs ht
    extract_lets sums
    split
    · exact .issue (.noteOwner h1)
    · exact .issue (.sendDest (.noteHop h1))

theorem Res.Ok.execReduceHop {id : Nat} {partials : Bytes} {s : State} (h : s.TablesOk) : Res.Ok (execReduceHop id partials s) := by
  unfold Machine.execReduceHop
  split
  · extract_lets -underBinder -merge d
    split
    · exact .next h
    · split
      · exact .next (.touchTile h)
      · split
        · exact .next h
        · split
          · exact .fault
          · split
            · exact .started (.next (.takePageFault h))
            · exact .started (.next (.hopOne h))
  · exact .next h

theorem State.TablesOk.placeWriteOut {s : State} (h : s.TablesOk) {x : Strm} : (s.placeWriteOut x).TablesOk := by
  unfold State.placeWriteOut
  split
  · exact .ite (.modVar (.freeNat h)) h
  · exact h

theorem State.TablesOk.pageOutOne {s : State} (h : s.TablesOk) {id : Nat} {x : Strm} : (s.pageOutOne id x).TablesOk := by
  unfold State.pageOutOne
  split
  · split
    · extract_lets -underBinder -merge s1 body
      have h1 : s1.TablesOk := .placeWriteOut h
      split
      · exact .issue (.rest (.emit h1))
      · exact h1
    · exact h
  · exact h

theorem Res.Ok.execPageOut {id : Nat} {s : State} (h : s.TablesOk) : Res.Ok (execPageOut id s) := by
  unfold Machine.execPageOut
  split
  · split
    · exact .next h
    · split
      · exact .next (.touchTile h)
      · split
        · exact .started (.next (.failStrm h))
        · split
          · exact .started (.next (.takePageFault h))
          · exact .started (.next (.pageOutOne h))
  · exact .next h

theorem State.TablesOk.failRead {s : State} (h : s.TablesOk) {id status : Nat} {authentication : Bool} :
    (s.failRead id status authentication).TablesOk := by
  unfold State.failRead
  split
  · split
    · exact .failLoad h
    · exact .failStrm h
  · exact h

theorem State.TablesOk.takePage {s : State} (h : s.TablesOk) {id : Nat} {p : SealedPage} : (s.takePage id p).TablesOk := by
  unfold State.takePage
  extract_lets -underBinder -merge data
  exact .modStrm (.issue h)

theorem State.TablesOk.foreignRestore {s : State} (h : s.TablesOk) {id : Nat} : (s.foreignRestore id).TablesOk := by
  unfold State.foreignRestore
  split
  · split
    · extract_lets -underBinder -merge s1 s2 s3
      have h1 : s1.TablesOk := .answer (.abandonAll h)
      split
      · exact .becomeResident (.modVar h1)
      · have h2 : s2.TablesOk := .modVar (.releaseHbm h1)
        exact .ite (.wantLoad h2) (.answerAll (.endParked (.modVar h2)))
    · exact h
  · exact h

theorem State.TablesOk.pageRead {s : State} (h : s.TablesOk) {id : Nat} {x : Strm} {c : Ctx} {p : SealedPage} :
    (s.pageRead id x c p).TablesOk := by
  unfold State.pageRead
  split
  · exact .takePage h
  · exact .modStrm (.takePage h)
  · split
    · exact .foreignRestore h
    · exact .failRead h
  · exact .failRead (.countError h)

theorem State.TablesOk.stallStrm {s : State} (h : s.TablesOk) {id : Nat} : (s.stallStrm id).TablesOk := by
  unfold State.stallStrm
  split
  · exact .failStrm (.countError (.withStalls h (Tab.wf_put h.stalls _ _)))
  · exact h

theorem Res.Ok.execPageIn {id : Nat} {page : ReadResult SealedPage} {s : State} (h : s.TablesOk) : Res.Ok (execPageIn id page s) := by
  unfold Machine.execPageIn
  split
  · split
    · exact .next h
    · split
      · exact .started (.next (.takePageFault h))
      · extract_lets -underBinder -merge place s1
        have h1 : s1.TablesOk := .drainQp (.emit h)
        split
        · exact .started (.next (.pageRead h1))
        · exact .started (.next (.failRead h1))
        · exact .started (.next (.stallStrm h1))
      · exact .next h
  · exact .next h

theorem State.TablesOk.finishImport {s : State} (h : s.TablesOk) {t : Ticket} {v : Nat} {owners : List Nat} {i : VariantImage} :
    (s.finishImport t v owners i).TablesOk := by
  unfold State.finishImport
  extract_lets -underBinder -merge pages
  split
  · exact .answer h
  · have h1 : (s.needHbm pages).2.TablesOk := .needHbm h
    generalize s.needHbm pages = d at h1 ⊢
    obtain ⟨space, s1⟩ := d
    dsimp -zeta only
    split
    · exact .answer h1
    · have h2 : (s1.freeNat).2.TablesOk := .freeNat h1
      generalize s1.freeNat = d at h2 ⊢
      obtain ⟨page, s2⟩ := d
      dsimp -zeta only
      extract_lets -underBinder -merge blank w w1
      exact .ite (.placeVar h2) (.waitHbm h2)

theorem State.TablesOk.finishExport {s : State} (h : s.TablesOk) {id : Nat} {x : Strm} {t : Ticket} {v : Nat} {withLog : Option Bool}
    {step records : Nat} :
    (s.finishExport id x t v withLog step records).TablesOk := by
  unfold State.finishExport
  extract_lets -underBinder -merge s1 s2
  have h1 : s1.TablesOk := .ite (.modVar h) h
  have h2 : s2.TablesOk := .answerWith h1
  exact .unpin h2

theorem State.TablesOk.finishPages {s : State} (h : s.TablesOk) {id : Nat} {x : Strm} : (s.finishPages id x).TablesOk := by
  unfold State.finishPages
  split
  · split
    · exact .placeImage (.delStrm h)
    · exact .failLoad h
  · split
    · exact .placeRestored (.delStrm h)
    · exact .failStrm h
  · split
    · exact .finishImport (.delStrm h)
    · exact .failStrm h
  · exact .finishExport (.delStrm h)
  · exact .startReplay (.delStrm h)
  · exact .delStrm h
  · exact .delStrm h
  · exact h

theorem State.TablesOk.countLand {s : State} (h : s.TablesOk) {x : Strm} : (s.countLand x).TablesOk := by
  unfold State.countLand
  extract_lets -underBinder -merge s1
  have h1 : s1.TablesOk := .countTenant h
  split
  · exact .countTenant h1
  · exact .countTenant h1
  · exact .countTenant h1
  · exact h1

theorem State.TablesOk.landData {s : State} (h : s.TablesOk) {x : Strm} {i : Nat} {data : Bytes} : (s.landData x i data).TablesOk :=
  .ite (.withMem h (Memory.wf_foldl h.mem _ _ (fun _ _ hm => Memory.wf_writeByte hm _ _))) h

theorem State.TablesOk.landLine {s : State} (h : s.TablesOk) {x : Strm} {i : Nat} {line : HbmOutcome} :
    (s.landLine x i line).TablesOk := by
  unfold State.landLine
  extract_lets -underBinder -merge a base
  split
  · split
    · exact .bankLine h
    · split
      · split
        · exact h
        · exact .hbmLine h
      · exact h
  · split
    · exact .areaLine h
    · exact .areaLine h
    · split
      · exact h
      · exact .areaLine h
    · split
      · exact h
      · exact .areaLine h
    · exact h

theorem State.TablesOk.baseLost {s : State} (h : s.TablesOk) {ctx : Nat} : (s.baseLost ctx).TablesOk := by
  unfold State.baseLost
  split
  · split
    · exact .loseStep (.rerunUnit h)
    · exact h
  · exact h

theorem State.TablesOk.loseTransfer {s : State} (h : s.TablesOk) {id : Nat} {x : Strm} {i : Nat} {line : HbmOutcome} :
    (s.loseTransfer id x i line).TablesOk := by
  unfold State.loseTransfer
  extract_lets -underBinder -merge s1 a base
  have h1 : s1.TablesOk := .landLine h
  split
  · exact h1
  · split
    · exact .baseLost h1
    · exact .ite (.endProgram h1) h1
    · split
      · split
        · exact h1
        · exact .failStrm h1
      · exact h1

theorem State.TablesOk.drainOne {s : State} (h : s.TablesOk) {id : Nat} {x : Strm} {i : Nat} : (s.drainOne id x i).TablesOk := by
  unfold State.drainOne
  extract_lets -underBinder -merge left s1 s2
  have h1 : s1.TablesOk := .modStrm h
  split
  · exact h1
  · have h2 : s2.TablesOk := .zeroBuffer h1
    split
    · exact h2
    · exact .delStrm h2

theorem State.TablesOk.landOne {s : State} (h : s.TablesOk) {id : Nat} {x : Strm} {i : Nat} {data : Bytes} :
    (s.landOne id x i data).TablesOk := by
  unfold State.landOne
  extract_lets -underBinder -merge s1 half s2
  have h1 : s1.TablesOk := .countLand (.landData h)
  have h2 : s2.TablesOk := .modStrm h1
  split
  · exact .ite (.finishPages h2) h2
  · exact h2

theorem State.TablesOk.drainHost {s : State} (h : s.TablesOk) {x : Strm} : (s.drainHost x).TablesOk := by
  unfold State.drainHost
  split
  · split
    · exact .drainQp h
    · exact h
  · exact h

theorem Res.Ok.execTransferLand {id index : Nat} {bytes : Bytes} {line : HbmOutcome} {s : State} (h : s.TablesOk) :
    Res.Ok (execTransferLand id index bytes line s) := by
  unfold Machine.execTransferLand
  split
  · split
    · exact .next h
    · split
      · exact .next h
      · split
        · exact .fault
        · split
          · exact .started (.next (.drainOne h))
          · split
            · exact .next (.touchTile h)
            · split
              · exact .started (.next (.loseTransfer h))
              · extract_lets -underBinder -merge data
                exact .started (.next (.landOne (.drainHost (.landLine h))))
  · exact .next h

/-! ## Streams -/

theorem State.TablesOk.openStrm {s : State} (h : s.TablesOk) {k : Nat} : (s.openStrm k).TablesOk := by
  unfold State.openStrm
  split
  · split
    · extract_lets -underBinder -merge base n s1
      have h1 : s1.TablesOk := .modCtx (.modStrm h)
      split
      · exact .interim h1
      · exact h1
    · exact h
  · exact h

theorem State.TablesOk.beginStream {s : State} (h : s.TablesOk) {t : Ticket} {c : Ctx} {d : Bytes} :
    (s.beginStream t c d).TablesOk := by
  unfold State.beginStream
  split
  · exact .answer h
  · extract_lets -underBinder -merge x s1
    exact .ite (.answer h) (.openStrm (.addStrm (.modCtx h)))

theorem Res.Ok.execStreamOpen {c : Cmd} {descriptor : Bytes} {s : State} (h : s.TablesOk) : Res.Ok (execStreamOpen c descriptor s) :=
    by
  refine .gaffer (fun _ _ hs => ?_) h
  split
  · exact .next (.answer hs)
  · exact .ite .fault (.started (.next (.beginStream hs)))

theorem Res.Ok.execStreamReserve {id : Nat} {s : State} (h : s.TablesOk) : Res.Ok (execStreamReserve id s) := by
  unfold Machine.execStreamReserve
  split
  · split
    · exact .ite (.next h) (.started (.next (.openStrm h)))
    · exact .next h
  · exact .next h

theorem Res.Ok.execStreamOpenResume {c : Cmd} {id : Nat} {s : State} (h : s.TablesOk) : Res.Ok (execStreamOpenResume c id s) := by
  refine .gaffer (fun _ _ hs => ?_) h
  split
  · exact .next (.answer hs)
  · exact .started (.next (.modStrm hs))

theorem Res.Ok.execStreamClose {c : Cmd} {id : Nat} {s : State} (h : s.TablesOk) : Res.Ok (execStreamClose c id s) := by
  refine .gaffer (fun _ _ hs => ?_) h
  split
  · exact .next (.answer hs)
  · exact .ite .fault (.started (.next (.answer (.failStrm hs))))

theorem Res.Ok.execStreamStall {id : Nat} {s : State} (h : s.TablesOk) : Res.Ok (execStreamStall id s) := by
  unfold Machine.execStreamStall
  split
  · exact .ite (.started (.next (.stallStrm h))) (.next h)
  · exact .next h

/-! ## Power -/

theorem State.TablesOk.raiseStall {s : State} (h : s.TablesOk) {src dst outcome : Nat} : (s.raiseStall src dst outcome).TablesOk :=
  .raiseModule h

theorem State.TablesOk.noteStall {s : State} (h : s.TablesOk) {src dst outcome : Nat} : (s.noteStall src dst outcome).TablesOk :=
  .raiseStall (.record (.freeOutcome h))

theorem State.TablesOk.quadrantOut {s : State} (h : s.TablesOk) {q : Nat} : (s.quadrantOut q).TablesOk :=
  .raiseDegraded (.modQuad (.withSpares (.eachDo (fun _ _ hs => .vacate (.loseTile hs)) h)
      (Tab.wf_del (State.TablesOk.eachDo (fun _ _ hs => .vacate (.loseTile hs)) h).spares _)))

theorem State.TablesOk.dropPort {s : State} (h : s.TablesOk) {p : Nat} : (s.dropPort p).TablesOk :=
  .ite (.holdLink h) (.ite (.fabricDown h) h)

theorem Res.Ok.execCrossingTimeout {src dst : Nat} {s : State} (h : s.TablesOk) : Res.Ok (execCrossingTimeout src dst s) := by
  unfold Machine.execCrossingTimeout
  split
  · exact .next h
  · split
    · exact .settled (.next (.noteStall (.quadrantOut h)))
    · exact .thenReset (.settled (.next (.noteStall (.dropPort h))))
    · exact .thenReset (.settled (.next (.noteStall (.dropPort (.dropPort h)))))
    · exact .ite (.next (.noteStall h)) (.next (.enterFailed (.record h)))

theorem Res.Ok.execQuietEntry {s : State} (h : s.TablesOk) : Res.Ok (execQuietEntry s) :=
  .ite (.next (.modPower (.withTiles h (Tab.wf_each h.tiles _)))) (.next h)

theorem Res.Ok.execDormantEntry {s : State} (h : s.TablesOk) : Res.Ok (execDormantEntry s) := by
  unfold Machine.execDormantEntry
  split
  · refine .next (.modPower ?_)
    dsimp only [State.TablesOk]
    exact ⟨Memory.wf_zeroRange h.mem _ _, h.qps, h.sessions, h.counters, h.ctxs, h.createCounts, h.vars, h.evals, h.requests,
      Tab.wf_each h.tiles _, h.phys, h.spares, h.streams, h.stalls, h.ports, h.links⟩
  · exact .next h

theorem State.TablesOk.usePooled {s : State} (h : s.TablesOk) {f : Frame} : (s.usePooled f).TablesOk := by
  unfold State.usePooled
  split
  · exact .takeReduce h
  · exact .takeAnnounce h
  · split
    · exact .receiveBundle h
    · split
      · exact .takeBack h
      · exact .ite (.sendExpert h) h
  · exact h

theorem State.TablesOk.deliverPool {s : State} (h : s.TablesOk) {p : Nat} : (s.deliverPool p).TablesOk :=
  .eachDo (fun _ _ hs => .usePooled hs) (.eachDo (fun _ _ hs => .freeLocal hs) (.modLink h))

theorem State.TablesOk.awake {s : State} (h : s.TablesOk) : s.awake.TablesOk :=
  .deliverPool (.deliverPool (.eachDo (fun _ _ hs => .raise hs) (.modPower h)))

theorem Res.Ok.execWakeComplete {s : State} (h : s.TablesOk) : Res.Ok (execWakeComplete s) := by
  unfold Machine.execWakeComplete
  split
  · exact .next h
  · split
    · exact .started (.next (.awake h))
    · exact .started (.next (.awake (.withTiles h (Tab.wf_each h.tiles _))))
    · exact .next h

theorem Res.Ok.execVoltageLoopPeriod {quadrant : Nat} {ask : Move} {s : State} (h : s.TablesOk) : Res.Ok
    (execVoltageLoopPeriod quadrant ask s) :=
  .ite (.next (.modQuad h)) (.next h)

theorem Res.Ok.execFrequencyLoopPeriod {quadrant : Nat} {ask : Move} {s : State} (h : s.TablesOk) : Res.Ok
    (execFrequencyLoopPeriod quadrant ask s) :=
  .ite (.next (.modQuad h)) (.next h)

theorem Res.Ok.execThresholdLoopPeriod {quadrant : Nat} {ask : Move} {s : State} (h : s.TablesOk) : Res.Ok
    (execThresholdLoopPeriod quadrant ask s) :=
  .ite (.next (.modQuad h)) (.next h)

theorem Res.Ok.execSupplyDroop {quadrant : Nat} {s : State} (h : s.TablesOk) : Res.Ok (execSupplyDroop quadrant s) :=
  .ite (.next (.modQuad h)) (.next h)

theorem State.TablesOk.stepDownAll {s : State} (h : s.TablesOk) : s.stepDownAll.TablesOk := .modPower h

theorem Res.Ok.execPowerCapWindow {meanWatts : Nat} {s : State} (h : s.TablesOk) : Res.Ok (execPowerCapWindow meanWatts s) := by
  unfold Machine.execPowerCapWindow
  split
  · extract_lets -underBinder -merge f s1
    have h1 : s1.TablesOk := .ite (.stepDownAll h) h
    exact .next (.modPower h1)
  · exact .next h

theorem Res.Ok.execPowerReportWindow {meanWatts : Nat} {s : State} (h : s.TablesOk) : Res.Ok (execPowerReportWindow meanWatts s) :=
  .ite (.next h) (.next (.modPower h))

theorem State.TablesOk.noteThermal {s : State} (h : s.TablesOk) {e : Event} : (s.noteThermal e).TablesOk :=
  .ite (.wakeTrigger (.modPower h)) (.raise h)

theorem Res.Ok.execTemperatureLevelChange {source : Nat} {celsius : ℤ} {s : State} (h : s.TablesOk) :
    Res.Ok (execTemperatureLevelChange source celsius s) := by
  unfold Machine.execTemperatureLevelChange
  split
  · exact .next h
  · extract_lets -underBinder -merge was temps level s1
    have h1 : s1.TablesOk := .modPower h
    split
    · exact .next h1
    · exact .ite (.next (.enterFailed (.record h1))) (.next (.ite h1 (.noteThermal h1)))

/-! ## Programs -/

theorem Res.Ok.execLoadProgram {c : Cmd} {programNo : Nat} {program : Bytes} {s : State} (h : s.TablesOk) : Res.Ok
    (execLoadProgram c programNo program s) :=
  (.gaffer (fun _ _ hs => .ite .fault (by
  split
  · exact .next (.answer hs)
  · split
    · exact .next (.answer hs)
    · exact (.ite (.next (.answer hs)) (.next (.answerWith (.modCtx hs)))))) h)

theorem Res.Ok.execRunProgram {c : Cmd} {programNo : Nat} {s : State} (h : s.TablesOk) : Res.Ok (execRunProgram c programNo s) := by
  refine .gaffer (fun _ _ hs => ?_) h
  split
  · exact .next (.answer hs)
  · exact .ite (.next (.answerWith hs)) (.settled (.next (.modCtx hs)))

theorem State.TablesOk.opDone {s : State} (h : s.TablesOk) {ctx : Nat} : (s.opDone ctx).TablesOk := .modCtx h

theorem Res.Ok.execArray {ctx : Nat} {s : State} (h : s.TablesOk) : Res.Ok (execArray ctx s) := by
  unfold Machine.execArray
  split
  · extract_lets -underBinder -merge n d
    split
    · exact .started (.next (.endProgram h))
    · exact .ite (.next h) (.started (.next (.opDone (.enqueueOp h))))
  · exact .next h

theorem Res.Ok.execStream {ctx : Nat} {s : State} (h : s.TablesOk) : Res.Ok (execStream ctx s) := by
  unfold Machine.execStream
  split
  · extract_lets -underBinder -merge d slot old s1 x
    split
    · exact .fault
    · split
      · exact .started (.next (.endProgram h))
      · have h1 : s1.TablesOk := by
          unfold s1
          clear_value old
          split
          · exact .delStrm h
          · exact h
        exact .ite (.next h) (.ite (.next h1) (.ite .fault (.started (.next (.opDone (.openStrm (.addStrm h1)))))))
  · exact .next h

theorem Res.Ok.execWaitStream {ctx : Nat} {s : State} (h : s.TablesOk) : Res.Ok (execWaitStream ctx s) := by
  unfold Machine.execWaitStream
  split
  · split
    · exact .next (.opDone h)
    · split
      · exact .ite (.next (.opDone h)) (.started (.next (.endProgram h)))
      · exact .next h
  · exact .next h

theorem Res.Ok.execWaitTile {ctx : Nat} {s : State} (h : s.TablesOk) : Res.Ok (execWaitTile ctx s) := by
  unfold Machine.execWaitTile
  split
  · extract_lets -underBinder -merge l
    split
    · exact .started (.next (.endProgram h))
    · exact .ite (.next (.opDone h)) (.next h)
  · exact .next h

theorem Res.Ok.execBoundary {ctx : Nat} {s : State} (h : s.TablesOk) : Res.Ok (execBoundary ctx s) := by
  unfold Machine.execBoundary
  split
  · exact .next (.modCtx (.opDone h))
  · exact .next h

theorem Res.Ok.execRounding {ctx : Nat} {s : State} (h : s.TablesOk) : Res.Ok (execRounding ctx s) := by
  unfold Machine.execRounding
  split
  · extract_lets -underBinder -merge n
    exact .ite (.started (.next (.endProgram h))) (.next (.opDone (.modTile h)))
  · exact .next h

theorem Res.Ok.execDerivative {ctx : Nat} {s : State} (h : s.TablesOk) : Res.Ok (execDerivative ctx s) := by
  unfold Machine.execDerivative
  split
  · extract_lets -underBinder -merge n
    exact .ite (.started (.next (.endProgram h))) (.next (.opDone (.modTile h)))
  · exact .next h

theorem State.TablesOk.clearGroupSet {s : State} (h : s.TablesOk) {c : Ctx} {set : Nat} : (s.clearGroupSet c set).TablesOk :=
  .eachDo (fun _ _ hs => .modTile hs) h

theorem Res.Ok.execFiniteCheck {ctx : Nat} {othersBad : Bool} {s : State} (h : s.TablesOk) :
    Res.Ok (execFiniteCheck ctx othersBad s) := by
  unfold Machine.execFiniteCheck
  split
  · extract_lets -underBinder -merge step stats others bad s1 s2
    have h1 : s1.TablesOk := .clearGroupSet h
    have h2 : s2.TablesOk := .eachDo (fun _ _ hs => .ringSend hs) h1
    exact .ite (.started (.next (.endProgram h2))) (.next (.opDone h2))
  · exact .next h

theorem State.TablesOk.runUpdate {s : State} (h : s.TablesOk) {ctx : Nat} {o : Bytes} {tiles : List Nat} :
    (s.runUpdate ctx o tiles).TablesOk := by
  unfold State.runUpdate
  extract_lets -underBinder -merge u
  generalize s.gatherUpdate u tiles = d
  obtain ⟨g, old⟩ := d
  dsimp -zeta only
  extract_lets -underBinder -merge new next s1 s2
  have h1 : s1.TablesOk := .ite h (.countF8 h)
  exact .ite (.endProgram h1) (.modCtx (.opDone (.eachDo (fun _ _ hs => .tileWrites hs) h1)))

theorem State.TablesOk.bankRead {s : State} (h : s.TablesOk) {tiles : List Nat} {tile : Nat} {line : HbmOutcome} {go : State → State}
    (hgo : ∀ ⦃s⦄, s.TablesOk → (go s).TablesOk) :
    (s.bankRead tiles tile line go).TablesOk := by
  unfold State.bankRead
  split
  · exact hgo h
  · split
    · exact hgo (.sramSingle h)
    · exact .sramDouble h
    · exact hgo h

theorem Res.Ok.execUpdate {ctx : Nat} {s : State} (h : s.TablesOk) {tile : Nat} {line : HbmOutcome} :
    Res.Ok (execUpdate ctx s tile line) := by
  unfold Machine.execUpdate
  split
  · extract_lets -underBinder -merge u tiles
    split
    · exact .started (.next (.endProgram h))
    · split
      · exact .fault
      · split
        · exact .fault
        · split
          · exact .fault
          · exact .ite .fault (.started (.next (.bankRead h (fun _ hs => .runUpdate hs))))
  · exact .next h

theorem State.TablesOk.lehrWrite {s : State} (h : s.TablesOk) {c : Ctx} {o : Bytes} : (s.lehrWrite c o).TablesOk :=
  .withMem h (Memory.wf_writeWords h.mem _ _)

theorem Res.Ok.execCommit {ctx : Nat} {s : State} (h : s.TablesOk) {tile : Nat} {line : HbmOutcome} :
    Res.Ok (execCommit ctx s tile line) := by
  unfold Machine.execCommit
  split
  · extract_lets -underBinder -merge b step log room record read
    split
    · exact .started (.next (.endProgram h))
    · exact .started (.next (.bankRead h (fun _ hs => .modCtx (.opDone (.withMem (.eachDo (fun _ _ ht => .lehrWrite ht) hs)
        (Memory.wf_writeBytes (State.TablesOk.eachDo (fun _ _ ht => .lehrWrite ht) hs).mem _ _))))))
  · exact .next h

/-! ## Windows -/

theorem State.TablesOk.setWindow {s : State} (h : s.TablesOk) {ctx w : Nat} {x : Window} : (s.setWindow ctx w x).TablesOk := .modCtx h

theorem Res.Ok.execMapWindowInbound {c : Cmd} {window address length : Nat} {s : State} (h : s.TablesOk) : Res.Ok
    (execMapWindowInbound c window address length s) := by
  refine .gaffer (fun _ _ hs => ?_) h
  split
  · exact .next (.answer hs)
  · exact .ite (.next (.answer hs)) (.next (.answerWith (.setWindow (.fresh hs))))

theorem Res.Ok.execMapWindowOutbound {c : Cmd} {window : Nat} {host : Region} {s : State} (h : s.TablesOk) : Res.Ok
    (execMapWindowOutbound c window host s) := by
  refine .gaffer (fun _ _ hs => ?_) h
  split
  · exact .next (.answer hs)
  · exact .ite (.next (.answer hs)) (.next (.answer (.setWindow hs)))

theorem Res.Ok.execMapWindowPresent {c : Cmd} {window first pages : Nat} {present : Bool} {s : State} (h : s.TablesOk) : Res.Ok
    (execMapWindowPresent c window first pages present s) := by
  refine .gaffer (fun _ _ hs => ?_) h
  split
  · exact .next (.answer hs)
  · split
    · exact .next (.answer (.setWindow hs))
    · exact .next (.answer hs)

theorem Res.Ok.execMapWindowUnmap {c : Cmd} {window : Nat} {s : State} (h : s.TablesOk) : Res.Ok (execMapWindowUnmap c window s) := by
  refine .gaffer (fun _ _ hs => ?_) h
  split
  · exact .next (.answer hs)
  · split
    · exact .next (.answer hs)
    · exact .ite (.next (.answer hs)) (.next (.answer (.modCtx hs)))

/-! ## Round -/

theorem Res.Ok.execSendReceived {qp : Nat} {packet : Bytes} {s : State} (h : s.TablesOk) : Res.Ok (execSendReceived qp packet s) := by
  unfold Machine.execSendReceived
  split
  · exact .next h
  · split
    · exact .next h
    · split
      · exact .thenReset (.settled (.next (.wakeTrigger (.qpError (.emit h)))))
      · split
        · exact .next (.wakeTrigger (.drainQp (.modQp h)))
        · exact .next (.wakeTrigger (.drainQp (.emit h)))

theorem State.TablesOk.takeFrom {s : State} (h : s.TablesOk) {k : Nat × Nat × Nat} : (s.takeFrom k).2.TablesOk := by
  unfold State.takeFrom
  split
  · exact .modQp (.ite h (.countError h))
  · exact h

theorem State.TablesOk.formRound {l : List (Nat × Nat × Nat)} {s : State} (h : s.TablesOk) : (State.formRound l s).2.TablesOk := by
  induction l generalizing s with
  | nil => exact h
  | cons k l ih => exact ih (.takeFrom h)

theorem Res.Ok.applyCommand {i : Instr} {s : State} (h : s.TablesOk) : Res.Ok (applyCommand i s) := by
  unfold Machine.applyCommand
  split
  · exact .execHello h
  · exact .execOpenSession h
  · exact .takeCloseSession h
  · exact .execKeyAdd h
  · exact .execKeyRemove h
  · exact .execContextCreate h
  · exact .execContextDestroy h
  · exact .execContextReset h
  · exact .execContextSuspend h
  · exact .execContextResume h
  · exact .execContextShares h
  · exact .execVariantCreate h
  · exact .execVariantDestroy h
  · exact .execVariantImport h
  · exact .execVariantExport h
  · exact .execEvict h
  · exact .execEvictForce h
  · exact .execExpertAttach h
  · exact .execExpertDetach h
  · exact .execStep h
  · exact .execEval h
  · exact .execSetRule h
  · exact .execFreeze h
  · exact .execThaw h
  · exact .execCheckpoint h
  · exact .execRestore h
  · exact .execReplay h
  · exact .execSubmit h
  · exact .execCancel h
  · exact .execMapWindowInbound h
  · exact .execMapWindowOutbound h
  · exact .execMapWindowPresent h
  · exact .execMapWindowUnmap h
  · exact .execLoadProgram h
  · exact .execRunProgram h
  · exact .execStreamOpen h
  · exact .execStreamOpenResume h
  · exact .execStreamClose h
  · exact .execRingJoin h
  · exact .execRingLeave h
  · exact .execQuery h
  · exact .execCounters h
  · exact .execCountersClear h
  · exact .execPowerStatus h
  · exact .takeSelectProfile h
  · exact .takeSelectProfile h
  · exact .execFwStage h
  · exact .takeFwActivate h
  · exact .execAttest h
  · exact .execRetireTile h
  · exact .execFaultRecordRead h
  · exact .execBaseLoad h
  · exact .next h

theorem Res.Ok.refusePacket {c : Cmd} {op status : Nat} {s : State} (h : s.TablesOk) : Res.Ok (refusePacket c op status s) := by
  unfold Machine.refusePacket
  split
  · split
    · split
      · exact .ite .fault (.next (.refuse h))
      · exact .next (.replyBare h)
    · exact .next (.replyBare h)
  · exact .next h

theorem Res.Ok.applyMalformed {c : Cmd} {op : Nat} {s : State} (h : s.TablesOk) : Res.Ok (applyMalformed c op s) := by
  unfold Machine.applyMalformed
  split
  · exact .next h
  · split
    · split
      · exact .gaffer (fun _ _ hs => .fault) h
      · exact .fault
    · split
      · exact .ite .fault (.refusePacket h)
      · exact .gaffer (fun _ _ hs => .fault) h

theorem Res.Ok.applyPacket {t : Taken} {s : State} (h : s.TablesOk) : Res.Ok (applyPacket t s) := by
  unfold Machine.applyPacket
  extract_lets -underBinder -merge op c
  split
  · exact .refusePacket h
  · split
    · exact .refusePacket h
    · split
      · exact .applyCommand h
      · exact .applyMalformed h
      · exact .gaffer (fun _ _ hs => .next (.answerWith hs)) h

theorem State.TablesOk.takeAutos {s : State} (h : s.TablesOk) : s.takeAutos.TablesOk := .eachDo (fun _ _ hs => .takeAuto hs) h

theorem Res.Ok.applyTaken {t : Taken} {s : State} (h : s.TablesOk) : Res.Ok (applyTaken t s) := .applyPacket (.ite (.rest h) h)

theorem Res.Ok.execIntakeRound {s : State} (h : s.TablesOk) : Res.Ok (execIntakeRound s) := by
  unfold Machine.execIntakeRound
  split
  · exact .thenReset (.settled (.bind (.each (fun _ _ hs => .applyTaken hs) (.rest (.formRound (.rest h))))
      (fun _ hs => .next (.goOffline (.takeAutos hs)))))
  · exact .next h

theorem Res.Ok.execAutomaticStep {variant : Nat} {s : State} (h : s.TablesOk) : Res.Ok (execAutomaticStep variant s) :=
  .ite (.thenReset (.settled (.next (.goOffline (.takeAutos (.rest h)))))) (.next h)

/-! ## Dispatch -/

/-- Every command keeps the tables in order. -/
theorem Res.Ok.exec {i : Instr} {s : State} (h : s.TablesOk) : Res.Ok (exec i s) := by
  cases i with
  | sendReceived => exact .execSendReceived h
  | intakeRound => exact .execIntakeRound h
  | hello => exact .execHello h
  | openSession => exact .execOpenSession h
  | closeSession => exact .execCloseSession h
  | keyAdd => exact .execKeyAdd h
  | keyRemove => exact .execKeyRemove h
  | contextCreate => exact .execContextCreate h
  | contextCreateComplete => exact .execContextCreateComplete h
  | contextDestroy => exact .execContextDestroy h
  | destroyComplete => exact .execDestroyComplete h
  | contextReset => exact .execContextReset h
  | resetComplete => exact .execResetComplete h
  | contextSuspend => exact .execContextSuspend h
  | contextResume => exact .execContextResume h
  | contextShares => exact .execContextShares h
  | transportUnitStop => exact .execTransportUnitStop h
  | variantCreate => exact .execVariantCreate h
  | variantDestroy => exact .execVariantDestroy h
  | variantImport => exact .execVariantImport h
  | variantExport => exact .execVariantExport h
  | evict => exact .execEvict h
  | evictForce => exact .execEvictForce h
  | expertAttach => exact .execExpertAttach h
  | expertDetach => exact .execExpertDetach h
  | step => exact .execStep h
  | eval => exact .execEval h
  | setRule => exact .execSetRule h
  | freeze => exact .execFreeze h
  | thaw => exact .execThaw h
  | checkpoint => exact .execCheckpoint h
  | restore => exact .execRestore h
  | replay => exact .execReplay h
  | submit => exact .execSubmit h
  | cancel => exact .execCancel h
  | mapWindowInbound => exact .execMapWindowInbound h
  | mapWindowOutbound => exact .execMapWindowOutbound h
  | mapWindowPresent => exact .execMapWindowPresent h
  | mapWindowUnmap => exact .execMapWindowUnmap h
  | loadProgram => exact .execLoadProgram h
  | runProgram => exact .execRunProgram h
  | streamOpen => exact .execStreamOpen h
  | streamOpenResume => exact .execStreamOpenResume h
  | streamClose => exact .execStreamClose h
  | ringJoin => exact .execRingJoin h
  | ringLeave => exact .execRingLeave h
  | query => exact .execQuery h
  | counters => exact .execCounters h
  | countersClear => exact .execCountersClear h
  | powerStatus => exact .execPowerStatus h
  | selectProfile => exact .execSelectProfile h
  | selectProfileReset => exact .execSelectProfileReset h
  | fwStage => exact .execFwStage h
  | fwStageCheckDone => exact .execFwStageCheckDone h
  | fwActivate => exact .execFwActivate h
  | fwActivateTimeout => exact .execFwActivateTimeout h
  | gafferReturn => exact .execGafferReturn h
  | attest => exact .execAttest h
  | retireTile => exact .execRetireTile h
  | faultRecordRead => exact .execFaultRecordRead h
  | baseLoad => exact .execBaseLoad h
  | baseLoadComplete => exact .execBaseLoadComplete h
  | eventPacketSend => exact .execEventPacketSend h
  | array => exact .execArray h
  | stream => exact .execStream h
  | waitStream => exact .execWaitStream h
  | waitTile => exact .execWaitTile h
  | boundary => exact .execBoundary h
  | rounding => exact .execRounding h
  | derivative => exact .execDerivative h
  | finiteCheck => exact .execFiniteCheck h
  | update => exact .execUpdate h
  | commit => exact .execCommit h
  | nop => exact .execNop h
  | matmul => exact .execMatmul h
  | elementwise => exact .execElementwise h
  | marverFill => exact .execMarverFill h
  | tileNapEntry => exact .execTileNapEntry h
  | tileWakeComplete => exact .execTileWakeComplete h
  | unitStart => exact .execUnitStart h
  | unitEnd => exact .execUnitEnd h
  | layerForwardEnd => exact .execLayerForwardEnd h
  | spillWriteComplete => exact .execSpillWriteComplete h
  | stashBringBack => exact .execStashBringBack h
  | layerContinue => exact .execLayerContinue h
  | holdLimitExpiry => exact .execHoldLimitExpiry h
  | fwdOut => exact .execFwdOut h
  | fwdBack => exact .execFwdBack h
  | bwdOut => exact .execBwdOut h
  | bwdBack => exact .execBwdBack h
  | bounce => exact .execBounce h
  | bundleRun => exact .execBundleRun h
  | bundleRunEnd => exact .execBundleRunEnd h
  | expertReplacementDone => exact .execExpertReplacementDone h
  | check => exact .execCheck h
  | updateLayer => exact .execUpdateLayer h
  | vote => exact .execVote h
  | flip => exact .execFlip h
  | headerWriteComplete => exact .execHeaderWriteComplete h
  | automaticStep => exact .execAutomaticStep h
  | loadPartPlaced => exact .execLoadPartPlaced h
  | writeOutComplete => exact .execWriteOutComplete h
  | streamReserve => exact .execStreamReserve h
  | copy => exact .execCopy h
  | strided => exact .execStrided h
  | reduceHop => exact .execReduceHop h
  | rotate => exact .execRotate h
  | pageOut => exact .execPageOut h
  | pageIn => exact .execPageIn h
  | transferLand => exact .execTransferLand h
  | streamStall => exact .execStreamStall h
  | patrolScrub => exact .execPatrolScrub h
  | frameForward => exact .execFrameForward h
  | caneStreamFrame => exact .execCaneStreamFrame h
  | reduce => exact .execReduce h
  | rollCallCollect => exact .execRollCallCollect h
  | rollCallPublish => exact .execRollCallPublish h
  | announce => exact .execAnnounce h
  | lldp => exact .execLldp h
  | rekey => exact .execRekey h
  | idle => exact .execIdle h
  | rekeyDue => exact .execRekeyDue h
  | ringSignalLoss => exact .execRingSignalLoss h
  | linkEstablished => exact .execLinkEstablished h
  | linkHoldExpiry => exact .execLinkHoldExpiry h
  | berWindow => exact .execBerWindow h
  | eqAdapt => exact .execEqAdapt h
  | rollCallTimer => exact .execRollCallTimer h
  | collectPassTimeout => exact .execCollectPassTimeout h
  | anchorLost => exact .execAnchorLost h
  | anchorBackoffExpiry => exact .execAnchorBackoffExpiry h
  | noRingTimeout => exact .execNoRingTimeout h
  | joinQuietPasses => exact .execJoinQuietPasses h
  | bypassSettled => exact .execBypassSettled h
  | leaveDrained => exact .execLeaveDrained h
  | lldpTimer => exact .execLldpTimer h
  | rocePacketReceive => exact .execRocePacketReceive h
  | cnpReceive => exact .execCnpReceive h
  | cnpRateTimer => exact .execCnpRateTimer h
  | pfcFrameReceive => exact .execPfcFrameReceive h
  | cmConnect => exact .execCmConnect h
  | fabricPortDown => exact .execFabricPortDown h
  | inboundRdmaAccess => exact .execInboundRdmaAccess h
  | crossingTimeout => exact .execCrossingTimeout h
  | quietEntry => exact .execQuietEntry h
  | dormantEntry => exact .execDormantEntry h
  | wakeComplete => exact .execWakeComplete h
  | voltageLoopPeriod => exact .execVoltageLoopPeriod h
  | frequencyLoopPeriod => exact .execFrequencyLoopPeriod h
  | thresholdLoopPeriod => exact .execThresholdLoopPeriod h
  | supplyDroop => exact .execSupplyDroop h
  | powerCapWindow => exact .execPowerCapWindow h
  | powerReportWindow => exact .execPowerReportWindow h
  | temperatureLevelChange => exact .execTemperatureLevelChange h
  | nrstAssert => exact .execNrstAssert h
  | nrstRelease => exact .execNrstRelease h
  | profileResetRelease => exact .execProfileResetRelease h
  | inputLoss => exact .execInputLoss h
  | overvoltage => exact .execOvervoltage h
  | powerOn => exact .execPowerOn h
  | strapSample => exact .execStrapSample h
  | startupStepComplete => exact .execStartupStepComplete h
  | entropyHealthFail => exact .execEntropyHealthFail h
  | drbgReseed => exact .execDrbgReseed h
  | frIndexWrite => exact .execFrIndexWrite h
  | bmbRegisterWrite => exact .execBmbRegisterWrite h
  | fabricPortLinkUp => exact .execFabricPortLinkUp h
  | transportError => exact .execTransportError h
  | caneTrainingFailed => exact .execCaneTrainingFailed h

/-- Every step keeps the tables in order. -/
theorem Res.Ok.step {s : State} (h : s.TablesOk) : Res.Ok (step s) := by
  unfold Machine.step
  split
  · exact .next h
  · exact .exec (.rest h)

/-- Settles O3: each operation has its rule, and a step is one command's. -/
theorem stepKeepsTablesInOrder : Obligations.step_keeps_tables_in_order :=
  fun _ t h ht => Res.Ok.step h t ht

end Sys2Proof.Machine
end

section
/-! PROOFS. The block as a whole: its step and its state after reset. -/

namespace Sys2Proof.Machine

/-- Settles O1: it is what a step is. -/
theorem stepRunsTheFrontCommand : Obligations.step_runs_the_front_command :=
  ⟨fun _ _ _ => rfl, fun s h => by simp [step, h]⟩

/-- Settles O2: every table is empty at reset, and an empty table is in order. -/
theorem resetStateIsClosedAndInOrder : Obligations.reset_state_is_closed_and_in_order :=
  ⟨⟨fun _ => rfl, fun _ => rfl, rfl, rfl, rfl, rfl, rfl, rfl, rfl⟩, .reset⟩

end Sys2Proof.Machine
end

section
/-! PROOFS. Commands of the protocol that are answered at once: COUNTERS with CLEAR, and the session group. -/

namespace Sys2Proof.Machine

/-! ## The answer of a command that the gaffer takes -/

/-- The answer to a command just taken is the last that has left the module, and its session awaits it no more. -/
theorem answerWith_last {s u : State} {k : OpSpec} {op : Nat} {c : Cmd} {n st : Nat} {ss : Session} {p : List (Nat × Bytes)}
    (h : Takes k c n ss s) (hc : Clear s ss)
    (hu : u.sessions = (s.awaiting c op n).sessions) (hq : u.qps = s.qps) (hp : u.ports = s.ports) (hr : u.profile = s.profile) :
    ∃ r : Tab Session, u.answerWith (ticketOf c op n ss.serial) st p = { u with out := u.out ++ [s.replyTo c op st p], sessions := r } ∧
      ∀ m, r.find m = s.sessions.find m := by
  obtain ⟨⟨_, hsess⟩, heq⟩ := answerWith_sendsOnly (s := { s with out := u.out }) (op := op) (st := st) (p := p) h.session h.fresh hc hu hq
    hp hr rfl
  exact ⟨_, heq, hsess⟩

/-- The answer to a command just taken adds its reply to what has left the module, where nothing else left it. -/
theorem answerWith_awaiting {s u : State} {k : OpSpec} {op : Nat} {c : Cmd} {n st : Nat} {ss : Session} {p : List (Nat × Bytes)}
    (h : Takes k c n ss s) (hc : Clear s ss)
    (hu : u.sessions = (s.awaiting c op n).sessions) (hq : u.qps = s.qps) (hp : u.ports = s.ports) (hr : u.profile = s.profile)
    (ho : u.out = s.out) :
    ∃ r : Tab Session, u.answerWith (ticketOf c op n ss.serial) st p = { u with out := s.out ++ [s.replyTo c op st p], sessions := r } ∧
      ∀ m, r.find m = s.sessions.find m :=
  ho ▸ answerWith_last h hc hu hq hp hr

/-- A command whose work ends with an answer is answered at once where nothing waits before it, and what its work left, `u`, changes no
more but in what has left the module and in its sessions. -/
theorem exec_answers {i : Instr} {k : OpSpec} {c : Cmd} {n op st : Nat} {ss : Session} {s u : State} {p : List (Nat × Bytes)}
    {body : Ticket → Session → State → Res} (h : Takes k c n ss s) (hc : Clear s ss) (hi : exec i s = gafferWith k c body s)
    (hbody : body (ticketOf c op n ss.serial) ss (s.awaiting c op n) = .next (u.answerWith (ticketOf c op n ss.serial) st p))
    (hu : u.sessions = (s.awaiting c op n).sessions) (hq : u.qps = s.qps) (hp : u.ports = s.ports) (hr : u.profile = s.profile)
    (ho : u.out = s.out) (hop : k.op = op := by rfl) :
    ∃ t : State, exec i s = .next t ∧ SendsOnly (s.replyTo c op st p) s t ∧ t = { u with out := t.out, sessions := t.sessions } := by
  obtain ⟨hsend, heq⟩ := answerWith_sendsOnly (p := p) (st := st) h.session h.fresh hc hu hq hp hr ho
  subst hop
  refine ⟨_, hi.trans ((gafferWith_takes h body).trans hbody), hsend, ?_⟩
  rw [heq]

/-- A command that is answered and does nothing else. -/
theorem exec_only_answers {i : Instr} {k : OpSpec} {c : Cmd} {n op st : Nat} {ss : Session} {s : State} {p : List (Nat × Bytes)}
    {body : Ticket → Session → State → Res} (h : Takes k c n ss s) (hc : Clear s ss) (hi : exec i s = gafferWith k c body s)
    (hbody : body (ticketOf c op n ss.serial) ss (s.awaiting c op n) =
      .next ((s.awaiting c op n).answerWith (ticketOf c op n ss.serial) st p)) (hop : k.op = op := by rfl) :
    ∃ t : State, exec i s = .next t ∧ SendsOnly (s.replyTo c op st p) s t ∧ t = { s with out := t.out, sessions := t.sessions } :=
  exec_answers (u := s.awaiting c op n) h hc hi hbody rfl rfl rfl rfl rfl hop

/-! ## COUNTERS with CLEAR (R366, R405) -/

/-- Settles O7: the answer carries the values, and then every counter of the error class is replaced by zero. -/
theorem countersClearClearsErrorsOnly : Obligations.counters_clear_clears_errors_only := by
  intro s c n ss hc h hrole
  obtain ⟨hsend, heq⟩ := answerWith_sendsOnly (op := opCounters) (st := stOk) (p := [(0x81, s.counterRecords 0 c.ctx)])
    (u := s.awaiting c opCounters n) h.session h.fresh hc rfl rfl rfl rfl rfl
  have hexec : exec (.countersClear c 0) s = .next (((s.awaiting c opCounters n).answerWith (ticketOf c opCounters n ss.serial) stOk
      [(0x81, s.counterRecords 0 c.ctx)]).clearErrors 0) := by
    rw [exec, execCountersClear, gafferWith_takes h, hrole]
    rfl
  have hcounters : ((s.awaiting c opCounters n).answerWith (ticketOf c opCounters n ss.serial) stOk
      [(0x81, s.counterRecords 0 c.ctx)]).counters = s.counters := by rw [heq]; rfl
  refine ⟨_, hexec, hsend, fun id => ?_, fun e => ?_, ?_⟩
  · simp only [State.clearErrors, if_true, Tab.getOr, Tab.find_each, hcounters]
    cases s.counters.find id <;> simp
  · simp only [State.clearErrors, if_true, Tab.getOr, Tab.find_each]
    cases (State.stalls _).find e <;> rfl
  · simp only [State.clearErrors, if_true]
    rw [heq]
    rfl

/-! ## HELLO (R303) -/

/-- Without an offer of major 1 no minor is offered. -/
theorem offeredMinor_eq_none {offers : List (Nat × Nat)} (h : ∀ o ∈ offers, o.1 ≠ 1) : offeredMinor offers = none := by
  have : offers.filter (fun o => decide (o.1 = 1)) = [] := by simpa [List.filter_eq_nil_iff] using h
  simp [offeredMinor, this]

/-- The minor offered is the highest that major 1 is offered with. -/
theorem offeredMinor_eq_some {offers : List (Nat × Nat)} {m : Nat} (hm : (1, m) ∈ offers) (hmax : ∀ o ∈ offers, o.1 = 1 → o.2 ≤ m) :
    offeredMinor offers = some m := by
  have hmem : m ∈ (offers.filter (fun o => decide (o.1 = 1))).map (fun o => o.2) := by simpa using hm
  have hle : ∀ x ∈ (offers.filter (fun o => decide (o.1 = 1))).map (fun o => o.2), x ≤ m := by
    simpa using fun x hx => hmax (1, x) hx rfl
  unfold offeredMinor
  split
  case h_1 he => simp [he] at hmem
  case h_2 a l he =>
    rw [← List.max?_cons', ← he]
    exact List.max?_eq_some_iff.2 ⟨hmem, hle⟩

/-- HELLO on a queue pair that carries no session is answered at once. -/
theorem exec_hello_bare {s : State} {c : Cmd} {offers : List (Nat × Nat)} {q : Qp} (hq : s.reaches c.qp = some q)
    (hst : q.st = .hello ∨ q.st = .openState) (ho : offers ≠ []) :
    exec (.hello c offers) s =
      if 8 < offers.length then .next (s.emit (s.replyTo c opHello stNotPermitted [])) else .next (s.greet c q offers) := by
  rcases hst with h | h <;> simp [exec, execHello, hq, h, ho] <;> rfl

/-- HELLO on a queue pair that carries a session is a command the gaffer takes. -/
theorem exec_hello_session {s : State} {c : Cmd} {offers : List (Nat × Nat)} {q : Qp} {n : Nat} (hq : s.reaches c.qp = some q)
    (hst : q.st = .session n) (ho : offers ≠ []) :
    exec (.hello c offers) s = gafferWith (specOf opHello) c (fun t _ s =>
      if 8 < offers.length then .next (s.answerWith t stNotPermitted []) else .next (s.answerWith t stOk (s.helloParams q.minor))) s := by
  simp only [exec, execHello, hq, hst, ho, if_false]
  rfl

/-- Settles O8: the state of the queue pair decides which branch HELLO takes, and the offers decide its answer. -/
theorem helloAgreesAMinor : Obligations.hello_agrees_a_minor := by
  intro s c offers q hq
  refine ⟨fun hst ho => ?_, fun hst ho => ?_, fun n ss hst hc h ho => ?_⟩
  · rw [exec_hello_bare hq (.inr hst) ho]
    refine ⟨fun hlen => if_pos hlen, fun hlen => ?_⟩
    rw [if_neg (Nat.not_lt.mpr hlen), State.greet, if_pos (by simp [hst])]
    rfl
  · rw [exec_hello_bare hq (.inl hst) ho]
    refine ⟨fun hlen => if_pos hlen, fun hlen hno => ?_, fun m hlen hm hmax hfind => ?_⟩
    · rw [if_neg (Nat.not_lt.mpr hlen), State.greet, if_neg (by simp [hst]), offeredMinor_eq_none hno]
      rfl
    · have hgreet : s.greet c q offers = (s.modQp c.qp (fun q => { q with st := .openState, minor := min m s.fwMinor })).replyBare c
          opHello stOk (s.helloParams (min m s.fwMinor)) := by
        rw [State.greet, if_neg (by simp [hst]), offeredMinor_eq_some hm hmax]
      rw [if_neg (Nat.not_lt.mpr hlen), hgreet]
      refine ⟨_, rfl, ?_, fun k hk => ?_, rfl⟩
      · simp [State.replyBare, Tab.find_modify, hfind]
      · simp [State.replyBare, Tab.find_modify, Ne.symm hk]
  · have hexec := exec_hello_session hq hst ho
    by_cases hlen : 8 < offers.length
    · simp only [if_pos hlen] at hexec
      obtain ⟨t, ht, hsend, heq⟩ := exec_only_answers h hc hexec rfl
      exact ⟨t, ht, fun h => absurd hlen (Nat.not_lt.mpr h), fun _ => hsend, heq⟩
    · simp only [if_neg hlen] at hexec
      obtain ⟨t, ht, hsend, heq⟩ := exec_only_answers h hc hexec rfl
      exact ⟨t, ht, fun _ => hsend, fun h => absurd h hlen, heq⟩

/-! ## OPEN_SESSION (R306) -/

/-- OPEN_SESSION of a known role on a queue pair in the OPEN state is decided by its key. -/
theorem exec_openSession_open {s : State} {c : Cmd} {role : Nat} {key : Bytes} {q : Qp} (hq : s.reaches c.qp = some q)
    (hst : q.st = .openState) (hrole : role ≤ 1) : exec (.openSession c role key) s = .next (s.openOn c role key) := by
  simp [exec, execOpenSession, hq, hst, Nat.not_lt.mpr hrole]

/-- A key is accepted where one of the digests of its role and context is its own. -/
theorem any_accepts_iff {l : List KeySlot} {key : Bytes} :
    l.any (fun k => k.accepts key) = true ↔ ∃ k ∈ l, sha384 (k.salt ++ key) = k.digest := by
  simp [KeySlot.accepts]

theorem State.countError_qps (s : State) (id n : Nat) : (s.countError id n).qps = s.qps := by
  dsimp only [State.countError]
  split <;> rfl

/-- A final reply reads no more of the module than the minor of its queue pair. -/
theorem State.replyTo_congr {s t : State} {c : Cmd} (h : t.minorOf c.qp = s.minorOf c.qp) (op st : Nat) (p : List (Nat × Bytes)) :
    t.replyTo c op st p = s.replyTo c op st p := by
  simp [State.replyTo, State.replyOf, ticketOf, h]

/-- Settles O9: the key decides, and then the lowest free number. -/
theorem openSessionByKey : Obligations.open_session_by_key := by
  intro s c role key q hq hfind hst hrole
  rw [exec_openSession_open hq hst hrole, ← any_accepts_iff]
  refine ⟨fun hkey => ?_, fun hkey => ⟨fun hfull => ?_, fun m hm => ?_⟩⟩
  · have hminor : (s.countError cAuthFailures 1).minorOf c.qp = s.minorOf c.qp := by rw [State.minorOf, State.countError_qps]; rfl
    rw [State.openOn, if_pos (by simpa using hkey), ← State.replyTo_congr hminor]
    rfl
  · rw [State.openOn, if_neg (by simp [hkey]), hfull]
    rfl
  · let first := newSession s.nextId c.qp (if role = 0 then .operator else .tenant c.ctx)
    let opened := if role = 0 && s.power.ready then first.push readyEvent else first
    have hopen : s.openOn c role key = { s with
        nextId := s.nextId + 1, qps := s.qps.modify c.qp (fun q => { q with st := .session m })
        out := s.out ++ [s.replyTo c opOpenSession stOk (s.openParams m c.ctx first)], sessions := s.sessions.put m opened } := by
      have hminor : ((s.fresh.2).modQp c.qp (fun q => { q with st := .session m })).minorOf c.qp = s.minorOf c.qp := by
        simp [State.minorOf, State.fresh, Tab.find_modify, hfind]
      rw [State.openOn, if_neg (by simp [hkey]), hm, ← State.replyTo_congr hminor]
      rfl
    have hfirst : opened = first ∨ opened = first.push readyEvent := by
      simp only [opened]
      split <;> simp
    have hkept : opened.role = first.role ∧ opened.qp = first.qp ∧ opened.awaiting = first.awaiting := by
      rcases hfirst with h | h <;> rw [h]
      · exact ⟨rfl, rfl, rfl⟩
      · exact ⟨rfl, rfl, rfl⟩
    rw [hopen]
    refine ⟨_, opened, s.openParams m c.ctx first, rfl, ?_, ?_, hkept.1, hkept.2.1, hkept.2.2, fun k hk => ?_, rfl⟩
    · simp [Tab.find_modify, hfind]
    · simp
    · simp [Tab.find_put, Ne.symm hk]

/-! ## CLOSE_SESSION (R308) -/

/-- No entry is kept where none has the property. -/
theorem Tab.keep_eq_nil {α : Type} {t : Tab α} {p : Nat → α → Bool} (h : ∀ x ∈ t, p x.1 x.2 = false) : t.keep p = [] := by
  simpa [Tab.keep, List.filter_eq_nil_iff] using h

/-- Where no parked use is taken away, nothing changes. -/
theorem State.unpark_of_none {s : State} {p : Parked → Bool} (f : Parked → State → State) (h : ∀ x ∈ s.park, p x = false) :
    s.unpark p f = s := by
  have hgone : s.park.filter p = [] := by simpa [List.filter_eq_nil_iff] using h
  have hkeep : s.park.filter (fun x => !p x) = s.park := by simpa [List.filter_eq_self] using h
  simp only [State.unpark, hgone, hkeep]
  rfl

theorem State.cancelParked_of_none {s : State} {p : Parked → Bool} (h : ∀ x ∈ s.park, p x = false) : s.cancelParked p = s :=
  State.unpark_of_none _ fun x hx => by simp [h x hx]

theorem State.cancelParkedEval_of_none {s : State} {p : Parked → Bool} (h : ∀ x ∈ s.park, p x = false) : s.cancelParkedEval p = s :=
  State.unpark_of_none _ fun x hx => by simp [h x hx]

/-- A session with nothing to send, no request, no parked use and no evaluation leaves only its queue pair behind. -/
theorem State.closeSession_idle {s : State} {n : Nat} {ss : Session} (flush : Bool) (next : QpState) (hn : s.sessions.find n = some ss)
    (he : ss.egress = []) (hr : ∀ p ∈ s.requests, p.2.ticket.serial ≠ ss.serial) (hp : ∀ p ∈ s.park, p.ticket.serial ≠ ss.serial)
    (hv : ∀ p ∈ s.evals, p.2.ticket.serial ≠ ss.serial) :
    s.closeSession n flush next =
      { s with sessions := s.sessions.del n, qps := s.qps.modify ss.qp (fun q => { q with st := next }) } := by
  have hflush : (if flush then eachDo ss.replies (fun p s => s.emit (.packet p)) s else s) = s := by
    cases flush <;> simp [Session.replies, he, eachDo]
  have hreq : s.requests.keep (fun _ r => decide (r.ticket.serial = ss.serial)) = [] :=
    Tab.keep_eq_nil fun x hx => decide_eq_false (hr x hx)
  have hev : s.evals.keep (fun _ e => decide (e.ticket.serial = ss.serial) && decide (0 < e.every)) = [] :=
    Tab.keep_eq_nil fun x hx => by simp [hv x hx]
  have hpark : ∀ x ∈ s.park, decide (x.ticket.serial = ss.serial) = false := fun x hx => decide_eq_false (hp x hx)
  simp only [State.closeSession, hn, hflush]
  let left : State := { s with sessions := s.sessions.del n, qps := s.qps.modify ss.qp (fun q => { q with st := next }) }
  have hsub : left.cancelParked (fun p => decide (p.ticket.serial = ss.serial)) = left := State.cancelParked_of_none hpark
  have heval : left.cancelParkedEval (fun p => decide (p.ticket.serial = ss.serial)) = left := State.cancelParkedEval_of_none hpark
  simp only [left] at hsub heval
  simp only [State.requestsFor, State.modQp, hreq, Tab.keys, List.map_nil, eachDo, List.foldl_nil, hsub, heval]
  simp only [State.evalsFor, hev, Tab.keys, List.map_nil, List.foldl_nil]

/-- Settles O10: the reply has left before the session is closed. -/
theorem closeSessionEndsIt : Obligations.close_session_ends_it := by
  intro s c n ss q h hc hqp hfind hreq hpark hev
  obtain ⟨r, hans, hr⟩ := answerWith_awaiting (op := opCloseSession) (st := stOk) (p := []) (u := s.awaiting c opCloseSession n)
    h hc rfl rfl rfl rfl rfl
  have hexec : exec (.closeSession c) s =
      .next (((s.awaiting c opCloseSession n).answerWith (ticketOf c opCloseSession n ss.serial) stOk []).closeSession n true
        .openState).settle.resetIfDue := by
    rw [exec, execCloseSession, takeCloseSession, gaffer, gafferWith_takes h]
    rfl
  have hclosed := State.closeSession_idle (ss := ss) (s := { s with out := s.out ++ [s.replyTo c opCloseSession stOk []], sessions := r })
    true .openState ((hr n).trans h.session) hc.1 hreq hpark hev
  rw [hans] at hexec
  simp only [State.awaiting, State.modSession, hclosed] at hexec
  refine ⟨_, hexec, by simp [Tab.find_del], fun m hm => ?_, ?_, rfl⟩
  · simp [Tab.find_del, Ne.symm hm, hr]
  · simp [State.awaiting, Tab.find_modify, hqp, hfind]

/-! ## KEY_ADD and KEY_REMOVE (R304, R305) -/

/-- Settles O11: what the work of each changes is the operator's keys, or those of the header context. -/
theorem sessionKeysAreKept : Obligations.session_keys_are_kept := by
  refine ⟨fun s c n ss salt digest slot hc => ⟨fun h => ⟨fun hfull => ?_, fun m hm => ?_⟩, fun h hslot => ⟨fun hlast => ?_, fun hother => ?_⟩⟩,
    fun s c n ss x salt digest slot hc hx => ⟨fun h m hm => ?_, fun h hslot => ?_⟩⟩
  · refine exec_only_answers h hc (show _ = execKeyAdd c 0 salt digest s from rfl) ?_
    simp [hfull, State.awaiting]
    rfl
  · refine exec_answers (i := .keyAdd c 0 salt digest) (op := opKeyAdd)
      (u := (s.awaiting c opKeyAdd n).modFlash (fun f => { f with operatorKeys := f.operatorKeys.put m ⟨salt, digest⟩ })) h hc
      (show _ = execKeyAdd c 0 salt digest s from rfl) ?_ rfl rfl rfl rfl rfl
    simp [hm, State.awaiting]
  · refine exec_only_answers h hc (show _ = execKeyRemove c 0 slot s from rfl) ?_
    simp [hlast, hslot, State.awaiting]
    rfl
  · refine exec_answers (i := .keyRemove c 0 slot) (op := opKeyRemove)
      (u := (s.awaiting c opKeyRemove n).modFlash (fun f => { f with operatorKeys := f.operatorKeys.del slot })) h hc
      (show _ = execKeyRemove c 0 slot s from rfl) ?_ rfl rfl rfl rfl rfl
    simp [hother, Nat.not_le.mpr hslot, State.awaiting]
    rfl
  · have hctx : (s.awaiting c opKeyAdd n).ctx c.ctx = some x := hx
    obtain ⟨t, ht, hsend, heq⟩ := exec_answers (i := .keyAdd c 1 salt digest) (op := opKeyAdd) (st := stOk) (p := [p8 0x81 m])
      (u := (s.awaiting c opKeyAdd n).setCtx c.ctx { x with keys := x.keys.put m ⟨salt, digest⟩ }) h hc
      (show _ = execKeyAdd c 1 salt digest s from rfl) (by simp [hctx, hm]) rfl rfl rfl rfl rfl
    have hctxs : t.ctxs = s.ctxs.put c.ctx { x with keys := x.keys.put m ⟨salt, digest⟩ } := by rw [heq]; rfl
    refine ⟨t, ht, hsend, by simp [State.ctx, hctxs], fun k hk => by simp [State.ctx, hctxs, Tab.find_put, Ne.symm hk], ?_⟩
    rw [hctxs, heq]
    rfl
  · obtain ⟨t, ht, hsend, heq⟩ := exec_answers (i := .keyRemove c 1 slot) (op := opKeyRemove) (st := stOk) (p := [])
      (u := (s.awaiting c opKeyRemove n).modCtx c.ctx (fun x => { x with keys := x.keys.del slot })) h hc
      (show _ = execKeyRemove c 1 slot s from rfl) (by simp [Nat.not_le.mpr hslot]; rfl) rfl rfl rfl rfl rfl
    have hctxs : t.ctxs = s.ctxs.modify c.ctx (fun x => { x with keys := x.keys.del slot }) := by rw [heq]; rfl
    have hfind : s.ctxs.find c.ctx = some x := hx
    refine ⟨t, ht, hsend, by simp [State.ctx, hctxs, Tab.find_modify, hfind],
      fun k hk => by simp [State.ctx, hctxs, Tab.find_modify, Ne.symm hk], ?_⟩
    rw [hctxs, heq]
    rfl

/-! ## EVENT_PACKET_SEND (R287, R289) -/

/-- Behind an event no reply waits that would leave with it. -/
theorem State.flushReplies_of_event {s : State} {n : Nat} {l : List Egress} (h : ∀ g ∈ l.head?, ∃ x, g = .event x) :
    s.flushReplies n l = s.modSession n (fun ss => { ss with egress := l }) := by
  cases l with
  | nil => rfl
  | cons g l => obtain ⟨x, rfl⟩ := h g rfl; rfl

/-- Settles O12: the event leaves with its number, and only its session changes. -/
theorem eventPacketNumbersRise : Obligations.event_packet_numbers_rise := by
  intro s n ss e rest hn hpause he hrest
  let packet := eventPacket ss.qp (s.minorOf ss.qp) ((ss.eventSeq + 1) % 2 ^ 32) (ss.dropped % 2 ^ 32) e
  let sent := ((s.emit (.packet packet)).modSession n (fun x => { x with eventSeq := (ss.eventSeq + 1) % 2 ^ 32, dropped := 0 })).modSession
    n (fun x => { x with egress := rest })
  have hexec : exec (.eventPacketSend n) s = .next sent.settle.resetIfDue := by
    rw [exec, execEventPacketSend, hn]
    simp only [hpause, he, State.flushReplies_of_event hrest]
    rfl
  refine ⟨sent, hexec, rfl, ?_, fun m hm => ?_, rfl⟩
  · simp [sent, Tab.find_modify, hn]
  · simp [sent, Tab.find_modify, Ne.symm hm]

end Sys2Proof.Machine
end

section
/-! PROOFS. Packets that arrive, and the rounds that take them. -/

namespace Sys2Proof.Machine

/-! ## SEND_RECEIVED (R297) -/

/-- With nothing received and no pause sent, a queue pair leaves nothing behind on its port. -/
theorem State.drainQp_quiet {s : State} {qp : Nat} {q : Qp} (hq : s.qps.find qp = some q) (hrx : (s.port q.port).rx = [])
    (hx : (s.port q.port).xoffSent = []) : ∃ ports, s.drainQp qp = { s with ports := ports } := by
  have hnone : ((s.modPort q.port (fun k => { k with rx := k.rx.filter (fun f => decide (f.qp ≠ qp)) })).port q.port).xoffSent = [] := by
    simp [State.port, State.modPort, Tab.getOr, hx] at hx ⊢
    exact hx
  simp only [State.drainQp, hq, State.sendXon, hnone]
  exact ⟨_, rfl⟩

theorem State.wakeTrigger_active {s : State} (h : s.power.mode = .active) : s.wakeTrigger = s := by
  simp [State.wakeTrigger, h]

/-- Settles O13: the three branches of SEND_RECEIVED, each of which drains the queue pair's port, where nothing waits. -/
theorem sendWaitsOrIsRefused : Obligations.send_waits_or_is_refused := by
  intro s qp p q hq hst hup hrun hrx hx hmode
  have hlive : (decide (q.st = .error) || !(s.port q.port).up || !s.portsRun) = false := by simp [hst, hup, hrun]
  refine ⟨fun hlen hin hpool => ?_, fun hlen hfull => ?_, fun hlen hbare => ?_⟩
  · have hroom : s.hasRoom q p = true := by
      simp only [State.hasRoom, hin, hpool, decide_true, Bool.and_self]
    obtain ⟨ports, hdrain⟩ := State.drainQp_quiet (s := s.modQp qp (fun q => { q with inbox := q.inbox ++ [p] })) (qp := qp)
      (q := { q with inbox := q.inbox ++ [p] }) (by simp [Tab.find_modify, hq]) hrx hx
    refine ⟨{ s with qps := s.qps.modify qp (fun q => { q with inbox := q.inbox ++ [p] }), ports := ports }, ?_, ?_, fun k hk => ?_, rfl⟩
    · rw [exec, execSendReceived, hq]
      simp only [hlive, hroom, Nat.not_lt.mpr hlen, maxPacket, if_false, if_true, hdrain, Bool.false_eq_true]
      rw [State.wakeTrigger_active]
      · rfl
      · exact hmode
    · simp [Tab.find_modify, hq]
    · simp [Tab.find_modify, Ne.symm hk]
  · have hroom : s.hasRoom q p = false := by
      rcases hfull with h | h
      · simp [State.hasRoom, Nat.not_lt.mpr h]
      · simp only [State.hasRoom, Nat.not_le.mpr h, decide_false, Bool.and_false]
    obtain ⟨ports, hdrain⟩ := State.drainQp_quiet (s := s.emit (.nak qp .rnr)) (qp := qp) (q := q) hq hrx hx
    refine ⟨{ s with out := s.out ++ [.nak qp .rnr], ports := ports }, ?_, rfl⟩
    rw [exec, execSendReceived, hq]
    simp only [hlive, hroom, Nat.not_lt.mpr hlen, maxPacket, if_false, hdrain, Bool.false_eq_true]
    rw [State.wakeTrigger_active]
    · rfl
    · exact hmode
  · obtain ⟨ports, hdrain⟩ := State.drainQp_quiet (s := s.emit (.nak qp .invalidRequest)) (qp := qp) (q := q) hq hrx hx
    have hpair : (s.emit (.nak qp .invalidRequest)).qpError qp =
        { s with out := s.out ++ [.nak qp .invalidRequest], ports := ports,
                 qps := s.qps.modify qp (fun q => { q with st := .error, inbox := [] }) } := by
      have hq' : (s.emit (.nak qp .invalidRequest)).qps.find qp = some q := hq
      rcases hbare with h | h <;> simp only [State.qpError, hq', h, hdrain] <;> rfl
    refine ⟨{ s with
      out := s.out ++ [.nak qp .invalidRequest], ports := ports, qps := s.qps.modify qp (fun q => { q with st := .error, inbox := [] }) },
      ?_, rfl, by simp [Tab.find_modify, hq]⟩
    rw [exec, execSendReceived, hq]
    simp only [hlive, maxPacket, hlen, if_true, hpair, Bool.false_eq_true, if_false]
    rw [State.wakeTrigger_active]
    · rfl
    · exact hmode

/-! ## What a queue pair gives a round (R299, R315) -/

/-- What a round takes from a list of packets: at most its room, no packet dropped, none after one that ends the take, in order. -/
structure TakenFrom (room : Nat) (l : List Bytes) (r : List Bytes × Nat × List Bytes) : Prop where
  atMost : r.1.length ≤ room
  kept : ∀ p ∈ r.1, phDropped p = false
  ends : ∀ p ∈ r.1.dropLast, phEndsTake p = false
  inOrder : ∃ gone, gone ++ r.2.2 = l ∧ gone.filter (fun p => !phDropped p) = r.1 ∧ (gone.filter phDropped).length = r.2.1

theorem takePackets_takenFrom (room : Nat) (l : List Bytes) : TakenFrom room l (takePackets room l) := by
  induction l generalizing room with
  | nil => exact ⟨by simp [takePackets], by simp [takePackets], by simp [takePackets], [], by simp [takePackets]⟩
  | cons p rest ih =>
    rw [takePackets]
    split
    case isTrue hroom => exact ⟨by simp, by simp, by simp, [], by simp⟩
    case isFalse hroom =>
      split
      case isTrue hdrop =>
        obtain ⟨hmost, hkept, hends, gone, hall, htaken, hcount⟩ := ih room
        exact ⟨hmost, hkept, hends, p :: gone, by simp [hall], by simp [hdrop, htaken], by simp [hdrop, hcount]⟩
      case isFalse hdrop =>
        have hdrop : phDropped p = false := by simpa using hdrop
        split
        case isTrue hend => exact ⟨by simp; omega, by simp [hdrop], by simp, [p], by simp [hdrop]⟩
        case isFalse hend =>
          obtain ⟨hmost, hkept, hends, gone, hall, htaken, hcount⟩ := ih (room - 1)
          refine ⟨by simp; omega, by simpa [hdrop] using hkept, ?_, p :: gone, by simp [hall], by simp [hdrop, htaken],
            by simp [hdrop, hcount]⟩
          dsimp only
          generalize (takePackets (room - 1) rest).1 = taken at hends ⊢
          cases taken with
          | nil => simp
          | cons x taken =>
            rw [List.dropLast_cons_cons, List.forall_mem_cons]
            exact ⟨by simpa using hend, hends⟩

/-! ## The order of a round (R316) -/

/-- The model's sort is the insertion sort. -/
theorem sortBy_eq_insertionSort {α : Type} (le : α → α → Bool) (l : List α) :
    sortBy le l = l.insertionSort (fun a b => le a b = true) := by
  have hinsert : ∀ (x : α) (m : List α), insertBy le x m = m.orderedInsert (fun a b => le a b = true) x := by
    intro x m
    induction m with
    | nil => rfl
    | cons y m ih => simp [insertBy, ih]
  induction l with
  | nil => rfl
  | cons x l ih => simp [sortBy, hinsert] at ih ⊢; rw [ih]

/-- The key of a packet as R316 compares it. -/
def Taken.key (t : Taken) : Nat ×ₗ Nat ×ₗ Nat := toLex (t.klass, toLex (t.rank, t.number))

theorem Taken.le_iff {a b : Taken} : a.le b = true ↔ a.key ≤ b.key := by
  simp only [Taken.le, Taken.key, Prod.Lex.le_iff]
  split
  · simp; omega
  · split <;> simp <;> omega

theorem orderRound_eq (l : List Taken) : orderRound l = l.insertionSort (fun a b => a.key ≤ b.key) := by
  simp [orderRound, sortBy_eq_insertionSort, Taken.le_iff]

theorem orderRound_perm (l : List Taken) : (orderRound l).Perm l := orderRound_eq l ▸ List.perm_insertionSort _ l

theorem orderRound_sorted (l : List Taken) : (orderRound l).Pairwise (fun a b => a.le b = true) := by
  simp only [orderRound_eq, Taken.le_iff]
  exact List.pairwise_insertionSort _ l

/-- Packets whose keys tie with `x` keep the order they arrived in. -/
theorem orderRound_stable (l : List Taken) (x : Taken) :
    (orderRound l).filter (fun a => a.le x && x.le a) = l.filter (fun a => a.le x && x.le a) := by
  have htie : (l.filter (fun a => a.le x && x.le a)).Pairwise (fun a b => a.key ≤ b.key) := by
    refine List.pairwise_of_forall_mem_list fun a ha b hb => ?_
    simp only [List.mem_filter, Bool.and_eq_true, Taken.le_iff] at ha hb
    exact ha.2.1.trans hb.2.2
  have hsub : (l.filter (fun a => a.le x && x.le a)).Sublist (orderRound l) :=
    orderRound_eq l ▸ List.sublist_insertionSort htie List.filter_sublist
  have hsub' := hsub.filter (fun a => a.le x && x.le a)
  rw [List.filter_filter] at hsub'
  simp only [Bool.and_self] at hsub'
  exact (hsub'.eq_of_length ((orderRound_perm l).filter _).length_eq.symm).symm

/-! ## INTAKE_ROUND with one packet -/

/-- An error that is counted changes the counters, and the sessions that hear of it. -/
theorem State.countError_eq (s : State) (id n : Nat) :
    s.countError id n = { s with
      counters := s.counters.put id ((s.counters.getOr id Counter.zero).addError n), sessions := (s.countError id n).sessions } := by
  dsimp only [State.countError]
  split <;> rfl

/-- Without a variant no automatic step is due. -/
theorem State.autosDue_of_no_var {s : State} (h : s.vars = []) : s.autosDue = [] := by
  simp [State.autosDue, h, Tab.keys]

theorem State.takeAutos_of_no_var {s : State} (h : s.vars = []) : s.takeAutos = s := by
  simp [State.takeAutos, State.autosDue_of_no_var h, eachDo]

/-- A packet of another major on a queue pair in the HELLO state is answered BAD_VERSION, without parameters. -/
theorem applyPacket_other_major {s : State} {q : Qp} {t : Taken} (hm : phMajor t.packet ≠ 1) (hq : s.reaches t.qp = some q)
    (hst : q.st = .hello) :
    applyPacket t s = .next (s.emit (s.replyTo (phCmd t.qp t.packet) (phOpcode t.packet) stBadVersion [])) := by
  have hq' : s.reaches (phCmd t.qp t.packet).qp = some q := hq
  simp only [applyPacket, hm, ne_eq, not_false_iff, if_true, refusePacket, hq', hst]
  rfl

/-- A round over one queue pair in the HELLO state takes from it alone. -/
theorem execIntakeRound_one {s : State} {qp : Nat} {q : Qp} {p : Bytes} (hg : s.gafferUp = true) (hq : s.qps = [(qp, q)])
    (hs : s.sessions = []) (hst : q.st = .hello) (hp : q.inbox = [p]) :
    exec .intakeRound s =
      (let r := State.takeFrom { s with intakeRounds := s.intakeRounds + 1 } (qp, 2, qp)
       thenReset (settled ((Res.each (orderRound r.1) applyTaken { r.2 with roundSubmits := submitCtxs r.1 }).bind
         (fun s => .next s.takeAutos.goOffline)))) := by
  have hwaits : s.packetWaits = true := by simp [State.packetWaits, hq, Tab.vals, hst, hp]
  have horder : State.takeOrder s = [(qp, 2, qp)] := by simp [State.takeOrder, hs, hq, hst]
  have horder' : State.takeOrder { s with intakeRounds := s.intakeRounds + 1 } = [(qp, 2, qp)] := horder
  rw [exec, execIntakeRound, hg, hwaits]
  simp only [Bool.true_or, Bool.and_self, if_true, horder', State.formRound, List.append_nil]

/-- Settles O14: the parts on takes and on the order are lemmas above; a round over one queue pair applies the packet it takes. -/
theorem roundsTakeAndOrderCommands : Obligations.rounds_take_and_order_commands := by
  refine ⟨fun room l => ?_, fun l => ⟨orderRound_perm l, orderRound_sorted l, orderRound_stable l⟩,
    fun s qp q p hg hq hs hst hp hv hf => ?_⟩
  · obtain ⟨hmost, hkept, hends, hall⟩ := takePackets_takenFrom room l
    exact ⟨hmost, hkept, hends, hall⟩
  rw [execIntakeRound_one hg hq hs hst hp]
  have hfind : s.qps.find qp = some q := by simp [hq, Tab.find]
  refine ⟨fun hdrop hmajor => ?_, fun hdrop => ?_⟩
  · have htake : takePackets 16 q.inbox = ([p], 0, []) := by
      have hend : phEndsTake p = false := by simp [phEndsTake, hmajor]
      simp [hp, takePackets, hdrop, hend]
    have hfrom : State.takeFrom { s with intakeRounds := s.intakeRounds + 1 } (qp, 2, qp) = ([⟨qp, 2, qp, p⟩],
        { s with intakeRounds := s.intakeRounds + 1, qps := s.qps.modify qp (fun q => { q with inbox := [] }) }) := by
      simp only [State.takeFrom, hfind, htake]
      rfl
    let emptied : List Nat → State := fun l => { s with
      intakeRounds := s.intakeRounds + 1, qps := s.qps.modify qp (fun q => { q with inbox := [] }), roundSubmits := l }
    obtain ⟨l, hl⟩ : ∃ l, applyTaken ⟨qp, 2, qp, p⟩ (emptied (submitCtxs [⟨qp, 2, qp, p⟩])) = applyPacket ⟨qp, 2, qp, p⟩ (emptied l) := by
      rw [applyTaken]
      split
      · exact ⟨_, rfl⟩
      · exact ⟨_, rfl⟩
    have hpair : (emptied l).qps.find qp = some { q with inbox := [] } := by simp [emptied, Tab.find_modify, hfind]
    have hreach : (emptied l).reaches qp = some { q with inbox := [] } := by
      rw [State.reaches, show (emptied l).gafferUp = true from hg, hpair]
      simp [hst]
    have hreply : (emptied l).replyTo (phCmd qp p) (phOpcode p) stBadVersion [] = s.replyTo (phCmd qp p) (phOpcode p) stBadVersion [] :=
      State.replyTo_congr (by simp only [phCmd, State.minorOf, hpair, hfind]) _ _ _
    let answered : State := (emptied l).emit (s.replyTo (phCmd qp p) (phOpcode p) stBadVersion [])
    have happly : applyTaken ⟨qp, 2, qp, p⟩ (emptied (submitCtxs [⟨qp, 2, qp, p⟩])) = .next answered := by
      rw [hl, applyPacket_other_major (q := { q with inbox := [] }) hmajor hreach hst]
      exact congrArg (fun o => Host.Outcome.next ((emptied l).emit o)) hreply
    refine ⟨answered, ?_, rfl, hpair, rfl⟩
    rw [hfrom]
    show thenReset (settled (((applyTaken ⟨qp, 2, qp, p⟩ (emptied (submitCtxs [⟨qp, 2, qp, p⟩]))).bind (Res.each [] applyTaken)).bind
      (fun s => .next s.takeAutos.goOffline))) = _
    rw [happly]
    show thenReset (settled (.next answered.takeAutos.goOffline)) = _
    rw [State.takeAutos_of_no_var (s := answered) hv, State.goOffline_of_none (s := answered) hf]
    rfl
  · have htake : takePackets 16 q.inbox = ([], 1, []) := by simp [hp, takePackets, hdrop]
    have hfrom : State.takeFrom { s with intakeRounds := s.intakeRounds + 1 } (qp, 2, qp) = ([],
        (State.countError { s with intakeRounds := s.intakeRounds + 1 } cBadPackets 1).modQp qp (fun q => { q with inbox := [] })) := by
      simp only [State.takeFrom, hfind, htake]
      rfl
    let taken : State := { (State.countError { s with intakeRounds := s.intakeRounds + 1 } cBadPackets 1).modQp qp
      (fun q => { q with inbox := [] }) with roundSubmits := [] }
    have htaken : taken = { s with
        intakeRounds := s.intakeRounds + 1, qps := s.qps.modify qp (fun q => { q with inbox := [] }), roundSubmits := []
        counters := (s.countError cBadPackets 1).counters, sessions := taken.sessions } := by
      simp only [taken]
      rw [State.countError_eq, State.countError_eq s]
      rfl
    have hvars : taken.vars = [] := (congrArg State.vars htaken).trans hv
    have hticket : taken.fw.activateTicket = none := by rw [htaken]; exact hf
    refine ⟨taken, ?_, ?_, ?_, ?_, ?_⟩
    · rw [hfrom]
      show thenReset (settled (.next taken.takeAutos.goOffline)) = _
      rw [State.takeAutos_of_no_var hvars, State.goOffline_of_none hticket]
      rfl
    · rw [htaken]
    · rw [htaken]; simp [Tab.find_modify, hfind]
    · rw [htaken]
    · rw [htaken]

end Sys2Proof.Machine
end

section
/-! PROOFS. Profiles, firmware images and start-up. -/

namespace Sys2Proof.Machine

/-! ## What an answer changes -/

/-- An answer changes what has left the module and the sessions, and nothing else. -/
theorem State.answerWith_eq (s : State) (t : Ticket) (st : Nat) (p : List (Nat × Bytes)) : ∃ o r,
    s.answerWith t st p = { s with out := o, sessions := r } := by
  unfold State.answerWith
  split
  · unfold State.sendOn
    split
    · split
      · exact ⟨_, _, rfl⟩
      · exact ⟨_, _, rfl⟩
    · exact ⟨_, _, rfl⟩
  · exact ⟨_, _, rfl⟩

/-- A command the gaffer takes does its work on the state in which its session awaits the reply. -/
theorem gaffer_takes {op : Nat} {c : Cmd} {n : Nat} {ss : Session} {s : State} (h : Takes (specOf op) c n ss s)
    (body : Ticket → State → Res) (hop : (specOf op).op = op := by rfl) :
    gaffer op c body s = body (ticketOf c op n ss.serial) (s.awaiting c op n) := by
  have := gafferWith_takes h (fun t _ s => body t s)
  rwa [hop] at this

/-! ## SELECT_PROFILE (R369) -/

/-- The work of SELECT_PROFILE with a usable profile: the selection, the answer, and with RESET a reset to come. -/
theorem takeSelectProfile_usable {s : State} {c : Cmd} {n p : Nat} {ss : Session} {i : Image} {f : Profile} (reset : Bool)
    (h : Takes (specOf opSelectProfile) c n ss s) (hrun : s.fw.running = some i) (hprofile : imageProfile s.fuses.grade p i = some f) :
    takeSelectProfile c p reset s =
      let s := { s.awaiting c opSelectProfile n with selected := some p }.answerWith (ticketOf c opSelectProfile n ss.serial) stOk
        [(0x81, imageProfileDigest i p)]
      .next (if reset then s.modPower (fun p => { p with resetAfter := some n }) else s) := by
  have hrun' : (s.awaiting c opSelectProfile n).fw.running = some i := hrun
  have husable : imageProfile (s.awaiting c opSelectProfile n).fuses.grade p i = some f := hprofile
  rw [takeSelectProfile, gaffer_takes h]
  simp only [hrun', husable]
  rfl

/-- A warm reset leaves no session, queue pair, context or variant, and keeps what has left the module and the selection. -/
theorem State.warmReset_ends (s : State) (byPin : Bool) :
    (s.warmReset byPin).power.ready = false ∧ (s.warmReset byPin).sessions = [] ∧ (s.warmReset byPin).qps = [] ∧
    (s.warmReset byPin).ctxs = [] ∧ (s.warmReset byPin).vars = [] ∧ (s.warmReset byPin).selected = s.selected ∧
    (s.warmReset byPin).out = s.out := by
  obtain ⟨n, l, m, b, h⟩ := s.closeBypass_eq 3
  refine ⟨rfl, rfl, rfl, rfl, rfl, ?_, ?_⟩ <;> simp [State.warmReset, State.stopAll, h]

/-- Settles O15: the profile is usable, so the selection is made and answered; the reply has left before the reset. -/
theorem selectProfileAndReset : Obligations.select_profile_and_reset := by
  intro s c n p ss i f h hc hrun hprofile
  obtain ⟨r, hans, hr⟩ := answerWith_awaiting (u := { s.awaiting c opSelectProfile n with selected := some p }) (op := opSelectProfile)
    (st := stOk) (p := [(0x81, imageProfileDigest i p)]) h hc rfl rfl rfl rfl rfl
  refine ⟨⟨{ s with
    selected := some p, out := s.out ++ [s.replyTo c opSelectProfile stOk [(0x81, imageProfileDigest i p)]], sessions := r }, ?_, ⟨rfl, hr⟩, rfl⟩, ?_⟩
  · rw [exec, execSelectProfile, takeSelectProfile_usable false h hrun hprofile, hans]
    rfl
  · let done : State := { s with
      selected := some p, out := s.out ++ [s.replyTo c opSelectProfile stOk [(0x81, imageProfileDigest i p)]], sessions := r
      power := { s.power with resetAfter := some n } }
    have hsent : done.profileReplyWaits n = false := by
      simp [State.profileReplyWaits, done, hr, h.session, hc.1]
    have hexec : exec (.selectProfileReset c p) s = .next (done.warmReset false) := by
      rw [exec, execSelectProfileReset, takeSelectProfile_usable true h hrun hprofile, hans]
      show Host.Outcome.next done.resetIfDue = _
      rw [State.resetIfDue]
      simp only [done] at hsent ⊢
      simp only [hsent]
      rfl
    obtain ⟨hready, hsess, hqps, hctxs, hvars, hsel, hout⟩ := done.warmReset_ends false
    exact ⟨_, hexec, rfl, hready, hsel, hsess, hqps, hctxs, hvars, hout⟩

/-! ## FW_ACTIVATE (R371, R420) -/

/-- Settles O17: the switch, the fall back, and the return. -/
theorem fwActivateSwitchesSlots : Obligations.fw_activate_switches_slots := by
  refine ⟨fun s c n ss i h hstaged hslot hok => ?_, fun s hoff hsw => ?_, fun s i hoff hsw hrun hheld => ?_⟩
  · have hslot' : (s.awaiting c opFwActivate n).flash.otherSlot = some i := hslot
    have hstaged' : (s.awaiting c opFwActivate n).flash.staged = true := hstaged
    have hok' : (s.awaiting c opFwActivate n).imageOk i = true := hok
    let t : State := { s.awaiting c opFwActivate n with
      flash := { s.flash with activeB := !s.flash.activeB, staged := false }
      fw := { s.fw with
        running := some i, switched := true, previousB := s.flash.activeB, activateTicket := some (ticketOf c opFwActivate n ss.serial)
        offline := true } }
    have hexec : exec (.fwActivate c) s = .next t := by
      rw [exec, execFwActivate, takeFwActivate, gaffer_takes h]
      simp only [hslot', hstaged', hok']
      rfl
    have hactive : t.flash.activeSlot = s.flash.otherSlot := by
      simp [t, Flash.activeSlot, Flash.otherSlot]
      cases s.flash.activeB <;> rfl
    have hother : t.flash.otherSlot = s.flash.activeSlot := by
      simp [t, Flash.activeSlot, Flash.otherSlot]
      cases s.flash.activeB <;> rfl
    exact ⟨t, hexec, hactive.trans hslot, hother, rfl, rfl, rfl, rfl, rfl, rfl⟩
  · let flash : Flash := { s.flash with activeB := s.fw.previousB, staged := false }
    refine ⟨{ s with flash := flash, fw := { s.fw with running := flash.activeSlot, switched := false } }, ?_, rfl, rfl, rfl, rfl⟩
    rw [exec, execFwActivateTimeout, hoff, hsw]
    rfl
  · let back : State := s.modFw (fun f => { f with offline := false, switched := false, activateTicket := none, heldAttests := [] })
    obtain ⟨o, r, hexec⟩ : ∃ o r, exec .gafferReturn s = settled (.next (State.burn { back with out := o, sessions := r })) := by
      rw [exec, execGafferReturn]
      simp only [hoff, hsw, hheld, Bool.not_true, Bool.false_eq_true, if_false, if_true]
      cases s.fw.activateTicket with
      | none => exact ⟨_, _, rfl⟩
      | some t =>
        obtain ⟨o, r, hans⟩ := back.answerWith_eq t stOk [(0x81, back.runningDigests)]
        exact ⟨o, r, by rw [← hans]; rfl⟩
    have hrun' : back.fw.running = some i := hrun
    refine ⟨_, hexec, ?_, ?_, ?_⟩ <;> simp only [State.burn, hrun']
    · rfl
    · rfl
    · rfl

/-! ## Start-up (R459) -/

/-- What stands at a number of a table whose entries are given by their numbers. -/
theorem Tab.find_of_graph {α : Type} {t : Tab α} {f : Nat → α} {n : Nat} (h : ∀ p ∈ t, p.2 = f p.1) (hn : n ∈ t.keys) :
    t.find n = some (f n) := by
  induction t with
  | nil => simp [Tab.keys] at hn
  | cons p t ih =>
    by_cases hp : p.1 = n
    · simp [Tab.find, hp, h p (by simp)]
    · have hn' : n ∈ Tab.keys t := by simpa [Tab.keys, Ne.symm hp] using hn
      simp [Tab.find, hp, ih (fun x hx => h x (by simp [hx])) hn']

/-- What stands at a number of a table built in order. -/
theorem Tab.find_map_range {α : Type} (f : Nat → α) {m n : Nat} (h : n < m) :
    Tab.find ((List.range m).map (fun k => (k, f k))) n = some (f n) :=
  Tab.find_of_graph (by simp) (by simpa [Tab.keys] using h)

/-- Without a tile that failed or is retired, every tile of every quadrant serves. -/
theorem State.serving_all {s : State} (hp : s.profile.sparePolicy = 0) (hr : s.flash.retired = []) (q : Nat) :
    s.serving true [] q = List.range 17 := by
  simp [State.serving, State.eligible, hp, hr]

/-- The spare map of a module without a failed or retired tile: logical tiles on the first sixteen of their quadrant, the last one
spare. -/
theorem State.spareMap_all {s : State} (hp : s.profile.sparePolicy = 0) (hr : s.flash.retired = []) :
    (∀ n, n < 256 → (s.spareMap true []).1.find n = some (n % 16)) ∧ ∀ q, q < 16 → (s.spareMap true []).2.find q = some 16 := by
  have hlow : ((List.range 17).take 16).zipIdx = (List.range 16).map (fun i => (i, i)) := by decide
  have hhigh : ((List.range 17).drop 16).take 1 = [16] := by decide
  simp only [State.spareMap, State.serving_all hp hr, hlow, hhigh]
  refine ⟨fun n hn => ?_, fun q hq => ?_⟩
  · refine Tab.find_of_graph (f := fun n => n % 16) (fun p hmem => ?_) ?_
    · obtain ⟨k, -, i, hi, rfl⟩ : ∃ k, k < 16 ∧ ∃ i, i < 16 ∧ (16 * k + i, i) = p := by simpa using hmem
      simp only
      omega
    · simp only [Tab.keys, List.mem_map, List.mem_flatMap, List.mem_range]
      exact ⟨(n, n % 16), ⟨n / 16, by omega, (n % 16, n % 16), ⟨n % 16, by omega, rfl⟩, by simp; omega⟩, rfl⟩
  · refine Tab.find_of_graph (f := fun _ => 16) (fun p hmem => ?_) ?_
    · obtain ⟨k, -, rfl⟩ : ∃ k < 16, p = (k, 16) := by simpa using hmem
      rfl
    · simpa [Tab.keys] using hq

/-- READY goes to every operator session, and to no other. -/
theorem State.raise_ready {s : State} (hroom : ∀ p ∈ s.sessions, p.2.queued < 1024) :
    s.raise readyEvent = { s with sessions := s.sessions.each (fun _ ss =>
      if ss.role = .operator then { ss with egress := ss.egress ++ [.event readyEvent] } else ss) } := by
  have hdrops : s.drops readyEvent = 0 := by
    simp only [State.drops, Tab.vals, List.length_eq_zero_iff, List.filter_eq_nil_iff, List.mem_map]
    rintro _ ⟨p, hp, rfl⟩
    simp [Nat.not_le.mpr (hroom p hp)]
  have hpush : s.sessions.each (fun _ ss => if s.receives ss readyEvent then ss.push readyEvent else ss) =
      s.sessions.each (fun _ ss => if ss.role = .operator then { ss with egress := ss.egress ++ [.event readyEvent] } else ss) := by
    refine List.map_congr_left fun p hp => ?_
    obtain ⟨role, hrole⟩ : ∃ r, p.2.role = r := ⟨_, rfl⟩
    cases role <;> simp [State.receives, readyEvent, hrole, Session.push, hroom p hp]
  simp only [State.raise, hdrops, if_true]
  rw [if_pos (show s.current readyEvent = true from rfl), State.deliver, hpush]

/-- Start-up is over: the module is ACTIVE and READY, and every operator session hears of it. -/
theorem State.finishStart_eq {s : State} (hv : s.vacantCount = 0) (hroom : ∀ p ∈ s.sessions, p.2.queued < 1024) :
    s.finishStart = { s with
      power := { s.power with mode := .active, ready := true, step := 9 }
      sessions := s.sessions.each (fun _ ss =>
        if ss.role = .operator then { ss with egress := ss.egress ++ [.event readyEvent] } else ss) } := by
  have hraise := State.raise_ready (s := s.modPower (fun p => { p with mode := .active, ready := true, step := 9 })) hroom
  simp only [State.finishStart, hraise]
  rw [if_neg]
  · rfl
  · exact Nat.not_lt.mpr (Nat.le_of_eq hv)

/-- Settles O19: the step that ends is the one the mode names, and each ends as its own definition says. -/
theorem startupStepsEndInOrder : Obligations.startup_steps_end_in_order := by
  refine ⟨fun s => ⟨fun hm hn => ?_, fun hm i hi hb hp => ?_, fun hm => ?_, fun hm => ?_, fun hm p f hc => ?_, fun hm => ?_⟩,
    fun s => ⟨fun hm hp hr => ?_, fun hm hring hv hroom => ?_⟩⟩
  · refine ⟨s.toStep 2, ?_, rfl, rfl⟩
    simp [exec, execStartupStepComplete, hm, State.endStep1, hn]
  · let booted : State := { s with
      drbgSeedAt := s.drbgRequests, flash := { s.flash with bootCount := s.flash.bootCount + 1 }
      fw := { s.fw with running := some i, fallback := false } }
    have hboot : s.boot i false = booted := by
      simp only [State.boot, State.recordPowerLoss, Bool.false_eq_true, if_false]
      rw [if_neg]
      · rfl
      · exact ne_true_of_eq_false hp
    refine ⟨booted.toStep 3, ?_, rfl, rfl, rfl, rfl⟩
    simp [exec, execStartupStepComplete, hm, State.endStep2, hi, bootLimit, Nat.not_le.mpr hb, hboot]
  · refine ⟨s.enterFailed, ?_, rfl, rfl⟩
    simp [exec, execStartupStepComplete, hm]
  · refine ⟨s.toStep 4, ?_, rfl, rfl⟩
    simp [exec, execStartupStepComplete, hm]
  · refine ⟨s.endStep4, ?_, ?_⟩
    · simp [exec, execStartupStepComplete, hm]
    · rw [State.endStep4, hc]
      refine ⟨rfl, rfl, rfl, fun q hq => ?_, rfl⟩
      simp [State.toStep, State.quad, Tab.getOr, Tab.find_map_range _ hq]
      rfl
  · refine ⟨s.endStep5, ?_, rfl, rfl⟩
    simp [exec, execStartupStepComplete, hm]
  · refine ⟨s.endStep6 [] true, ?_, ?_⟩
    · simp [exec, execStartupStepComplete, hm]
    · obtain ⟨hphys, hspares⟩ := State.spareMap_all hp hr
      exact ⟨rfl, rfl, hphys, hspares, rfl⟩
  · refine ⟨s.finishStart, ?_, ?_⟩
    · simp [exec, execStartupStepComplete, hm, State.joinEnded, hring]
      rfl
    · rw [State.finishStart_eq hv hroom]
      exact ⟨rfl, rfl, fun n ss hn => by simp [Tab.find_each, hn], rfl⟩

end Sys2Proof.Machine
end

section
/-! PROOFS. Power windows, temperatures, sleep and wake. -/

namespace Sys2Proof.Machine

/-! ## What an event changes -/

/-- An event changes the sessions that receive it and the counters of those lost. -/
theorem State.raise_eq (s : State) (e : Event) : ∃ r k x, s.raise e = { s with sessions := r, counters := k, ctxs := x } := by
  unfold State.raise
  split
  · dsimp only
    split
    · exact ⟨_, _, _, rfl⟩
    · split
      · rw [State.countError_eq]
        exact ⟨_, _, _, rfl⟩
      · unfold State.countTenant
        split
        · dsimp only
          split <;> exact ⟨_, _, _, rfl⟩
        · exact ⟨_, _, _, rfl⟩
  · exact ⟨_, _, _, rfl⟩

/-! ## Windows (R436, R448) -/

/-- Pacing moves by one sixteenth at most and stays below sixteen (R448). -/
theorem State.nextPacing_bounds {s : State} (w : Nat) (h : s.power.pacing ≤ 15) :
    s.nextPacing w ≤ 15 ∧ s.nextPacing w ≤ s.power.pacing + 1 ∧ s.power.pacing ≤ s.nextPacing w + 1 := by
  unfold State.nextPacing
  extract_lets floor f
  split
  · omega
  · split <;> omega

/-- A cap window in operation steps the clocks down where the mean is above the cap, and sets the pacing. -/
theorem exec_powerCapWindow_active {s : State} (w : Nat) (h : s.power.mode = .active) :
    exec (.powerCapWindow w) s =
      .next ((if s.profile.powerCap < w then s.stepDownAll else s).modPower (fun p => { p with pacing := s.nextPacing w })) := by
  simp [exec, execPowerCapWindow, h]

/-! ## Temperatures (R449) -/

/-- A level that is noted changes neither the temperatures nor the level. -/
theorem State.noteThermal_keeps (s : State) (e : Event) :
    (s.noteThermal e).power.temps = s.power.temps ∧ (s.noteThermal e).power.level = s.power.level := by
  unfold State.noteThermal
  split
  · unfold State.wakeTrigger
    split <;> exact ⟨rfl, rfl⟩
  · obtain ⟨r, k, x, h⟩ := s.raise_eq e
    simp [h]

/-- Settles O23: each window and reading changes the power block as its own definition says. -/
theorem powerWindowsAndTemperatures : Obligations.power_windows_and_temperatures := by
  refine fun s => ⟨fun w hm => ?_, fun w hm hp => ?_, fun source v hm hs hr => ?_⟩
  · have hround : w / 5 * 5 = w - w % 5 := by omega
    simp [exec, execPowerReportWindow, hm, hround, State.modPower]
  · obtain ⟨hmost, hup, hdown⟩ := s.nextPacing_bounds w hp
    rw [exec_powerCapWindow_active w hm]
    by_cases hw : s.profile.powerCap < w
    · rw [if_pos hw]
      refine ⟨_, rfl, hmost, hup, hdown, fun _ q k hq => ?_, fun hle => absurd hw (Nat.not_lt.mpr hle), rfl⟩
      simp [State.quad, State.stepDownAll, Tab.getOr, Tab.find_each, hq, stepNat]
    · rw [if_neg hw]
      exact ⟨_, rfl, hmost, hup, hdown, fun h => absurd h hw, fun _ => rfl, rfl⟩
  · let read : State := s.modPower (fun p =>
      { p with temps := p.temps.put source v, level := nextLevel (p.temps.put source v) p.level })
    have hrun : read.running = true := hr
    have hexec : exec (.temperatureLevelChange source v) s =
        if tempReach 3 source ≤ v then .next ((read.record (thermalRecord source)).enterFailed)
        else .next (if read.power.level = s.power.level then read else read.noteThermal (thermalEvent read.power.level source v)) := by
      rw [exec, execTemperatureLevelChange, if_neg (by simp [hm, hs])]
      show (if !read.running then _ else _) = _
      rw [hrun]
      rfl
    refine ⟨fun hv => ⟨(read.record (thermalRecord source)).enterFailed, hexec.trans (if_pos hv), rfl⟩, fun hv => ?_⟩
    · rw [if_neg (not_le.mpr hv)] at hexec
      obtain ⟨htemps, hlevel⟩ := read.noteThermal_keeps (thermalEvent read.power.level source v)
      refine ⟨_, hexec, ?_⟩
      split
      · exact ⟨by simp [read], rfl⟩
      · rw [htemps, hlevel]
        exact ⟨by simp [read], rfl⟩

/-! ## QUIET, DORMANT and the wake (R444, R445) -/

/-- With nothing in a port's local pool a wake delivers nothing from it. -/
theorem State.deliverPool_empty {s : State} {p : Nat} (h : (s.link p).localPool = []) :
    s.deliverPool p = s.modLink p (fun l => { l with localPool := l.localPool.filter (fun f => decide (f.msgType = 1)) }) := by
  simp only [State.deliverPool, h, List.filter_nil, firstPieces, eachDo, List.foldl_nil]

/-- A wake with nothing in either pool changes the power block and the links. -/
theorem State.awake_idle {s : State} (ht : s.power.thermalDue = []) (hw : (s.link west).localPool = [])
    (he : (s.link east).localPool = []) :
    ∃ l, s.awake = { s with power := { s.power with mode := .active, waking := false, thermalDue := [] }, links := l } := by
  let up := s.modPower (fun p => { p with mode := .active, waking := false, thermalDue := [] })
  have hwest : (up.link west).localPool = [] := hw
  have heast : ((up.deliverPool west).link east).localPool = [] := by
    rw [State.deliverPool_empty hwest]
    rw [State.link, State.modLink, Tab.getOr, Tab.find_put_ne _ _ (by decide)]
    exact he
  have hawake : s.awake = (up.deliverPool west).deliverPool east := by
    simp only [State.awake, ht]
    rfl
  rw [hawake, State.deliverPool_empty heast, State.deliverPool_empty hwest]
  exact ⟨_, rfl⟩

/-- Settles O24: what an entry and a wake change, each by its own definition. -/
theorem sleepAndWake : Obligations.sleep_and_wake := by
  refine fun s => ⟨fun hm hq hoff hidle => ?_, fun hm hwake hd hidle hc hs => ?_, fun hm hwake ht hw he => ?_⟩
  · refine ⟨{ s with
      power := { s.power with mode := .quiet, waking := false }, tiles := s.tiles.each (fun _ t => t.toNap) }, ?_, rfl, fun n k hk => ?_, rfl⟩
    · simp [exec, execQuietEntry, hm, hq, hoff, hidle, State.modPower]
    · simp [Tab.find_each, hk, Tile.toNap]
  · refine ⟨{ s with
      power := { s.power with mode := .dormant }, tiles := s.tiles.each (fun _ _ => Tile.reset), mem := zeroRange s.mem 0 0x80000000 },
      ?_, rfl, fun a => ?_, rfl⟩
    · simp [exec, execDormantEntry, hm, hwake, hd, hidle, hc, hs, State.modPower]
    · simp [readByte_zeroRange]
  · obtain ⟨l, hl⟩ := State.awake_idle ht hw he
    refine ⟨s.awake, ?_, ?_⟩
    · simp [exec, execWakeComplete, hwake, hm]
      rfl
    · rw [hl]
      exact ⟨rfl, rfl, rfl⟩

end Sys2Proof.Machine
end

section
/-! PROOFS. What sending to the other members changes: the links, the numbers frames take, and what has left the module. -/

namespace Sys2Proof.Machine

/-- From one state to the next, frames have left the module, and what else changed are the links and the numbers of frames (R241 to
R247). -/
def State.Sends (s t : State) : Prop :=
  ∃ links frames numbers, t = { s with links := links, out := s.out ++ frames, ring := { s.ring with e2eTx := numbers } } ∧
    ∀ x ∈ frames, ∃ p f, x = Out.frame p f

namespace State.Sends

theorem refl (s : State) : s.Sends s := ⟨s.links, [], s.ring.e2eTx, by simp, by simp⟩

theorem trans {s t u : State} (h : s.Sends t) (h' : t.Sends u) : s.Sends u := by
  obtain ⟨l, f, n, rfl, hf⟩ := h
  obtain ⟨l', f', n', rfl, hf'⟩ := h'
  refine ⟨l', f ++ f', n', by simp, fun x hx => ?_⟩
  rcases List.mem_append.mp hx with hx | hx
  · exact hf x hx
  · exact hf' x hx

theorem modLink (s : State) (p : Nat) (f : Link → Link) : s.Sends (s.modLink p f) := 
  ⟨s.links.put p (f (s.link p)), [], s.ring.e2eTx, by simp [State.modLink], by simp⟩

theorem frame (s : State) (p : Nat) (f : Frame) : s.Sends (s.emit (.frame p f)) :=
  ⟨s.links, [.frame p f], s.ring.e2eTx, rfl, by simp⟩

theorem transmit (s : State) (p : Nat) (f : Frame) : s.Sends (s.transmit p f) := (modLink s p _).trans (frame _ p _)

theorem trySend {s t : State} {p : Nat} {f : Frame} (h : s.trySend p f = some t) : s.Sends t := by
  unfold State.trySend at h
  extract_lets l c at h
  split at h
  · cases h
  · split at h
    · cases h; exact transmit s p f
    · split at h
      · split at h
        · cases h; exact (modLink s p _).trans (transmit _ p f)
        · cases h
      · split at h
        · cases h; exact (modLink s p _).trans (transmit _ p f)
        · split at h
          · cases h; exact (modLink s p _).trans (transmit _ p f)
          · cases h

theorem pumpPassing (p q : Nat) (l : List Passing) (blocked : List Nat) (s : State) : s.Sends (State.pumpPassing p q l blocked s) := by
  induction l generalizing blocked s with
  | nil => exact refl s
  | cons x xs ih =>
    rw [State.pumpPassing]
    split
    · exact ih blocked s
    · split
      case h_1 t ht => exact ((trySend ht).trans (modLink t q _)).trans (ih blocked _)
      case h_2 => exact ih _ s

theorem sendFirst {p : Nat} {l : List Frame} {s t : State} (h : s.sendFirst p l = some t) : s.Sends t := by
  induction l with
  | nil => cases h
  | cons f l ih =>
    rw [State.sendFirst] at h
    split at h
    case h_1 u hu => cases h; exact (trySend hu).trans (modLink u p _)
    case h_2 => exact ih h

theorem pumpOne {p : Nat} {s t : State} (h : s.pumpOne p = some t) : s.Sends t := by
  unfold State.pumpOne at h
  extract_lets l through plain own at h
  split at h
  case h_1 u hu => cases h; exact sendFirst hu
  case h_2 =>
    split at h
    · split at h
      case h_1 u hu => cases h; exact (sendFirst hu).trans (modLink u p _)
      case h_2 => cases h
    · cases h

theorem pumpQueue (p n : Nat) (s : State) : s.Sends (State.pumpQueue p n s) := by
  induction n generalizing s with
  | zero => exact refl s
  | succ n ih =>
    rw [State.pumpQueue]
    split
    case h_1 t ht => exact (pumpOne ht).trans (ih t)
    case h_2 => exact refl s

theorem pump (s : State) (p : Nat) : s.Sends (s.pump p) := by
  unfold State.pump
  extract_lets q passed turned
  have hpassed : s.Sends passed := pumpPassing p q _ [] s
  have hturned : passed.Sends turned := by
    dsimp only [turned]
    split
    · exact pumpPassing p p _ [] passed
    · exact refl passed
  exact (hpassed.trans hturned).trans (pumpQueue p _ turned)

theorem enqueue (s : State) (p : Nat) (f : Frame) : s.Sends (s.enqueue p f) := (modLink s p _).trans (pump _ p)

theorem enqueueLive (s : State) (p : Nat) (f : Frame) : s.Sends (s.enqueueLive p f) := by
  unfold State.enqueueLive
  split
  · exact refl s
  · exact enqueue s p f

theorem nextE2e (s : State) (pair : Nat) : s.Sends (s.nextE2e pair).2 :=
  ⟨s.links, [], s.ring.e2eTx.put pair ((s.ring.e2eTx.getOr pair 0 + 1) % 2 ^ 24), by simp [State.nextE2e, State.modRing], by simp⟩

theorem ringSendTag (s : State) (dst msgType ctx tag length : Nat) (payload : Payload) :
    s.Sends (s.ringSendTag dst msgType ctx tag length payload) := by
  unfold State.ringSendTag
  split
  · exact refl s
  · exact (nextE2e s dst).trans (enqueue _ _ _)

theorem ringSend (s : State) (dst msgType ctx length : Nat) (payload : Payload) : s.Sends (s.ringSend dst msgType ctx length payload) :=
  ringSendTag s dst msgType ctx 0 length payload

theorem ringBroadcast (s : State) (msgType ctx length : Nat) (payload : Payload) :
    s.Sends (s.ringBroadcast msgType ctx length payload) := by
  unfold State.ringBroadcast
  split
  · exact refl s
  · obtain ⟨n, t, hn⟩ : ∃ n t, s.nextE2e bcastPair = (n, t) := ⟨_, _, rfl⟩
    have hnext : s.Sends t := by simpa [hn] using nextE2e s bcastPair
    simp only [hn]
    split
    · exact hnext.trans ((enqueueLive t east _).trans (enqueueLive _ west _))
    · exact hnext.trans (enqueue t east _)

theorem foldl {α : Type} {f : State → α → State} (h : ∀ (s : State) a, s.Sends (f s a)) (l : List α) (s : State) : s.Sends (l.foldl f s) := by
  induction l generalizing s with
  | nil => exact refl s
  | cons a l ih => exact (h s a).trans (ih _)

theorem eachDo {α : Type} {f : α → State → State} (h : ∀ (s : State) a, s.Sends (f a s)) (l : List α) (s : State) : s.Sends (eachDo l f s) :=
  foldl h l s

/-- What is sent is sent last. -/
theorem framesOnly {s t : State} (h : s.Sends t) : FramesOnly s t := by
  obtain ⟨l, f, n, rfl, hf⟩ := h
  exact ⟨f, rfl, hf⟩

end State.Sends

end Sys2Proof.Machine
end

section
/-! PROOFS. Contexts: creation, suspension, shares, and the stop of a program's unit. -/

namespace Sys2Proof.Machine

/-! ## CONTEXT_CREATE (R273, R274, R331) -/

/-- What a context's life draws are random numbers; a seed that is given is taken. -/
theorem State.drawLife_eq (s : State) (given : Option Nat) : ∃ salt seed n,
    s.drawLife given = (salt, seed, { s with drbgRequests := n }) ∧ ∀ k, given = some k → seed = k := by
  cases given with
  | none => exact ⟨_, _, _, rfl, by simp⟩
  | some k => exact ⟨_, _, _, rfl, by simp⟩

/-- A creation in service mode with its settings in range, its grants free and a place: the HBM decides. -/
theorem State.createCtx_place {s : State} {n g base : Nat} {p : CreateParams} {t : Ticket} (ht : s.transport = false)
    (hr : createInRange p = true) (hg : s.grantTaken (p.variantGrant.getD (0, 0)) = false)
    (hl : s.slotTaken (p.slotGrant.getD []) = false) (hc : s.createCount n < 0xFFFF) (hp : s.placeGroup p = .inr (g, base)) :
    s.createCtx n p t = match s.needHbm (settingsOf s.profile p g []).hbmPages with
      | (some now, u) => u.placeCtx n p t (settingsOf s.profile p g []) base now
      | (none, u) => u.answer t stBusy := by
  have hext : s.placeExtents [] [] = some [] := by rfl
  have hc' : ¬ 0xFFFF ≤ s.createCount n := Nat.not_le.mpr hc
  unfold State.createCtx
  rw [if_neg (by simp [hr]), if_neg (by simp [hg, hl]), if_neg hc', hp, ht]
  simp only [Bool.false_eq_true, if_false, hext]
  generalize s.needHbm (settingsOf s.profile p g []).hbmPages = need
  obtain ⟨space, u⟩ := need
  cases space <;> rfl

/-- A creation in service mode that the gaffer takes. -/
theorem exec_contextCreate_service {s : State} {c : Cmd} {n : Nat} {ss : Session} {p : CreateParams}
    (h : Takes (specOf opContextCreate) c n ss s) (ht : s.transport = false) (hs : p.pageStore.isSome = true) :
    exec (.contextCreate c p) s = .next ((s.awaiting c opContextCreate n).createCtx c.ctx p (ticketOf c opContextCreate n ss.serial)).settle := by
  have ht' : (s.awaiting c opContextCreate n).transport = false := ht
  rw [exec, execContextCreate, gaffer_takes h]
  simp only [ht']
  rw [if_neg (by simp [Option.isSome_iff_ne_none.mp hs])]
  rfl

theorem contexts_are_created_service (s : State) (c : Cmd) (n : Nat) (ss : Session) (p : CreateParams) (g base : Nat)
    (h : Takes (specOf opContextCreate) c n ss s) (ht : s.transport = false) (hs : p.pageStore.isSome = true)
    (hr : createInRange p = true) (hg : s.grantTaken (p.variantGrant.getD (0, 0)) = false)
    (hl : s.slotTaken (p.slotGrant.getD []) = false) (hc : s.createCount c.ctx < 0xFFFF) (hp : s.placeGroup p = .inr (g, base))
    (hh : (settingsOf s.profile p g []).hbmPages ≤ s.hbmFree) :
    ∃ (u : State) (x : Ctx), exec (.contextCreate c p) s = .next u.settle ∧ u.ctx c.ctx = some x ∧ x.st = .creating ∧ x.home = true ∧
      x.incarnation = s.flash.bootCount % 65536 * 65536 + (s.createCount c.ctx + 1) % 65536 ∧
      x.settings = settingsOf s.profile p g [] ∧ x.tileBase = base ∧ x.keys = [] ∧ x.windows = [] ∧ x.programs = [] ∧ x.queue = [] ∧
      x.createTicket = some (ticketOf c opContextCreate n ss.serial) ∧ (∀ k, p.seed = some k → x.seed = k) ∧
      u.createCount c.ctx = s.createCount c.ctx + 1 ∧ u.hbmFree = s.hbmFree - (settingsOf s.profile p g []).hbmPages ∧
      ∀ k, k ≠ c.ctx → u.ctx k = s.ctx k := by
  let taken : State := { s.awaiting c opContextCreate n with hbmFree := s.hbmFree - (settingsOf s.profile p g []).hbmPages }
  obtain ⟨salt, seed, k, hlife, hseed⟩ := taken.drawLife_eq p.seed
  let x := newCtx true (s.nextIncarnation c.ctx) (s.newUid c.ctx) (some salt) seed base (settingsOf s.profile p g [])
    (some (ticketOf c opContextCreate n ss.serial))
  let placed : State := { taken with
    drbgRequests := k, createCounts := s.createCounts.put c.ctx (s.createCount c.ctx + 1), ctxs := s.ctxs.put c.ctx x }
  have hneed : (s.awaiting c opContextCreate n).needHbm (settingsOf s.profile p g []).hbmPages = (some true, taken) := if_pos hh
  have hcreate := State.createCtx_place (s := s.awaiting c opContextCreate n) (t := ticketOf c opContextCreate n ss.serial) ht hr hg hl hc hp
  obtain ⟨u, hu, hsend⟩ : ∃ u, (s.awaiting c opContextCreate n).createCtx c.ctx p (ticketOf c opContextCreate n ss.serial) = u ∧
      placed.Sends u := by
    refine ⟨_, hcreate, ?_⟩
    rw [show (s.awaiting c opContextCreate n).profile = s.profile from rfl, hneed]
    simp only [State.placeCtx, hlife]
    exact .ringBroadcast placed _ _ _ _
  obtain ⟨links, frames, numbers, rfl, -⟩ := hsend
  refine ⟨_, x, (exec_contextCreate_service h ht hs).trans (by rw [hu]), ?_, rfl, rfl, rfl, rfl, rfl, rfl, rfl, rfl, rfl, rfl, hseed, ?_, rfl,
    fun k hk => ?_⟩
  · simp [placed, State.ctx]
  · simp [placed, State.createCount, Tab.getOr]
  · simp [placed, State.ctx, Tab.find_put, Ne.symm hk]

/-- A creation that the members have placed, or refused. -/
theorem contexts_created_complete (s : State) (n : Nat) (x : Ctx) (t : Ticket) (hx : s.ctx n = some x) (hst : x.st = .creating)
    (hh : x.home = true) (hw : s.ctxWaits n = false) (ht : x.createTicket = some t) :
    (exec (.contextCreateComplete n none) s =
      .next ((s.setCtx n { x with st := .active, createTicket := none }).answerWith t stOk (s.createParams x))) ∧
    ∀ status, ∃ u : State, exec (.contextCreateComplete n (some status)) s = .next (u.answer t status).settle ∧ u.ctxState n = .free ∧
      u.hbmFree = s.hbmFree + x.settings.hbmPages ∧ ∀ k, k ≠ n → u.ctx k = s.ctx k := by
  have hexec : ∀ r, exec (.contextCreateComplete n r) s = match r with
      | some status => settled (.next (((s.freeCtx n).ringBroadcast 5 n (msgLength 5) (.announce .gone)).answer t status))
      | none => .next ((s.setCtx n { x with st := .active, createTicket := none }).answerWith t stOk (s.createParams x)) := by
    intro r
    rw [exec, execContextCreateComplete, hx]
    simp only [hst, hh, hw, ht]
    cases r <;> rfl
  refine ⟨hexec none, fun status => ?_⟩
  have hfree : s.freeCtx n = { (s.zeroCtx x).dropCtxWait n with
      ctxs := s.ctxs.del n, hbmFree := s.hbmFree + x.settings.hbmPages } := by
    simp only [State.freeCtx, hx, hw]
    rfl
  have hctx : ∀ k, (s.freeCtx n).ctx k = if n = k then none else s.ctx k := by
    intro k
    rw [hfree]
    exact Tab.find_del _ _ _
  have hhbm : (s.freeCtx n).hbmFree = s.hbmFree + x.settings.hbmPages := by rw [hfree]
  obtain ⟨links, frames, numbers, heq, -⟩ := State.Sends.ringBroadcast (s.freeCtx n) 5 n (msgLength 5) (.announce .gone)
  have hctx' : ∀ k, ((s.freeCtx n).ringBroadcast 5 n (msgLength 5) (.announce .gone)).ctx k = if n = k then none else s.ctx k := by
    intro k
    rw [heq]
    exact hctx k
  refine ⟨_, hexec (some status), ?_, ?_, fun k hk => ?_⟩
  · rw [State.ctxState, hctx', if_pos rfl]
  · rw [heq]; exact hhbm
  · rw [hctx', if_neg (Ne.symm hk)]

/-- Settles O25: the three ends of a creation in service mode. -/
theorem contextsAreCreated : Obligations.contexts_are_created := by
  refine ⟨contexts_are_created_service, contexts_created_complete,
    fun s c n ss p g base h ht hs hr hg hl hc hp hh => ?_⟩
  have hneed : (s.awaiting c opContextCreate n).needHbm (settingsOf s.profile p g []).hbmPages = (none, s.awaiting c opContextCreate n) := by
    rw [State.needHbm, if_neg]
    · exact if_pos hh
    · show ¬ (settingsOf s.profile p g []).hbmPages ≤ s.hbmFree
      omega
  rw [exec_contextCreate_service h ht hs,
    State.createCtx_place (s := s.awaiting c opContextCreate n) (t := ticketOf c opContextCreate n ss.serial) ht hr hg hl hc hp]
  rw [show (s.awaiting c opContextCreate n).profile = s.profile from rfl, hneed]

end Sys2Proof.Machine
end

section
/-! PROOFS. Suspended contexts, their shares, the contexts that become ready, and the stop of a program's unit. -/

namespace Sys2Proof.Machine

/-! ## Steps that repeat -/

/-- What holds before a walk and is kept by each of its steps holds after it. -/
theorem eachDo_induction {α : Type} {P : State → Prop} {f : α → State → State} (l : List α) {s : State} (h : P s)
    (hstep : ∀ a ∈ l, ∀ t, P t → P (f a t)) : P (eachDo l f s) := by
  induction l generalizing s with
  | nil => exact h
  | cons a l ih => exact ih (hstep a (by simp) s h) fun b hb => hstep b (by simp [hb])

/-- What each step of a walk makes true of its own member, and no other step undoes, holds of every member afterwards. -/
theorem eachDo_forall {α : Type} {Q : α → State → Prop} {f : α → State → State} {l : List α} {s : State}
    (hown : ∀ a t, Q a (f a t)) (hkeep : ∀ a b t, Q a t → Q a (f b t)) : ∀ a ∈ l, Q a (eachDo l f s) := by
  induction l generalizing s with
  | nil => simp
  | cons b l ih =>
    intro a ha
    by_cases hl : a ∈ l
    · exact ih a hl
    · obtain rfl : a = b := by simpa [hl] using ha
      exact eachDo_induction (P := Q a) l (hown a s) fun b _ t => hkeep a b t

/-- A change of an entry that stands is a write of it. -/
theorem State.modCtx_eq_setCtx {s : State} {n : Nat} {x : Ctx} (h : s.ctx n = some x) (f : Ctx → Ctx) :
    s.modCtx n f = s.setCtx n (f x) := by
  have h : s.ctxs.find n = some x := h
  simp [State.modCtx, State.setCtx, Tab.modify, h]

/-- An entry of a table in order is found under its number. -/
theorem Tab.find_of_mem {α : Type} {t : Tab α} (h : t.wf) {p : Nat × α} (hp : p ∈ t) : t.find p.1 = some p.2 := by
  induction t with
  | nil => simp at hp
  | cons q t ih =>
    obtain ⟨hq, ht⟩ := List.pairwise_cons.mp h
    rcases List.mem_cons.mp hp with rfl | hp
    · simp [Tab.find]
    · have hlt : q.1 < p.1 := hq _ (List.mem_map_of_mem hp)
      simp [Tab.find, Nat.ne_of_lt hlt, ih ht hp]

/-- An entry that is found stands in the table. -/
theorem Tab.mem_of_find {α : Type} {t : Tab α} {n : Nat} {v : α} (h : t.find n = some v) : (n, v) ∈ t := by
  induction t with
  | nil => simp at h
  | cons q t ih =>
    by_cases hq : q.1 = n
    · have : q.2 = v := by simpa [Tab.find, hq] using h
      simp [← hq, ← this]
    · exact List.mem_cons_of_mem _ (ih (by simpa [Tab.find, hq] using h))

/-- Where one entry alone has a property, a filter leaves it alone. -/
theorem Tab.filter_eq_singleton {α : Type} {t : Tab α} (h : t.wf) {n : Nat} {v : α} {p : Nat × α → Bool} (hn : t.find n = some v)
    (hp : p (n, v) = true) (hother : ∀ k w, k ≠ n → t.find k = some w → p (k, w) = false) : t.filter p = [(n, v)] := by
  have hmem : ∀ q, q ∈ t.filter p ↔ q = (n, v) := by
    intro q
    constructor
    · intro hq
      obtain ⟨hq, hpq⟩ := List.mem_filter.mp hq
      have hf := Tab.find_of_mem h hq
      by_cases hk : q.1 = n
      · rw [hk, hn] at hf
        exact Prod.ext hk (by simpa using hf.symm)
      · exact absurd hpq (by simp [hother q.1 q.2 hk hf])
    · rintro rfl
      exact List.mem_filter.mpr ⟨Tab.mem_of_find hn, hp⟩
  have hnodup : (t.filter p).Nodup := List.Nodup.of_map Prod.fst ((Tab.wf_filter h p).imp fun hlt => Nat.ne_of_lt hlt)
  exact List.perm_singleton.mp ((List.perm_ext_iff_of_nodup hnodup (List.nodup_singleton _)).mpr fun q => by simp [hmem])

/-! ## Suspended contexts report (R291) -/

/-- Off the ring a change of state changes that context alone. -/
theorem State.enterState_alone {s : State} {n : Nat} {x : Ctx} (h : s.ctx n = some x) (hr : s.onRing = false) (st : CtxState) :
    s.enterState n st = s.setCtx n { x with st := st } := by
  have hr' : (s.setCtx n { x with st := st }).onRing = false := hr
  simp only [State.enterState, h]
  split
  · simp [State.ringBroadcast, hr']
  · rfl

/-- With one context that may report, it alone is looked at. -/
theorem State.reportQuiet_one {s : State} {n : Nat} {x : Ctx} (hn : s.ctx n = some x) (hwf : s.ctxs.wf) (hh : x.home = true)
    (hr : x.running = none) (ht : x.suspendTickets ≠ [])
    (hother : ∀ k y, k ≠ n → s.ctx k = some y → y.suspendTickets = [] ∧ y.awaitQuiet = []) :
    s.reportQuiet = if x.awaitQuiet.all s.vacantPos then
      (s.setCtx n { x with suspendTickets := [], awaitQuiet := [] }).answerAll x.suspendTickets stOk else s := by
  rw [State.reportQuiet, Tab.filter_eq_singleton hwf hn (by simp [hr, ht])]
  · simp only [eachDo, List.foldl_cons, List.foldl_nil, hh]
    rfl
  · intro k w hk hw
    obtain ⟨hs, hq⟩ := hother k w hk hw
    simp [hs, hq]

/-! ## The contexts that become ready (R280, R281) -/

/-- Memory differs in no byte outside the stash areas of the tiles, and beside it only tiles. -/
def State.SwapsTiles (s t : State) : Prop :=
  ∃ mem tiles, t = { s with mem := mem, tiles := tiles } ∧
    ∀ a, (∀ n ∈ s.tiles.keys, a < tileAddr n (tileBytes - s.stashArea n) ∨ tileAddr n (tileBytes - s.stashArea n) + s.stashArea n ≤ a) →
      readByte mem a = readByte s.mem a

theorem State.SwapsTiles.changeCtx {s t : State} (h : s.SwapsTiles t) {n : Nat} (hn : n ∈ s.tiles.keys) (ctx : Nat) :
    s.SwapsTiles (t.changeCtx n ctx) := by
  obtain ⟨mem, tiles, rfl, hmem⟩ := h
  unfold State.changeCtx
  split
  · exact ⟨mem, tiles, rfl, hmem⟩
  · refine ⟨_, _, rfl, fun a ha => ?_⟩
    rw [readByte_zeroRange, if_neg, hmem a ha]
    have := ha n hn
    rw [show State.stashArea { s with mem := mem, tiles := tiles } n = s.stashArea n from rfl]
    omega

theorem State.SwapsTiles.changeHeld {s t : State} (h : s.SwapsTiles t) {n : Nat} (hn : n ∈ s.tiles.keys) : s.SwapsTiles (t.changeHeld n) := by
  unfold State.changeHeld
  split
  · split
    · exact h
    · exact h.changeCtx hn _
  · exact h

/-- Tiles that are held anew are zeroed in their stash areas at most. -/
theorem State.swapsTiles_holdTiles (s : State) : s.SwapsTiles s.holdTiles := by
  unfold State.holdTiles
  extract_lets ready busy held
  refine eachDo_induction _ ⟨s.mem, _, rfl, fun a _ => rfl⟩ fun n hn t ht => State.SwapsTiles.changeHeld ht ?_
  have : held.tiles.keys = s.tiles.keys := by
    simp [held, Tab.keys, Tab.each]
  rw [← this]
  exact List.Sublist.subset (List.filter_sublist.map Prod.fst) hn

/-- Readiness marks each context, and then holds tiles. -/
theorem State.noteReady_eq (s : State) : ∃ f : Nat → Ctx → Ctx, (∀ n c, ∃ v b, f n c = { c with v := v, present := b }) ∧
    s.noteReady = { s with ctxs := s.ctxs.each f }.holdTiles := by
  refine ⟨_, fun n c => ⟨_, _, rfl⟩, rfl⟩

/-- A mark of readiness leaves every stash area as large as it was. -/
theorem State.stashArea_each {s : State} {f : Nat → Ctx → Ctx} (hf : ∀ n c, ∃ v b, f n c = { c with v := v, present := b }) (n : Nat) :
    State.stashArea { s with ctxs := s.ctxs.each f } n = s.stashArea n := by
  have hset : ∀ k c, (f k c).settings = c.settings := fun k c => by obtain ⟨v, b, h⟩ := hf k c; rw [h]
  simp [State.stashArea, Tab.vals, Tab.each, Function.comp_def, hset]

/-- Readiness tells nobody, keeps each context but for its turn, and zeroes stash areas at most. -/
theorem State.noteReady_keeps (s : State) : s.noteReady.out = s.out ∧
    (∀ a, (∀ n ∈ s.tiles.keys, a < tileAddr n (tileBytes - s.stashArea n) ∨
      tileAddr n (tileBytes - s.stashArea n) + s.stashArea n ≤ a) → readByte s.noteReady.mem a = readByte s.mem a) ∧
    ∀ k, (s.noteReady.ctx k).map (fun y => (y.st, y.settings, y.running)) = (s.ctx k).map (fun y => (y.st, y.settings, y.running)) := by
  obtain ⟨f, hf, heq⟩ := s.noteReady_eq
  obtain ⟨mem, tiles, hold, hmem⟩ := State.swapsTiles_holdTiles { s with ctxs := s.ctxs.each f }
  simp only [State.stashArea_each hf] at hmem
  rw [heq, hold]
  refine ⟨rfl, hmem, fun k => ?_⟩
  simp only [State.ctx, Tab.find_each, Option.map_map]
  refine congrFun (congrArg _ (funext fun c => ?_)) _
  obtain ⟨v, b, h⟩ := hf k c
  simp [h]

/-! ## CONTEXT_SUSPEND, CONTEXT_RESUME, CONTEXT_SHARES -/

/-- A command of the gaffer whose work ends with an answer, as `exec_answers` has it. -/
theorem exec_gaffer_answers {i : Instr} {c : Cmd} {n op st : Nat} {ss : Session} {s u : State} {p : List (Nat × Bytes)}
    {body : Ticket → State → Res} (h : Takes (specOf op) c n ss s) (hc : Clear s ss) (hi : exec i s = gaffer op c body s)
    (hbody : body (ticketOf c op n ss.serial) (s.awaiting c op n) = .next (u.answerWith (ticketOf c op n ss.serial) st p))
    (hu : u.sessions = (s.awaiting c op n).sessions) (hq : u.qps = s.qps) (hp : u.ports = s.ports) (hr : u.profile = s.profile)
    (ho : u.out = s.out) (hop : (specOf op).op = op := by rfl) :
    ∃ t : State, exec i s = .next t ∧ SendsOnly (s.replyTo c op st p) s t ∧ t = { u with out := t.out, sessions := t.sessions } :=
  exec_answers (body := fun t _ s => body t s) h hc hi hbody hu hq hp hr ho hop

/-- Settles O26: each command by its branch on the state of the context; reports and readiness by the lemmas above. -/
theorem contextsPauseAndTakeShares : Obligations.contexts_pause_and_take_shares := by
  refine ⟨fun s c n ss x hx => ⟨fun h => ⟨fun hst => ?_, fun hst => ?_⟩, fun h => ⟨fun hst => ?_, fun hst => ?_⟩,
    fun st hr => State.enterState_alone hx hr st,
    fun hwf hh hrun ht hother => ⟨fun hq => ?_, fun hq => ?_⟩, s.noteReady_keeps⟩,
    fun s c n ss x w caps rw h hc hx => ⟨fun hw hcaps hrw => ?_, fun v hv hbad => ?_⟩⟩
  · have hx' : (s.awaiting c opContextSuspend n).ctx c.ctx = some x := hx
    rw [exec, execContextSuspend, gaffer_takes h]
    simp only [State.ctxState, hx', hst, if_false, State.modCtx_eq_setCtx hx']
    rfl
  · have hx' : (s.awaiting c opContextSuspend n).ctx c.ctx = some x := hx
    rw [exec, execContextSuspend, gaffer_takes h]
    simp only [State.ctxState, hx', hst, if_true]
  · have hx' : (s.awaiting c opContextResume n).ctx c.ctx = some x := hx
    rw [exec, execContextResume, gaffer_takes h]
    simp only [State.ctxState, hx', hst, if_true, State.modCtx_eq_setCtx hx']
    rfl
  · have hx' : (s.awaiting c opContextResume n).ctx c.ctx = some x := hx
    rw [exec, execContextResume, gaffer_takes h]
    simp only [State.ctxState, hx', hst, if_false]
  · rw [State.reportQuiet_one hx hwf hh hrun ht hother, if_pos hq]
  · rw [State.reportQuiet_one hx hwf hh hrun ht hother, if_neg (by simp [hq])]
  · let f : Ctx → Ctx := fun x => { x with settings := { x.settings with
      weight := w.getD x.settings.weight, caps := caps.getD x.settings.caps, ringWeight := rw.getD x.settings.ringWeight } }
    obtain ⟨t, ht, hsend, heq⟩ := exec_gaffer_answers (i := .contextShares c w caps rw) (op := opContextShares) (st := stOk) (p := [])
      (u := (s.awaiting c opContextShares n).modCtx c.ctx f) h hc
      (show _ = execContextShares c w caps rw s from rfl) (by simp only [hw, hcaps, hrw]; rfl) rfl rfl rfl rfl rfl
    have hctxs : t.ctxs = s.ctxs.modify c.ctx f := by rw [heq]; rfl
    have hfind : s.ctxs.find c.ctx = some x := hx
    refine ⟨t, ht, hsend, by simp [State.ctx, hctxs, Tab.find_modify, hfind, f],
      fun k hk => by simp [State.ctx, hctxs, Tab.find_modify, Ne.symm hk], ?_⟩
    rw [hctxs, heq]
    rfl
  · have hout : given w (weightOk 65535) = false := by
      simp [hv, given, weightOk]
      omega
    exact exec_gaffer_answers (i := .contextShares c w caps rw) (op := opContextShares) (st := stNotPermitted) (p := [])
      (u := s.awaiting c opContextShares n) h hc
      (show _ = execContextShares c w caps rw s from rfl) (by simp only [hout]; rfl) rfl rfl rfl rfl rfl

/-! ## TRANSPORT_UNIT_STOP (R48, R283) -/

/-- Streams that are abandoned change the streams and the memory of their buffers. -/
theorem State.abandonStrm_eq (s : State) (k : Nat) : ∃ x m, s.abandonStrm k = { s with streams := x, mem := m } := by
  unfold State.abandonStrm
  split
  · split
    · exact ⟨_, _, rfl⟩
    · split
      · exact ⟨_, _, rfl⟩
      · unfold State.zeroBuffer
        split <;> exact ⟨_, _, rfl⟩
  · exact ⟨_, _, rfl⟩

theorem State.abandonAll_eq (s : State) (p : Strm → Bool) : ∃ x m, s.abandonAll p = { s with streams := x, mem := m } := by
  refine eachDo_induction (P := fun t => ∃ x m, t = { s with streams := x, mem := m }) _ ⟨_, _, rfl⟩ ?_
  rintro k - _ ⟨x, m, rfl⟩
  obtain ⟨x', m', h⟩ := State.abandonStrm_eq { s with streams := x, mem := m } k
  exact ⟨x', m', h⟩

/-- The end of a program keeps the tiles, and leaves its context without a program. -/
theorem State.endProgram_keeps (s : State) (n st : Nat) {x : Ctx} (hx : s.ctx n = some x) :
    (s.endProgram n st).tiles = s.tiles ∧ (s.endProgram n st).ctx n = some { x with prog := none } := by
  simp only [State.endProgram, hx]
  cases hp : x.prog with
  | none =>
    have : { x with prog := none } = x := by rw [← hp]
    exact ⟨rfl, by rw [this]; exact hx⟩
  | some p =>
    dsimp only
    generalize hu : s.abandonAll _ = u
    obtain ⟨y, m, rfl⟩ : ∃ y m, u = { s with streams := y, mem := m } := hu ▸ s.abandonAll_eq _
    obtain ⟨o, r, hans⟩ := State.answerWith_eq (State.setCtx { s with streams := y, mem := m } n { x with prog := none }) p.ticket st
      ([p32 0x81 p.index] ++ (if st ≤ stOkDegraded then [] else [p32 0x82 p.index]))
    rw [hans]
    exact ⟨rfl, by simp [State.ctx]⟩

/-- A tile that is stopped is empty; every other tile, and every context, stays. -/
theorem State.stopTile_keeps (s : State) (n : Nat) :
    (s.stopTile n).ctxs = s.ctxs ∧ ((s.stopTile n).tile n).queue = [] ∧ ((s.stopTile n).tile n).loaded = [] ∧
    ∀ k, k ≠ n → (s.stopTile n).tile k = s.tile k := by
  unfold State.stopTile
  extract_lets spoiled
  have hspoiled : spoiled.ctxs = s.ctxs ∧ spoiled.tiles = s.tiles :=
    eachDo_induction (P := fun t => t.ctxs = s.ctxs ∧ t.tiles = s.tiles) _ ⟨rfl, rfl⟩ fun _ _ _ h => h
  obtain ⟨hctxs, htiles⟩ := hspoiled
  refine ⟨hctxs, ?_, ?_, fun k hk => ?_⟩
  · simp [State.tile, State.modTile, Tab.getOr]
  · simp [State.tile, State.modTile, Tab.getOr]
  · simp [State.tile, State.modTile, Tab.getOr, Tab.find_put, Ne.symm hk, htiles]

/-- Settles O29: the tiles of the unit are stopped, then freed, and then its program ends, which no longer touches them. -/
theorem transportUnitStops : Obligations.transport_unit_stops := by
  intro s n x tiles hx hrun hst
  let stopped := eachDo tiles (fun n s => s.stopTile n) s
  let freed := eachDo tiles (fun n s => s.modTile n (fun t => { t with held := none })) stopped
  let ended := freed.modCtx n (fun x => { x with running := none })
  have hexec : exec (.transportUnitStop n) s = .next (ended.endProgram n stContextGone).settle := by
    rw [exec, execTransportUnitStop, hx]
    simp only [hrun]
    rw [if_pos (by simpa using hst)]
    rfl
  have hctxs : freed.ctxs = s.ctxs :=
    eachDo_induction (P := fun t => t.ctxs = s.ctxs) tiles
      (eachDo_induction (P := fun t => t.ctxs = s.ctxs) tiles rfl fun k _ t h => (t.stopTile_keeps k).1.trans h) fun _ _ _ h => h
  have hctx : ended.ctx n = some { x with running := none } := by
    have hfind : s.ctxs.find n = some x := hx
    simp [ended, State.ctx, Tab.find_modify, hctxs, hfind]
  have hstopped : ∀ t ∈ tiles, (stopped.tile t).queue = [] ∧ (stopped.tile t).loaded = [] := by
    refine eachDo_forall (Q := fun t s => (s.tile t).queue = [] ∧ (s.tile t).loaded = [])
      (fun a t => ?_) (fun a b t h => ?_)
    · obtain ⟨-, hqueue, hloaded, -⟩ := t.stopTile_keeps a
      exact ⟨hqueue, hloaded⟩
    · obtain ⟨-, hqueue, hloaded, hother⟩ := t.stopTile_keeps b
      by_cases hab : a = b
      · subst hab
        exact ⟨hqueue, hloaded⟩
      · rw [hother a hab]
        exact h
  have hfreed : ∀ t ∈ tiles, (freed.tile t).held = none := by
    refine eachDo_forall (Q := fun t s => (s.tile t).held = none) (fun a t => ?_) (fun a b t h => ?_)
    · simp [State.tile, State.modTile, Tab.getOr]
    · by_cases hab : b = a
      · simp [State.tile, State.modTile, Tab.getOr, hab]
      · simpa [State.tile, State.modTile, Tab.getOr, Tab.find_put, hab] using h
  have hkept : ∀ t, (freed.tile t).queue = (stopped.tile t).queue ∧ (freed.tile t).loaded = (stopped.tile t).loaded := by
    intro t
    refine eachDo_induction (P := fun u => (u.tile t).queue = (stopped.tile t).queue ∧ (u.tile t).loaded = (stopped.tile t).loaded)
      tiles ⟨rfl, rfl⟩ fun a _ u h => ?_
    by_cases hat : a = t
    · subst hat
      simpa [State.tile, State.modTile, Tab.getOr] using h
    · simpa [State.tile, State.modTile, Tab.getOr, Tab.find_put, hat] using h
  obtain ⟨htiles, hend⟩ := ended.endProgram_keeps n stContextGone hctx
  refine ⟨_, hexec, ⟨_, hend, rfl, rfl, rfl⟩, fun t ht => ?_⟩
  have htile : (ended.endProgram n stContextGone).tile t = freed.tile t := by
    rw [State.tile, htiles]
    rfl
  rw [htile, (hkept t).1, (hkept t).2]
  exact ⟨(hstopped t ht).1, hfreed t ht, (hstopped t ht).2⟩

end Sys2Proof.Machine
end

section
/-! PROOFS. Variants: how they are created, imported and leave. -/

namespace Sys2Proof.Machine

/-! ## Commands on a variant, and what is told of them -/

/-- A command on a variant of its context's grant does its work on the state in which its session awaits the reply. -/
theorem gafferVar_takes {op : Nat} {c : Cmd} {n : Nat} {ss : Session} {s : State} (h : Takes (specOf op) c n ss s)
    (hg : s.granted c.ctx c.variant = true) (body : Ticket → State → Res) (hop : (specOf op).op = op := by rfl) :
    gafferVar op c body s = body (ticketOf c op n ss.serial) (s.awaiting c op n) := by
  have hg' : ∀ k, (s.awaiting c k n).granted c.ctx c.variant = true := fun _ => hg
  rw [gafferVar, gafferWith_takes h, hop]
  simp only [hg', if_true]

theorem State.Sends.tellHolders (s : State) (v : Var) (msgType : Nat) (m : Payload) : s.Sends (s.tellHolders v msgType m) :=
  eachDo (fun s p => ringSend s p msgType v.ctx (msgLength msgType) m) _ s

theorem State.Sends.announceVar (s : State) (id : Nat) : s.Sends (s.announceVar id) := by
  unfold State.announceVar
  split
  · extract_lets seed
    split
    · exact tellHolders s _ _ _
    · exact refl s
  · exact refl s

/-- An answer after frames to other members, which leaves the sessions as they were. -/
theorem sendsLast_of_sends {s t u : State} {o : Out} {r : Tab Session} (h : t.Sends u) (ho : t.out = s.out)
    (hr : ∀ m, r.find m = s.sessions.find m) : SendsLast o s { u with out := u.out ++ [o], sessions := r } := by
  obtain ⟨l, f, e, rfl, hf⟩ := h
  exact ⟨⟨f, by simp [ho], hf⟩, hr⟩

/-! ## VARIANT_CREATE (R178 to R180, R337) -/

/-- The variant a VARIANT_CREATE places. -/
def State.createdVar (s : State) (b : BaseShape) (ctx : Nat) (p : VariantParams) : Var :=
  { s.blankVar ctx (s.ownersOf p.owners) b.layers s.freeNat.1 with
    tensors := ((List.range b.layers).flatMap (layerTensors b p)).zipIdx.map (fun x => newTensor b.format b.digest p x.2 x.1)
    manifestLen := ((List.range b.layers).flatMap (layerTensors b p)).length
    extras := (byNumber p.experts).map (fun e => ⟨e, none⟩)
    hbmPages := Config.variantHbm ((List.range b.layers).flatMap (layerTensors b p)) }

/-- The tensors of a variant that is created are those of its layers, each with both slots alike. -/
theorem State.createdVar_tensors (s : State) (b : BaseShape) (ctx : Nat) (p : VariantParams) :
    (s.createdVar b ctx p).tensors.map (fun t => t.info) = (List.range b.layers).flatMap (layerTensors b p) ∧
    ∀ t ∈ (s.createdVar b ctx p).tensors, t.slot0 = t.slot1 ∧ t.staged = none ∧
      (t.info.kind = 1 ∨ t.info.kind = 4 → t.committed.master = List.replicate (t.info.rows * t.info.cols) 0#32) := by
  refine ⟨?_, fun t ht => ?_⟩
  · simp [State.createdVar, newTensor, Function.comp_def]
  · simp only [State.createdVar, List.mem_map] at ht
    obtain ⟨x, -, rfl⟩ := ht
    refine ⟨rfl, rfl, fun hk => ?_⟩
    rcases hk with hk | hk <;> simp [newTensor, zeroState, initMaster, RuleSet.default] at hk ⊢ <;> simp [hk]

/-- Counted saturations change no other counter. -/
theorem State.countF8_eq (s : State) (n : Nat) : ∃ k, s.countF8 n = { s with counters := k } ∧
    ∀ i, i ≠ cF8Saturations → k.find i = s.counters.find i := by
  unfold State.countF8
  split
  · exact ⟨_, rfl, fun _ _ => rfl⟩
  · exact ⟨_, rfl, fun i hi => Tab.find_put_ne _ _ (Ne.symm hi)⟩

/-- A creation that is allowed and has its HBM counts the saturations of its copies and places the variant. -/
theorem State.createVariant_eq {s : State} {t : Ticket} {p : VariantParams} {b : BaseShape} (hb : s.base.shape = some b)
    (hv : s.var t.variant = none) (hok : createOk b p = true) (ho : s.ownersOk (s.ownersOf p.owners) = true)
    (hh : Config.variantHbm ((List.range b.layers).flatMap (layerTensors b p)) ≤ s.hbmFree) : ∃ sats params,
    s.createVariant t p = (State.countF8 { s with
      hbmFree := s.hbmFree - Config.variantHbm ((List.range b.layers).flatMap (layerTensors b p))
      freeCount := s.freeCount + 1 } sats).placeVar t.variant (s.createdVar b t.ctx p) t params := by
  have hfree : s.varState t.variant = .free := by rw [State.varState, hv]
  have hneed : s.needHbm (Config.variantHbm ((List.range b.layers).flatMap (layerTensors b p))) = (some true, { s with
    hbmFree := s.hbmFree - Config.variantHbm ((List.range b.layers).flatMap (layerTensors b p)) }) := if_pos hh
  refine ⟨((s.createdVar b t.ctx p).tensors.map (fun x => deriveSats b.format x.info.alpha x.committed.master)).sum,
    [p32 0x81 ((List.range b.layers).flatMap (layerTensors b p)).length], ?_⟩
  rw [State.createVariant, hb]
  dsimp only
  rw [if_neg (by simp [hfree, hok, ho]), hneed]
  rfl

/-- Placing a variant writes its entry, tells the other holders and answers. -/
theorem placeVar_last {s u : State} {k : OpSpec} {op : Nat} {c : Cmd} {n : Nat} {ss : Session} (h : Takes k c n ss s) (hc : Clear s ss)
    (hu : u.sessions = (s.awaiting c op n).sessions) (hq : u.qps = s.qps) (hp : u.ports = s.ports) (hr : u.profile = s.profile)
    (ho : u.out = s.out) (id : Nat) (v : Var) (params : List (Nat × Bytes)) (hv : { v with lastUse := u.intakeRounds } = v) :
    ∃ links out ring sessions answer,
      u.placeVar id v (ticketOf c op n ss.serial) params = { u with
        vars := u.vars.put id v, links := links, out := out, ring := { u.ring with e2eTx := ring }, sessions := sessions } ∧
      SendsLast (s.replyTo c op stOk answer) s (u.placeVar id v (ticketOf c op n ss.serial) params) := by
  have htold := State.Sends.announceVar (u.setVar id v) id
  obtain ⟨told, htold'⟩ : ∃ w, (u.setVar id v).announceVar id = w := ⟨_, rfl⟩
  have hplace : ∃ q, u.placeVar id v (ticketOf c op n ss.serial) params =
      ((u.setVar id v).announceVar id).answerWith (ticketOf c op n ss.serial) stOk q := by
    rw [State.placeVar, hv]
    exact ⟨_, rfl⟩
  obtain ⟨q, hplace⟩ := hplace
  obtain ⟨links, frames, numbers, heq, hf⟩ := htold
  obtain ⟨r, hans, hsess⟩ := answerWith_last (u := (u.setVar id v).announceVar id) (op := op) (st := stOk) (p := q) h hc
    (by rw [heq]; exact hu) (by rw [heq]; exact hq) (by rw [heq]; exact hp) (by rw [heq]; exact hr)
  refine ⟨links, u.out ++ frames ++ [s.replyTo c op stOk q], numbers, r, q, ?_, ?_⟩
  · rw [hplace, hans, heq]
    rfl
  · rw [hplace, hans]
    exact sendsLast_of_sends ⟨links, frames, numbers, heq, hf⟩ ho hsess

/-- An attempt to open a stream runs it or leaves it. -/
theorem State.tryOpen_eq {s : State} {k : Nat} {x : Strm} (hx : s.strm k = some x) : ∃ y streams,
    (y = x ∨ y = { x with st := .running }) ∧ s.tryOpen k = { s with streams := streams } ∧ streams.find k = some y ∧
      ∀ i, i ≠ k → streams.find i = s.streams.find i := by
  have hfind : s.streams.find k = some x := hx
  simp only [State.tryOpen, hx]
  split
  · refine ⟨{ x with st := .running }, s.streams.modify k (fun x => { x with st := .running }), .inr rfl, rfl, ?_, fun i hi => ?_⟩
    · simp [Tab.find_modify, hfind]
    · simp [Tab.find_modify, Ne.symm hi]
  · exact ⟨x, s.streams, .inl rfl, rfl, hfind, fun _ _ => rfl⟩

/-- A stream of the module's own opens with nothing issued; whether it runs is a matter of its engine. -/
theorem State.openService_eq (s : State) (ctx : Nat) (use : StreamUse) (kind total : Nat) (region : Option Region) (pages : List PageBody)
    (baseSeq : Nat) : ∃ (x : Strm) (streams : Tab Strm),
      s.openService ctx use kind total region pages baseSeq = { s with streams := streams, nextId := s.nextId + 1 } ∧
      streams.find s.nextId = some x ∧ x.use = use ∧ x.ctx = ctx ∧ x.kind = kind ∧ x.total = total ∧ x.region = region ∧ x.issued = 0 := by
  unfold State.openService
  extract_lets e
  obtain ⟨y, streams, hy, hopen, hfind, -⟩ := State.tryOpen_eq (s := (s.addStrm { newStrm ctx 0 use kind e [] total with
    region := region, pages := pages, baseSeq := baseSeq, classes := [2]
    credits := s.lesserCredits ctx 2 1 (Config.serviceCredits kind) }).2) (k := s.nextId)
    (by simp [State.addStrm, State.fresh, State.strm]; rfl)
  refine ⟨y, streams, hopen, hfind, ?_⟩
  rcases hy with rfl | rfl <;> exact ⟨rfl, rfl, rfl, rfl, rfl, rfl⟩

/-- Settles O30. -/
theorem variantsAreCreatedAndImported : Obligations.variants_are_created_and_imported := by
  refine fun s c n ss b hc hg hb hv => ⟨fun p h hne hok ho hh => ?_, fun image owners h ha => ?_, fun image owners h ha ho => ?_⟩
  · let asked := s.awaiting c opVariantCreate n
    let t := ticketOf c opVariantCreate n ss.serial
    obtain ⟨sats, params, hcreate⟩ := State.createVariant_eq (s := asked) (t := t) hb hv hok ho hh
    obtain ⟨k, hk, hother⟩ := State.countF8_eq { asked with
      hbmFree := s.hbmFree - Config.variantHbm ((List.range b.layers).flatMap (layerTensors b p)), freeCount := s.freeCount + 1 } sats
    obtain ⟨links, out, ring, sessions, answer, hplace, hlast⟩ := placeVar_last (u := { asked with
      hbmFree := s.hbmFree - Config.variantHbm ((List.range b.layers).flatMap (layerTensors b p)), freeCount := s.freeCount + 1
      counters := k }) (op := opVariantCreate) h hc rfl rfl rfl rfl rfl c.variant (asked.createdVar b c.ctx p) params rfl
    have hexec : exec (.variantCreate c p) s = .next (asked.createVariant t p).settle := by
      rw [exec, execVariantCreate, gafferVar_takes h hg]
      rw [if_neg (by rcases hne with h | h <;> simp [h])]
      rfl
    have hplaced := hcreate.trans ((congrArg (fun u => State.placeVar u c.variant (asked.createdVar b c.ctx p) t params) hk).trans hplace)
    rw [hplace] at hlast
    obtain ⟨hinfo, htensors⟩ := asked.createdVar_tensors b c.ctx p
    refine ⟨_, asked.createdVar b c.ctx p, answer, hexec.trans (congrArg (fun u => Host.Outcome.next (State.settle u)) hplaced), ?_, rfl, rfl,
      rfl, rfl, rfl, rfl, rfl, rfl, rfl, rfl, hinfo, htensors, ?_, fun i hi => ?_, hlast, hother, rfl⟩
    · exact Tab.find_put_self _ _ _
    · intro e he
      obtain ⟨x, -, rfl⟩ := List.mem_map.mp he
      rfl
    · exact Tab.find_put_ne _ _ (Ne.symm hi)
  · rw [exec, execVariantImport, gafferVar_takes h hg]
    simp [ha]
  · have hfree : (s.awaiting c opVariantImport n).varState c.variant = .free := by
      have hv' : (s.awaiting c opVariantImport n).var c.variant = none := hv
      rw [State.varState, hv']
    have hbegin : (s.awaiting c opVariantImport n).beginImport (ticketOf c opVariantImport n ss.serial) image owners =
        (s.awaiting c opVariantImport n).openService c.ctx
          (.importing (ticketOf c opVariantImport n ss.serial) c.variant (s.ownersOf owners)) 6 1 (some image) [] 0 := by
      rw [State.beginImport]
      have hshape : (s.awaiting c opVariantImport n).base.shape = some b := hb
      have hown : (s.awaiting c opVariantImport n).ownersOk ((s.awaiting c opVariantImport n).ownersOf owners) = true := ho
      rw [if_neg]
      · rfl
      · show ¬ (_ || _ || _) = true
        rw [hshape, hown]
        simp [ticketOf, hfree]
    obtain ⟨x, streams, hopen, hfind, huse, hctx, hkind, -, hregion, hissued⟩ := (s.awaiting c opVariantImport n).openService_eq c.ctx
      (.importing (ticketOf c opVariantImport n ss.serial) c.variant (s.ownersOf owners)) 6 1 (some image) [] 0
    refine ⟨{ s.awaiting c opVariantImport n with streams := streams, nextId := s.nextId + 1 }, x, ?_, hfind, huse, hctx, hkind, hregion,
      hissued, rfl, rfl, rfl⟩
    rw [exec, execVariantImport, gafferVar_takes h hg]
    simp only [ha, Bool.not_true, Bool.false_eq_true, if_false, hbegin, hopen]
    rfl

end Sys2Proof.Machine
end

section
/-! PROOFS. Variants that leave: VARIANT_DESTROY and EVICT. -/

namespace Sys2Proof.Machine

/-! ## What answers change -/

/-- From one state to the next, answers and events have been given: sessions, counters, and what has left the module. -/
def State.Replies (s t : State) : Prop :=
  ∃ out sessions counters ctxs, t = { s with out := out, sessions := sessions, counters := counters, ctxs := ctxs }

namespace State.Replies

theorem refl (s : State) : s.Replies s := ⟨_, _, _, _, rfl⟩

theorem trans {s t u : State} (h : s.Replies t) (h' : t.Replies u) : s.Replies u := by
  obtain ⟨o, r, k, x, rfl⟩ := h
  obtain ⟨o', r', k', x', rfl⟩ := h'
  exact ⟨o', r', k', x', rfl⟩

theorem answerWith (s : State) (t : Ticket) (st : Nat) (p : List (Nat × Bytes)) : s.Replies (s.answerWith t st p) := by
  obtain ⟨o, r, h⟩ := s.answerWith_eq t st p
  exact ⟨o, r, s.counters, s.ctxs, h⟩

theorem eachDo {α : Type} {f : α → State → State} (h : ∀ (s : State) a, s.Replies (f a s)) (l : List α) (s : State) :
    s.Replies (eachDo l f s) :=
  eachDo_induction (P := s.Replies) l (refl s) fun a _ t ht => ht.trans (h t a)

theorem answerAll (s : State) (l : List Ticket) (st : Nat) : s.Replies (s.answerAll l st) := eachDo (fun s t => answerWith s t st []) l s

theorem deliver (s : State) (e : Event) : s.Replies (s.deliver e) := ⟨_, _, _, _, rfl⟩

theorem countTenant (s : State) (ctx place n : Nat) : s.Replies (s.countTenant ctx place n) := by
  unfold State.countTenant
  split
  · dsimp only
    split <;> exact ⟨_, _, _, _, rfl⟩
  · exact refl s

theorem submitFinal (s : State) (t : Ticket) (st tokens : Nat) (reason : Option Nat) : s.Replies (s.submitFinal t st tokens reason) := by
  unfold State.submitFinal
  split
  · exact (countTenant s _ _ _).trans (answerWith _ _ _ _)
  · exact answerWith s _ _ _

theorem endUse (s : State) (t : Ticket) (st : Nat) : s.Replies (s.endUse t st) := by
  unfold State.endUse
  split
  · exact submitFinal s t st 0 none
  · exact answerWith s t st []

end State.Replies

/-! ## A variant becomes FREE or ABSENT (R182, R188) -/

/-- The variants but one, and the free HBM, as a step may leave them. -/
def State.KeepsOthers (id free : Nat) (s t : State) : Prop := t.hbmFree = free ∧ ∀ k, k ≠ id → t.var k = s.var k

theorem State.KeepsOthers.replies {id free : Nat} {s t u : State} (h : s.KeepsOthers id free t) (h' : t.Replies u) :
    s.KeepsOthers id free u := by
  obtain ⟨o, r, k, x, rfl⟩ := h'
  exact h

theorem State.KeepsOthers.modVar {id free : Nat} {s t : State} (h : s.KeepsOthers id free t) (f : Var → Var) :
    s.KeepsOthers id free (t.modVar id f) :=
  ⟨h.1, fun k hk => by simpa [State.var, State.modVar, Tab.find_modify, Ne.symm hk] using h.2 k hk⟩

theorem State.KeepsOthers.endParked {id free : Nat} {s t : State} (h : s.KeepsOthers id free t) (st : Nat) :
    s.KeepsOthers id free (t.endParked id st) := by
  unfold State.endParked
  extract_lets gone left unpinned
  have hleft : s.KeepsOthers id free left := h
  exact (hleft.modVar _).replies (.eachDo (fun s (p : Parked) => .endUse s p.ticket st) gone unpinned)

theorem State.Sends.ungetVar (s : State) (id : Nat) : s.Sends (s.ungetVar id) := by
  unfold State.ungetVar
  split
  · split
    · exact tellHolders s _ _ _
    · exact refl s
  · exact refl s

/-- The other holders are told, and the HBM goes back. -/
theorem State.releaseHbm_ungetVar {s : State} {id : Nat} {v : Var} (hv : s.var id = some v) (hh : v.holdsHbm = true) :
    ∃ t, s.Sends t ∧ (s.ungetVar id).releaseHbm id = { t with hbmFree := s.hbmFree + v.hbmPages } := by
  have hsend := State.Sends.ungetVar s id
  refine ⟨_, hsend, ?_⟩
  obtain ⟨l, f, e, heq, -⟩ := hsend
  have hv' : (s.ungetVar id).var id = some v := by rw [heq]; exact hv
  have hfree : (s.ungetVar id).hbmFree = s.hbmFree := by rw [heq]
  simp only [State.releaseHbm, hv', hh, if_true, State.freeHbm, hfree]

/-- A variant that becomes FREE leaves no entry, and gives the HBM it held back. -/
theorem State.becomeFree_frees {s : State} {id : Nat} {v : Var} (hv : s.var id = some v) (hh : v.holdsHbm = true) :
    (s.becomeFree id).var id = none ∧ s.KeepsOthers id (s.hbmFree + v.hbmPages) (s.becomeFree id) := by
  unfold State.becomeFree
  rw [hv]
  dsimp -zeta only
  extract_lets -underBinder told ended parked restored slots released ctx gone
  have htold : s.KeepsOthers id (s.hbmFree + v.hbmPages) told := by
    obtain ⟨t, ⟨l, f, e, rfl, -⟩, h⟩ := State.releaseHbm_ungetVar hv hh
    dsimp only [told]
    rw [h]
    exact ⟨rfl, fun _ _ => rfl⟩
  have hended : s.KeepsOthers id (s.hbmFree + v.hbmPages) ended := by
    dsimp only [ended]
    generalize hu : told.abandonAll _ = u
    obtain ⟨y, m, rfl⟩ : ∃ y m, u = { told with streams := y, mem := m } := hu ▸ told.abandonAll_eq _
    exact htold
  have hparked : s.KeepsOthers id (s.hbmFree + v.hbmPages) parked := hended.endParked _
  have hrestored : s.KeepsOthers id (s.hbmFree + v.hbmPages) restored := by
    dsimp only [restored]
    split
    · exact hparked.replies (.answerWith _ _ _ _)
    · exact hparked
  have hslots : s.KeepsOthers id (s.hbmFree + v.hbmPages) slots :=
    eachDo_induction (P := s.KeepsOthers id (s.hbmFree + v.hbmPages)) _ hrestored fun n _ t ht => by split <;> exact ht
  have hreleased : s.KeepsOthers id (s.hbmFree + v.hbmPages) released :=
    eachDo_induction (P := s.KeepsOthers id (s.hbmFree + v.hbmPages)) _ hslots fun n _ t ht => by split <;> exact ht
  have hgone : gone.var id = none ∧ s.KeepsOthers id (s.hbmFree + v.hbmPages) gone := by
    refine ⟨by simp [gone, State.var, Tab.find_del], hreleased.1, fun k hk => ?_⟩
    rw [← hreleased.2 k hk]
    simp [gone, ctx, State.var, Tab.find_del, Ne.symm hk]
  obtain ⟨o, r, k, x, heq⟩ := (State.Replies.answerAll gone v.evictTickets stOk).trans (.answerAll _ v.destroyTickets stOk)
  rw [heq]
  exact hgone

/-- A variant without pins, parked uses or a RESTORE that becomes ABSENT gives its HBM back, and its evictions are answered. -/
theorem State.becomeAbsent_eq {s : State} {id : Nat} {v : Var} (hv : s.var id = some v) (hh : v.holdsHbm = true)
    (hr : v.restore = none) (hp : v.pendingPins = 0) : ∃ t, s.Sends t ∧ s.becomeAbsent id =
      (State.setVar { t with hbmFree := s.hbmFree + v.hbmPages } id { v with
        st := .absent, tensors := [], active := false, force := false, evictTickets := [], manifestPage := 0 }).answerAll
        v.evictTickets stOk := by
  obtain ⟨t, hsend, hrel⟩ := State.releaseHbm_ungetVar hv hh
  refine ⟨t, hsend, ?_⟩
  let w : Var := { v with st := .absent, tensors := [], active := false, force := false, evictTickets := [], manifestPage := 0 }
  obtain ⟨o, r, k, x, heq⟩ := State.Replies.answerAll (State.setVar { t with hbmFree := s.hbmFree + v.hbmPages } id w) v.evictTickets stOk
  have hw : ((State.setVar { t with hbmFree := s.hbmFree + v.hbmPages } id w).answerAll v.evictTickets stOk).var id = some w := by
    rw [heq]
    simp [State.var]
  have hstays : ((State.setVar { t with hbmFree := s.hbmFree + v.hbmPages } id w).answerAll v.evictTickets stOk).fromAbsent id =
      (State.setVar { t with hbmFree := s.hbmFree + v.hbmPages } id w).answerAll v.evictTickets stOk := by
    rw [State.fromAbsent, hw]
    simp [w, hr, hp]
  rw [State.becomeAbsent, hv]
  simp only [hrel]
  exact hstays

/-! ## EVICT and VARIANT_DESTROY of a RESIDENT variant (R190, R338, R341) -/

/-- Without a repeating evaluation of the variant none is ended. -/
theorem State.endRepeats_of_none {s : State} {v : Nat} (st : Nat) (h : ∀ p ∈ s.evals, p.2.variant ≠ v ∨ p.2.every = 0) :
    s.endRepeats v st = s := by
  have hkeep : s.evals.keep (fun _ e => decide (e.variant = v) && decide (0 < e.every)) = [] := by
    refine Tab.keep_eq_nil fun x hx => ?_
    rcases h x hx with h | h <;> simp [h]
  simp only [State.endRepeats, State.evalsFor, hkeep]
  rfl

/-- A variant begins to leave without force: it is EVICTING, and goes on as its pins allow. -/
theorem State.beginEvict_gentle {s : State} {id : Nat} {v : Var} (hv : s.var id = some v)
    (he : ∀ p ∈ s.evals, p.2.variant ≠ id ∨ p.2.every = 0) :
    s.beginEvict id false = (s.modVar id (fun w => { w with st := .evicting })).advanceEvict id := by
  have hforce : s.modVar id (fun w => { w with st := .evicting, force := w.force || false }) =
      s.modVar id (fun w => { w with st := .evicting }) := by simp
  simp only [State.beginEvict, hforce]
  rw [State.endRepeats_of_none]
  · rfl
  · exact he

/-- A variant with pins stays EVICTING. -/
theorem State.advanceEvict_pinned {s : State} {id : Nat} {v : Var} (hv : s.var id = some v) (hp : 0 < v.pins) : s.advanceEvict id = s := by
  simp [State.advanceEvict, hv, Nat.ne_of_gt hp]

/-- A change of a variant that stands is a write of it. -/
theorem State.modVar_eq_setVar {s : State} {n : Nat} {x : Var} (h : s.var n = some x) (f : Var → Var) :
    s.modVar n f = s.setVar n (f x) := by
  have h : s.vars.find n = some x := h
  simp [State.modVar, State.setVar, Tab.modify, h]

/-- A variant that is changed stands as the change says. -/
theorem State.var_modVar {s : State} {n : Nat} {x : Var} (h : s.var n = some x) (f : Var → Var) : (s.modVar n f).var n = some (f x) := by
  have h : s.vars.find n = some x := h
  simp [State.modVar, State.var, Tab.find_modify, h]

/-- A VARIANT_DESTROY of a RESIDENT variant begins its eviction, to end FREE. -/
theorem State.destroyVariant_resident {s : State} {t : Ticket} {v : Var} (hv : s.var t.variant = some v) (hst : v.st = .resident)
    (he : ∀ p ∈ s.evals, p.2.variant ≠ t.variant ∨ p.2.every = 0) :
    s.destroyVariant t = ((s.modVar t.variant (fun v => { v with destroyTickets := v.destroyTickets ++ [t], forDestroy := true })).modVar
      t.variant (fun w => { w with st := .evicting })).advanceEvict t.variant := by
  have hstate : s.varState t.variant = .resident := by rw [State.varState, hv]; exact hst
  rw [State.destroyVariant, hstate]
  exact State.beginEvict_gentle (State.var_modVar hv _) he

/-- An EVICT of a RESIDENT variant, without force, begins its eviction. -/
theorem State.evict_resident {s : State} {t : Ticket} {v : Var} (hv : s.var t.variant = some v) (hst : v.st = .resident)
    (he : ∀ p ∈ s.evals, p.2.variant ≠ t.variant ∨ p.2.every = 0) :
    s.evict t false = ((s.modVar t.variant (fun v => { v with evictTickets := v.evictTickets ++ [t] })).modVar
      t.variant (fun w => { w with st := .evicting })).advanceEvict t.variant := by
  have hstate : s.varState t.variant = .resident := by rw [State.varState, hv]; exact hst
  rw [State.evict, hstate]
  exact State.beginEvict_gentle (State.var_modVar hv _) he

/-- EVICT with FORCE is for operators. -/
theorem exec_evictForce {s : State} {c : Cmd} {n : Nat} {ss : Session} (h : Takes (specOf opEvict) c n ss s)
    (hg : s.granted c.ctx c.variant = true) :
    exec (.evictForce c) s = if ss.role.isTenant then
      .next ((s.awaiting c opEvict n).answer (ticketOf c opEvict n ss.serial) stNotPermitted)
    else .next ((s.awaiting c opEvict n).evict (ticketOf c opEvict n ss.serial) true).settle := by
  have hrole : (s.awaiting c opEvict n).ticketTenant (ticketOf c opEvict n ss.serial) = ss.role.isTenant := by
    simp only [State.ticketTenant, ticketOf, sessions_awaiting h.session]
  rw [exec, execEvictForce, gafferVar_takes h hg]
  simp only [hrole]
  rfl

theorem exec_evict {s : State} {c : Cmd} {n : Nat} {ss : Session} (h : Takes (specOf opEvict) c n ss s)
    (hg : s.granted c.ctx c.variant = true) :
    exec (.evict c) s = .next ((s.awaiting c opEvict n).evict (ticketOf c opEvict n ss.serial) false).settle := by
  rw [exec, execEvict, gafferVar_takes h hg]
  rfl

theorem exec_variantDestroy {s : State} {c : Cmd} {n : Nat} {ss : Session} (h : Takes (specOf opVariantDestroy) c n ss s)
    (hg : s.granted c.ctx c.variant = true) : exec (.variantDestroy c) s =
      .next ((s.awaiting c opVariantDestroy n).destroyVariant (ticketOf c opVariantDestroy n ss.serial)).settle := by
  rw [exec, execVariantDestroy, gafferVar_takes h hg]
  rfl

/-- Settles O31: the eviction begins, and the pins decide whether the variant leaves at once. -/
theorem variantsLeave : Obligations.variants_leave := by
  refine fun s c n ss v hc hg hv hst hd hr ht he => ⟨fun h => ?_, fun forced h hrole => ⟨?_, fun hf hp hdirty hpend => ?_, fun hf hp => ?_⟩,
    fun h hrole => ?_⟩
  · let t := ticketOf c opVariantDestroy n ss.serial
    let asked := s.awaiting c opVariantDestroy n
    let w : Var := { v with st := .evicting, forDestroy := true, destroyTickets := v.destroyTickets ++ [t] }
    let leaving := (asked.modVar c.variant (fun v => { v with destroyTickets := v.destroyTickets ++ [t], forDestroy := true })).modVar
      c.variant (fun w => { w with st := .evicting })
    have hdestroy : asked.destroyVariant t = leaving.advanceEvict c.variant := State.destroyVariant_resident (s := asked) (t := t) hv hst he
    have hw : leaving.var c.variant = some w := State.var_modVar (State.var_modVar (s := asked) hv _) _
    rw [exec_variantDestroy h hg]
    refine ⟨fun hp => ?_, fun hp => ?_⟩
    · have hfree : leaving.advanceEvict c.variant = leaving.becomeFree c.variant := by
        rw [State.advanceEvict, hw]
        simp [w, hp]
      obtain ⟨hgone, hhbm, hother⟩ := State.becomeFree_frees hw rfl
      refine ⟨_, by rw [hdestroy, hfree], by rw [State.varState, hgone], hhbm, fun k hk => (hother k hk).trans ?_⟩
      simp [leaving, asked, State.var, State.modVar, Tab.find_modify, Ne.symm hk]
      rfl
    · refine ⟨leaving, w, by rw [hdestroy, State.advanceEvict_pinned hw hp], hw, rfl, rfl⟩
  · cases forced with
    | false => exact exec_evict h hg
    | true => simp [exec_evictForce h hg, hrole rfl, Role.isTenant]
  · let t := ticketOf c opEvict n ss.serial
    let asked := s.awaiting c opEvict n
    let w : Var := { v with st := .evicting, evictTickets := [t] }
    let leaving := (asked.modVar c.variant (fun v => { v with evictTickets := v.evictTickets ++ [t] })).modVar
      c.variant (fun w => { w with st := .evicting })
    have hevict : asked.evict t false = leaving.advanceEvict c.variant := State.evict_resident (s := asked) (t := t) hv hst he
    have hw : leaving.var c.variant = some w := by
      rw [State.var_modVar (State.var_modVar (s := asked) hv _) _]
      simp [w, ht]
    have habsent : leaving.advanceEvict c.variant = leaving.becomeAbsent c.variant := by
      rw [State.advanceEvict, hw]
      simp [w, hp, hd, hr, hdirty]
    obtain ⟨told, htold, heq⟩ := State.becomeAbsent_eq hw rfl hr hpend
    obtain ⟨links, frames, numbers, rfl, hframes⟩ := htold
    let gone : Var := { w with st := .absent, tensors := [], active := false, force := false, evictTickets := [], manifestPage := 0 }
    obtain ⟨r, hans, hsess⟩ := answerWith_last (op := opEvict) (st := stOk) (p := []) (u := { s.awaiting c opEvict n with
      links := links, out := s.out ++ frames, ring := { s.ring with e2eTx := numbers }, hbmFree := s.hbmFree + v.hbmPages
      vars := leaving.vars.put c.variant gone }) h hc rfl rfl rfl rfl
    refine ⟨{ s with
      sessions := r, links := links, out := s.out ++ frames ++ [s.replyTo c opEvict stOk []], ring := { s.ring with e2eTx := numbers }
      hbmFree := s.hbmFree + v.hbmPages, vars := leaving.vars.put c.variant gone }, ?_, ?_, rfl, fun k hk => ?_, ⟨⟨frames, rfl, hframes⟩, hsess⟩,
      rfl⟩
    · rw [exec_evict h hg, hevict, habsent, heq]
      exact congrArg (fun u => Host.Outcome.next (State.settle u)) hans
    · simp [State.varState, State.var, gone]
    · simp [State.var, Tab.find_put, leaving, asked, State.modVar, Tab.find_modify, Ne.symm hk]
      rfl
  · let t := ticketOf c opEvict n ss.serial
    let asked := s.awaiting c opEvict n
    let leaving := (asked.modVar c.variant (fun v => { v with evictTickets := v.evictTickets ++ [t] })).modVar
      c.variant (fun w => { w with st := .evicting })
    have hevict : asked.evict t false = leaving.advanceEvict c.variant := State.evict_resident (s := asked) (t := t) hv hst he
    have hw : leaving.var c.variant = some { v with st := .evicting, evictTickets := [t] } := by
      rw [State.var_modVar (State.var_modVar (s := asked) hv _) _]
      simp [ht]
    exact ⟨leaving, by rw [exec_evict h hg, hevict, State.advanceEvict_pinned hw hp], hw, rfl⟩
  · have htenant : ss.role.isTenant = true := by
      cases hr : ss.role with
      | operator => exact absurd hr hrole
      | tenant m => rfl
    obtain ⟨r, hans, hsess⟩ := answerWith_awaiting (u := s.awaiting c opEvict n) (op := opEvict) (st := stNotPermitted) (p := []) h hc
      rfl rfl rfl rfl rfl
    refine ⟨{ s with out := s.out ++ [s.replyTo c opEvict stNotPermitted []], sessions := r }, ?_, ⟨rfl, hsess⟩, rfl⟩
    rw [exec_evictForce h hg, if_pos htenant, State.answer, hans]
    rfl

end Sys2Proof.Machine
end

section
/-! PROOFS. Extra experts: EXPERT_ATTACH and EXPERT_DETACH. -/

namespace Sys2Proof.Machine

/-! ## A use of a RESIDENT variant -/

/-- A use of a RESIDENT variant is accepted on the state in which the variant was used last in this round. -/
theorem Uses.useVariant {op : Nat} {c : Cmd} {n : Nat} {ss : Session} {v : Var} {s : State} (h : Uses op c n ss v s) (i : Instr)
    (accept : State → Res) :
    (s.awaiting c op n).useVariant (ticketOf c op n ss.serial) i accept = accept (s.using c op n) := by
  have hst : (s.awaiting c op n).varState c.variant = .resident := by
    have : (s.awaiting c op n).var c.variant = some v := h.entry
    rw [State.varState, this]
    exact h.resident
  simp only [State.useVariant, ticketOf, hst]
  rfl

/-- A command that uses a RESIDENT variant of the grant meets its acceptance. -/
theorem gafferVar_uses {op : Nat} {c : Cmd} {n : Nat} {ss : Session} {v : Var} {s : State} (h : Uses op c n ss v s) (i : Instr)
    (accept : Ticket → State → Res) (hop : (specOf op).op = op := by rfl) :
    gafferVar op c (fun t s => settled (s.useVariant t i (accept t))) s =
      settled (accept (ticketOf c op n ss.serial) (s.using c op n)) := by
  rw [gafferVar_takes h.takes h.grant _ hop, h.useVariant]

/-- The variant that is used stands with its use noted, and every other as it was. -/
theorem Uses.var_using {op : Nat} {c : Cmd} {n : Nat} {ss : Session} {v : Var} {s : State} (h : Uses op c n ss v s) :
    (s.using c op n).var c.variant = some { v with lastUse := s.intakeRounds } :=
  State.var_modVar (s := s.awaiting c op n) h.entry _

theorem State.using_var_ne {s : State} {c : Cmd} {op n k : Nat} (hk : k ≠ c.variant) : (s.using c op n).var k = s.var k := by
  simp [State.using, State.var, State.modVar, Tab.find_modify, Ne.symm hk, State.awaiting]

/-- A change of an entry that keeps a property keeps whether any entry has it. -/
theorem Tab.any_modify {α : Type} {t : Tab α} {i : Nat} {f : α → α} {p : α → Bool} (hp : ∀ v, p (f v) = p v) :
    (t.modify i f).vals.any p = t.vals.any p := by
  have hput : ∀ (t : Tab α) (v w : α), t.find i = some w → p v = p w → (t.put i v).vals.any p = t.vals.any p := by
    intro t v w
    induction t with
    | nil => simp
    | cons q t ih =>
      intro hw hvw
      obtain ⟨k, x⟩ := q
      by_cases hk : k = i
      · obtain rfl : x = w := by simpa [Tab.find, hk] using hw
        simp [Tab.put, hk, Tab.vals, hvw]
      · have hw' : Tab.find t i = some w := by simpa [Tab.find, hk] using hw
        have hmem : w ∈ Tab.vals t := List.mem_map_of_mem (Tab.mem_of_find hw')
        by_cases hlt : k < i
        · have := ih hw' hvw
          simp only [Tab.vals] at this
          simp [Tab.put, hk, hlt, Tab.vals, this]
        · have hpresent : p v = true → (Tab.vals t).any p = true := fun hv => List.any_eq_true.mpr ⟨w, hmem, hvw ▸ hv⟩
          simp only [Tab.vals] at hpresent
          cases hv : p v <;> simp [Tab.put, hk, hlt, Tab.vals, hv]
          exact .inr (by simpa using hpresent hv)
  unfold Tab.modify
  split
  case h_1 w hw => exact hput t _ w hw (hp w)
  case h_2 => rfl

/-! ## EXPERT_ATTACH (R194, R195, R342) -/

/-- A use does not change which slots are attached. -/
theorem State.slotAttached_using {s : State} {c : Cmd} {op n slot : Nat} : (s.using c op n).slotAttached slot = s.slotAttached slot :=
  Tab.any_modify fun _ => rfl

/-- The table of experts gains an entry for a slot on this member's position, and for no other. -/
theorem State.enterExtra_eq (s : State) (ctx id extraNo slot : Nat) : ∃ experts count,
    s.enterExtra ctx id extraNo slot = { s with ring := { s.ring with experts := experts }, freeCount := count } ∧
    (slot / 64 = s.pos → ∃ y, experts.find (512 + slot % 64) = some y ∧ y.kind = 3 ∧ y.home = s.pos ∧ y.ctx = ctx ∧ y.variant = id ∧
      y.extraNo = extraNo) ∧
    (slot / 64 ≠ s.pos → experts = s.ring.experts) := by
  unfold State.enterExtra
  split
  case isTrue h =>
    exact ⟨_, _, rfl, fun _ => ⟨_, Tab.find_put_self _ _ _, rfl, rfl, rfl, rfl, rfl⟩, fun hne => absurd h hne⟩
  case isFalse h => exact ⟨_, _, rfl, fun he => absurd he h, fun _ => rfl⟩

/-- The variant an EXPERT_ATTACH writes. -/
def State.attached (s : State) (id extraNo slot : Nat) (v : Var) : Var :=
  { s.deriveExtra (s.atBoundary id v) v extraNo with
    extras := v.extras.map (fun e => if e.decl.extraNo = extraNo then { e with slot := some slot } else e) }

/-- The copies it derives are those of the variant's own tensors, at the commit boundary of its steps. -/
theorem State.attached_tensors {s t : State} {v w : Var} (id extraNo slot : Nat) (hb : t.base = s.base) (hs : t.steps = s.steps)
    (hv : v.tensors = w.tensors) :
    (t.attached id extraNo slot v).tensors = (s.deriveExtra (s.atBoundary id w) w extraNo).tensors := by
  have hnow : (t.atBoundary id v).tensors = (s.atBoundary id w).tensors := by
    unfold State.atBoundary
    rw [hs]
    split
    · simp only [Var.commitStaged, Var.mapTensors, hv]
    · exact hv
  simp only [State.attached, State.deriveExtra, Var.mapTensors, hnow, hv, State.baseFormat, hb]

/-- EXPERT_ATTACH of an extra expert the variant declares, to a slot of the grant on an occupied position. -/
theorem State.acceptAttach_eq {s : State} {t : Ticket} {v : Var} {x : Ctx} {extraNo slot : Nat} {e : Extra} (hv : s.var t.variant = some v)
    (hx : s.ctx t.ctx = some x) (hg : x.settings.slotGrant.contains slot = true) (hp : s.vacantPos (slot / 64) = false)
    (he : v.extras.find? (fun e => decide (e.decl.extraNo = extraNo)) = some e) :
    s.acceptAttach t extraNo slot = if s.slotAttached slot || e.slot.isSome then s.answer t stSlotBusy
      else
        ((((s.countF8 (s.deriveExtraSats (s.atBoundary t.variant v) extraNo)).setVar t.variant
          (s.attached t.variant extraNo slot v)).enterExtra t.ctx t.variant extraNo slot).announceVar t.variant).answerWith t stOk [] := by
  have hbase : ∀ k, State.deriveExtra (s.countF8 k) (s.atBoundary t.variant v) v extraNo =
      s.deriveExtra (s.atBoundary t.variant v) v extraNo := fun k => by
    obtain ⟨y, hy, -⟩ := s.countF8_eq k
    rw [hy]
    rfl
  rw [State.acceptAttach, hv, hx]
  simp only [hg, hp, he, hbase]
  rfl

/-- The variant with its slot is written and announced, the table of experts gains its entry, and the command is answered. -/
theorem attach_last {s u : State} {k : OpSpec} {op : Nat} {c : Cmd} {n : Nat} {ss : Session} (h : Takes k c n ss s) (hc : Clear s ss)
    (hu : u.sessions = (s.awaiting c op n).sessions) (hq : u.qps = s.qps) (hp : u.ports = s.ports) (hr : u.profile = s.profile)
    (ho : u.out = s.out) (hpos : u.pos = s.pos) (sats ctx id extraNo slot : Nat) (w : Var) :
    ∃ counters links out ring experts count sessions,
      ((((u.countF8 sats).setVar id w).enterExtra ctx id extraNo slot).announceVar id).answerWith (ticketOf c op n ss.serial) stOk [] =
        { u with
          counters := counters, vars := u.vars.put id w, links := links, out := out, freeCount := count, sessions := sessions
          ring := { u.ring with experts := experts, e2eTx := ring } } ∧
      (∀ i, i ≠ cF8Saturations → counters.find i = u.counters.find i) ∧
      (slot / 64 = s.pos → ∃ y, experts.find (512 + slot % 64) = some y ∧ y.kind = 3 ∧ y.home = s.pos ∧ y.ctx = ctx ∧ y.variant = id ∧
        y.extraNo = extraNo) ∧
      (slot / 64 ≠ s.pos → experts = u.ring.experts) ∧
      (∃ l, out = s.out ++ l ++ [s.replyTo c op stOk []] ∧ ∀ x ∈ l, ∃ p f, x = Out.frame p f) ∧ ∀ m, sessions.find m = s.sessions.find m := by
  obtain ⟨counters, hk, hother⟩ := u.countF8_eq sats
  obtain ⟨experts, count, henter, hown, hforeign⟩ := (State.setVar { u with counters := counters } id w).enterExtra_eq ctx id extraNo slot
  obtain ⟨links, frames, numbers, htold, hframes⟩ := State.Sends.announceVar
    ((State.setVar { u with counters := counters } id w).enterExtra ctx id extraNo slot) id
  rw [henter] at htold
  obtain ⟨r, hans, hsess⟩ := answerWith_last (op := op) (st := stOk) (p := []) (u := { u with
    counters := counters, vars := u.vars.put id w, links := links, out := u.out ++ frames, freeCount := count
    ring := { u.ring with experts := experts, e2eTx := numbers } }) h hc hu hq hp hr
  refine ⟨counters, links, u.out ++ frames ++ [s.replyTo c op stOk []], numbers, experts, count, r, ?_, hother, hpos ▸ hown, hpos ▸ hforeign,
    ⟨frames, ?_, hframes⟩, hsess⟩
  · rw [hk, henter, htold]
    exact hans
  · simp [ho]

/-! ## EXPERT_DETACH (R196, R343) -/

/-- From one state to the next, frames have left the module, and slots of the table of experts are gone. -/
def State.Tells (s t : State) : Prop :=
  ∃ links frames numbers experts,
    t = { s with links := links, out := s.out ++ frames, ring := { s.ring with e2eTx := numbers, experts := experts } } ∧
    ∀ x ∈ frames, ∃ p f, x = Out.frame p f

theorem State.Tells.sends {s t u : State} (h : s.Tells t) (h' : t.Sends u) : s.Tells u := by
  obtain ⟨l, f, n, e, rfl, hf⟩ := h
  obtain ⟨l', f', n', rfl, hf'⟩ := h'
  refine ⟨l', f ++ f', n', e, by simp, fun x hx => ?_⟩
  rcases List.mem_append.mp hx with hx | hx
  · exact hf x hx
  · exact hf' x hx

theorem State.Tells.clearSlot {s t : State} (h : s.Tells t) (slot : Nat) : s.Tells (t.clearSlot slot) := by
  obtain ⟨l, f, n, e, rfl, hf⟩ := h
  exact ⟨l, f, n, _, rfl, hf⟩

/-- Slots that no use holds are dropped from the variant, and their members hear of it. -/
theorem State.dropReleased_tells {s : State} {id : Nat} {v : Var} (hv : s.var id = some v) :
    State.Tells (s.setVar id { v with releasing := v.releasing.filter (fun r => decide (r.2.2 ≠ [])) }) (s.dropReleased id) := by
  rw [State.dropReleased, hv]
  dsimp only
  rw [State.modVar_eq_setVar hv]
  refine eachDo_induction (P := State.Tells _) _ ⟨_, [], _, _, by simp; rfl, by simp⟩ fun r _ t ht => ?_
  split
  · exact ht.clearSlot r.1
  · exact ht.sends (.ringSend t _ _ _ _ _)

/-- The variant without the slot is written, slots that no use holds are dropped, and the command is answered. -/
theorem detach_last {s u : State} {k : OpSpec} {op : Nat} {c : Cmd} {n : Nat} {ss : Session} (h : Takes k c n ss s) (hc : Clear s ss)
    (hu : u.sessions = (s.awaiting c op n).sessions) (hq : u.qps = s.qps) (hp : u.ports = s.ports) (hr : u.profile = s.profile)
    (ho : u.out = s.out) (id : Nat) (w : Var) :
    ∃ vars links out ring experts sessions,
      ((u.setVar id w).dropReleased id).answerWith (ticketOf c op n ss.serial) stOk [] =
        { u with
          vars := vars, links := links, out := out, sessions := sessions, ring := { u.ring with experts := experts, e2eTx := ring } } ∧
      vars.find id = some { w with releasing := w.releasing.filter (fun r => decide (r.2.2 ≠ [])) } ∧
      (∀ i, i ≠ id → vars.find i = u.vars.find i) ∧
      (∃ l, out = s.out ++ l ++ [s.replyTo c op stOk []] ∧ ∀ x ∈ l, ∃ p f, x = Out.frame p f) ∧ ∀ m, sessions.find m = s.sessions.find m := by
  obtain ⟨links, frames, numbers, experts, htold, hframes⟩ := State.dropReleased_tells (s := u.setVar id w) (v := w)
    (Tab.find_put_self _ _ _)
  let vars := (u.vars.put id w).put id { w with releasing := w.releasing.filter (fun r => decide (r.2.2 ≠ [])) }
  obtain ⟨r, hans, hsess⟩ := answerWith_last (op := op) (st := stOk) (p := []) (u := { u with
    vars := vars, links := links, out := u.out ++ frames, ring := { u.ring with e2eTx := numbers, experts := experts } }) h hc hu hq hp hr
  refine ⟨vars, links, u.out ++ frames ++ [s.replyTo c op stOk []], numbers, experts, r, ?_, Tab.find_put_self _ _ _, fun i hi => ?_,
    ⟨frames, ?_, hframes⟩, hsess⟩
  · rw [htold]
    exact hans
  · exact (Tab.find_put_ne _ _ (Ne.symm hi)).trans (Tab.find_put_ne _ _ (Ne.symm hi))
  · simp [ho]

/-- EXPERT_ATTACH of a RESIDENT variant meets its acceptance. -/
theorem exec_expertAttach {s : State} {c : Cmd} {n extraNo slot : Nat} {ss : Session} {v : Var} (h : Uses opExpertAttach c n ss v s) :
    exec (.expertAttach c extraNo slot) s =
      .next ((s.using c opExpertAttach n).acceptAttach (ticketOf c opExpertAttach n ss.serial) extraNo slot).settle := by
  rw [exec, execExpertAttach]
  exact gafferVar_uses h _ (fun t s => .next (s.acceptAttach t extraNo slot))

theorem exec_expertDetach {s : State} {c : Cmd} {n extraNo : Nat} {ss : Session} {v : Var} (h : Uses opExpertDetach c n ss v s) :
    exec (.expertDetach c extraNo) s =
      .next ((s.using c opExpertDetach n).acceptDetach (ticketOf c opExpertDetach n ss.serial) extraNo).settle := by
  rw [exec, execExpertDetach]
  exact gafferVar_uses h _ (fun t s => .next (s.acceptDetach t extraNo))

/-- Settles O32: attaching writes the entry with the derived copies, detaching moves the slot to those to be released. -/
theorem extraExpertsComeAndGo : Obligations.extra_experts_come_and_go := by
  refine fun s c n ss v x extraNo slot e hc hx he => ⟨fun h hgrant hpos => ?_, fun h m hm => ?_⟩
  · have haccept := State.acceptAttach_eq (t := ticketOf c opExpertAttach n ss.serial) h.var_using (s := s.using c opExpertAttach n) hx hgrant
      hpos he
    rw [State.slotAttached_using] at haccept
    refine ⟨fun hbusy => ?_, fun hfree hslot => ?_⟩
    · rw [if_pos (by simpa using hbusy)] at haccept
      obtain ⟨r, hans, hr⟩ := answerWith_awaiting (u := s.using c opExpertAttach n) (op := opExpertAttach) (st := stSlotBusy) (p := [])
        h.takes hc rfl rfl rfl rfl rfl
      refine ⟨{ s.using c opExpertAttach n with out := s.out ++ [s.replyTo c opExpertAttach stSlotBusy []], sessions := r }, ?_, ⟨rfl, hr⟩, rfl⟩
      rw [exec_expertAttach h, haccept, State.answer, hans]
    · rw [if_neg (by simp [hfree, hslot])] at haccept
      obtain ⟨counters, links, out, ring, experts, count, sessions, hdone, hother, hown, hforeign, hlast⟩ := attach_last
        (u := s.using c opExpertAttach n) (op := opExpertAttach) h.takes hc rfl rfl rfl rfl rfl rfl _ c.ctx c.variant extraNo slot
        ((s.using c opExpertAttach n).attached c.variant extraNo slot { v with lastUse := s.intakeRounds })
      refine ⟨{ s.using c opExpertAttach n with
          counters := counters, links := links, out := out, freeCount := count, sessions := sessions
          vars := (s.using c opExpertAttach n).vars.put c.variant ((s.using c opExpertAttach n).attached c.variant extraNo slot
            { v with lastUse := s.intakeRounds })
          ring := { s.ring with experts := experts, e2eTx := ring } },
        (s.using c opExpertAttach n).attached c.variant extraNo slot { v with lastUse := s.intakeRounds }, ?_, Tab.find_put_self _ _ _, rfl, ?_,
        rfl, rfl, hown, hforeign, fun i hi => ?_, hlast, hother, rfl⟩
      · rw [exec_expertAttach h, haccept]
        exact congrArg (fun u => Host.Outcome.next (State.settle u)) hdone
      · exact State.attached_tensors c.variant extraNo slot rfl rfl rfl
      · exact (Tab.find_put_ne _ _ (Ne.symm hi)).trans (State.using_var_ne hi)
  · let left : Var := { v with
      lastUse := s.intakeRounds, releasing := v.releasing ++ [(m, extraNo, s.holders c.variant)]
      extras := v.extras.map (fun e => if e.decl.extraNo = extraNo then { e with slot := none } else e) }
    have haccept : (s.using c opExpertDetach n).acceptDetach (ticketOf c opExpertDetach n ss.serial) extraNo =
        (((s.using c opExpertDetach n).setVar c.variant left).dropReleased c.variant).answerWith (ticketOf c opExpertDetach n ss.serial)
          stOk [] := by
      rw [State.acceptDetach, show (s.using c opExpertDetach n).var (ticketOf c opExpertDetach n ss.serial).variant = _ from h.var_using]
      simp only [he, hm]
      rfl
    obtain ⟨vars, links, out, ring, experts, sessions, hdone, hfind, hother, hlast⟩ := detach_last
      (u := s.using c opExpertDetach n) (op := opExpertDetach) h.takes hc rfl rfl rfl rfl rfl c.variant left
    refine ⟨{ s.using c opExpertDetach n with
      vars := vars, links := links, out := out, sessions := sessions, ring := { s.ring with experts := experts, e2eTx := ring } },
      { left with releasing := left.releasing.filter (fun r => decide (r.2.2 ≠ [])) }, ?_, hfind, rfl, rfl, rfl,
      fun i hi => (hother i hi).trans (State.using_var_ne hi), hlast, rfl⟩
    rw [exec_expertDetach h, haccept, hdone]
    rfl

end Sys2Proof.Machine
end

section
/-! PROOFS. Images of variants: exports, RESTORE, REPLAY, loads and write-outs. -/

namespace Sys2Proof.Machine

/-! ## VARIANT_EXPORT and CHECKPOINT (R197, R340, R348) -/

/-- The pages of an image at the commit boundary do not tell when the variant was used last. -/
theorem State.exportBodies_atBoundary {s t : State} (hs : t.steps = s.steps) (id last seed : Nat) (v : Var) (withLog : Bool) :
    exportBodies (t.atBoundary id { v with lastUse := last }) seed withLog = exportBodies (s.atBoundary id v) seed withLog := by
  unfold State.atBoundary
  rw [hs]
  split <;> rfl

/-- The pages of an EXPORT: its image with the log where it is asked, and the head. -/
def State.exportPages (s : State) (id : Nat) (v : Var) (x : Ctx) (withLog : Option Bool) : Nat :=
  (exportBodies (s.atBoundary id v) x.seed (withLog.getD false)).length + 1

/-- An EXPORT to a region too small is refused with the pages it needs. -/
theorem State.acceptExport_small {s : State} {t : Ticket} {dest : Region} {withLog : Option Bool} {v : Var} {x : Ctx}
    (hv : s.var t.variant = some v) (hx : s.ctx t.ctx = some x) (hd : dest.pages < s.exportPages t.variant v x withLog) :
    s.acceptExport t dest withLog = s.answerWith t stNotPermitted [p32 0x82 (s.exportPages t.variant v x withLog)] := by
  rw [State.acceptExport, hv, hx]
  exact if_pos hd

/-- An EXPORT to a region with room takes a pin, numbers its pages, and opens their stream. -/
theorem State.acceptExport_room {s : State} {t : Ticket} {dest : Region} {withLog : Option Bool} {v : Var} {x : Ctx}
    (hv : s.var t.variant = some v) (hx : s.ctx t.ctx = some x) (hd : s.exportPages t.variant v x withLog ≤ dest.pages)
    (hp : v.pins < 65535) : ∃ use pages, s.acceptExport t dest withLog =
      ((s.setCtx t.ctx { x with pageSeq := x.pageSeq + s.exportPages t.variant v x withLog }).pin t.variant).openService t.ctx use 5
        (s.exportPages t.variant v x withLog) (some dest) pages x.pageSeq := by
  refine ⟨.exporting t t.variant withLog v.stepCounter v.completed.length, .head (s.imageHead x v t.variant
    (exportBodies (s.atBoundary t.variant v) x.seed (withLog.getD false)).length (x.pageSeq + 1)) ::
    exportBodies (s.atBoundary t.variant v) x.seed (withLog.getD false), ?_⟩
  have hd' : ¬ dest.pages < (exportBodies (s.atBoundary t.variant v) x.seed (withLog.getD false)).length + 1 := Nat.not_lt.mpr hd
  rw [State.acceptExport, hv, hx]
  dsimp only
  rw [if_neg hd', if_neg (Nat.not_le.mpr hp), State.modCtx_eq_setCtx hx]
  rfl

/-- VARIANT_EXPORT and CHECKPOINT are one command but for the log. -/
def exportOf (c : Cmd) (dest : Region) : Option Bool → Instr × Nat
  | none => (.variantExport c dest, opVariantExport)
  | some w => (.checkpoint c dest w, opCheckpoint)

/-- An EXPORT of a RESIDENT variant meets its acceptance, unless its region is not aligned. -/
theorem exec_exportOf {s : State} {c : Cmd} {n : Nat} {ss : Session} {v : Var} (dest : Region) (withLog : Option Bool)
    (h : Uses (exportOf c dest withLog).2 c n ss v s) :
    exec (exportOf c dest withLog).1 s =
      if dest.aligned then .next ((s.using c (exportOf c dest withLog).2 n).acceptExport
        (ticketOf c (exportOf c dest withLog).2 n ss.serial) dest withLog).settle
      else .next ((s.awaiting c (exportOf c dest withLog).2 n).answer (ticketOf c (exportOf c dest withLog).2 n ss.serial) stNotPermitted) := by
  cases withLog with
  | none =>
    simp only [exportOf] at h ⊢
    rw [exec, execVariantExport, gafferVar_takes h.takes h.grant]
    simp only [h.useVariant]
    cases dest.aligned <;> rfl
  | some w =>
    simp only [exportOf] at h ⊢
    rw [exec, execCheckpoint, gafferVar_takes h.takes h.grant]
    simp only [h.useVariant]
    cases dest.aligned <;> rfl

/-- The three ends of an EXPORT. -/
theorem exports_of_a_use (s : State) (c : Cmd) (n : Nat) (ss : Session) (v : Var) (x : Ctx) (hc : Clear s ss) (hx : s.ctx c.ctx = some x)
    (dest : Region) (withLog : Option Bool) (h : Uses (exportOf c dest withLog).2 c n ss v s) :
    (dest.aligned = false → exec (exportOf c dest withLog).1 s =
      .next ((s.awaiting c (exportOf c dest withLog).2 n).answer (ticketOf c (exportOf c dest withLog).2 n ss.serial) stNotPermitted)) ∧
    (dest.aligned = true → dest.pages < s.exportPages c.variant v x withLog →
      ∃ u : State, exec (exportOf c dest withLog).1 s = .next u.settle ∧
        SendsOnly (s.replyTo c (exportOf c dest withLog).2 stNotPermitted [p32 0x82 (s.exportPages c.variant v x withLog)]) s u ∧
        u = { s.using c (exportOf c dest withLog).2 n with out := u.out, sessions := u.sessions }) ∧
    (dest.aligned = true → s.exportPages c.variant v x withLog ≤ dest.pages → v.pins < 65535 →
      ∃ (u : State) (y : Strm) (w : Var), exec (exportOf c dest withLog).1 s = .next u.settle ∧
        u.strm s.nextId = some y ∧ y.kind = 5 ∧ y.ctx = c.ctx ∧ y.total = s.exportPages c.variant v x withLog ∧ y.region = some dest ∧
        y.issued = 0 ∧ u.var c.variant = some w ∧ w = { v with pins := v.pins + 1, lastUse := s.intakeRounds } ∧
        u.ctx c.ctx = some { x with pageSeq := x.pageSeq + s.exportPages c.variant v x withLog } ∧ u.out = s.out ∧
        u = { s with sessions := (s.awaiting c (exportOf c dest withLog).2 n).sessions, vars := u.vars, ctxs := u.ctxs,
                     streams := u.streams, nextId := s.nextId + 1 }) := by
  rw [exec_exportOf dest withLog h]
  generalize (exportOf c dest withLog).2 = op at h ⊢
  have hpages : (s.using c op n).exportPages c.variant { v with lastUse := s.intakeRounds } x withLog = s.exportPages c.variant v x withLog :=
    congrArg (fun l => l.length + 1)
      (State.exportBodies_atBoundary (s := s) (t := s.using c op n) rfl c.variant s.intakeRounds x.seed v (withLog.getD false))
  refine ⟨fun ha => ?_, fun ha hd => ?_, fun ha hd hp => ?_⟩
  · simp [ha]
  · rw [if_pos ha, State.acceptExport_small (t := ticketOf c op n ss.serial) h.var_using hx (hpages ▸ hd)]
    obtain ⟨r, hans, hr⟩ := answerWith_awaiting (u := s.using c op n) (op := op) (st := stNotPermitted)
      (p := [p32 0x82 (s.exportPages c.variant v x withLog)]) h.takes hc rfl rfl rfl rfl rfl
    refine ⟨{ s.using c op n with
      out := s.out ++ [s.replyTo c op stNotPermitted [p32 0x82 (s.exportPages c.variant v x withLog)]], sessions := r }, ?_, ⟨rfl, hr⟩, rfl⟩
    rw [show (ticketOf c op n ss.serial).variant = c.variant from rfl, hpages, hans]
  · obtain ⟨use, pages, haccept⟩ := State.acceptExport_room (t := ticketOf c op n ss.serial) h.var_using hx (hpages ▸ hd) hp
    rw [show (ticketOf c op n ss.serial).variant = c.variant from rfl, show (ticketOf c op n ss.serial).ctx = c.ctx from rfl, hpages] at haccept
    let pinned : State := ((s.using c op n).setCtx c.ctx { x with pageSeq := x.pageSeq + s.exportPages c.variant v x withLog }).pin c.variant
    obtain ⟨y, streams, hopen, hy, -, hctx, hkind, htotal, hregion, hissued⟩ := pinned.openService_eq c.ctx use 5
      (s.exportPages c.variant v x withLog) (some dest) pages x.pageSeq
    refine ⟨{ pinned with streams := streams, nextId := s.nextId + 1 }, y, _, ?_, hy, hkind, hctx, htotal, hregion, hissued,
      State.var_modVar (s := (s.using c op n).setCtx c.ctx _) h.var_using _, rfl, Tab.find_put_self _ _ _, rfl, rfl⟩
    rw [if_pos ha, haccept, hopen]
    rfl

/-! ## RESTORE (R349) -/

/-- A variant with a RESTORE begins to load for it, its waiting uses pinned. -/
theorem State.wantRestore_eq {s : State} {id : Nat} {v : Var} {r : Restore} (hv : s.var id = some v) (hr : v.restore = some r)
    (fromAbsent : Bool) : ∃ (vars : Tab Var) (park : List Parked), s.wantRestore id fromAbsent = { s with vars := vars, park := park } ∧
      vars.find id = some { v with
        st := .loading, waitSpace := !v.holdsHbm, restore := some { r with loading := true, fromAbsent := fromAbsent }
        pins := v.pins + v.pendingPins, pendingPins := 0 } ∧ ∀ k, k ≠ id → vars.find k = s.vars.find k := by
  have hfind : s.vars.find id = some v := hv
  refine ⟨_, _, rfl, ?_, fun k hk => ?_⟩
  · simp [Tab.find_modify, hfind, hr, State.pinParked, State.modVar]
    rfl
  · simp [Tab.find_modify, Ne.symm hk, State.pinParked, State.modVar]

/-- A RESTORE of a variant that waits for none is noted; of an ABSENT one the load begins. -/
theorem State.beginRestore_absent {s : State} {t : Ticket} {image : Region} {v : Var} (hv : s.var t.variant = some v)
    (hr : v.restore = none) (hst : v.st = .absent) : s.beginRestore t image =
      (s.setVar t.variant { v with restore := some ⟨t, image, false, false, false⟩ }).wantRestore t.variant true := by
  rw [State.beginRestore, hv]
  dsimp only
  rw [if_neg (by simp [hr])]
  simp only [hst]

theorem exec_restore {s : State} {c : Cmd} {n : Nat} {ss : Session} {image : Region} (h : Takes (specOf opRestore) c n ss s)
    (hg : s.granted c.ctx c.variant = true) (ha : image.aligned = true) : exec (.restore c image) s =
      .next ((s.awaiting c opRestore n).beginRestore (ticketOf c opRestore n ss.serial) image).settle := by
  rw [exec, execRestore, gafferVar_takes h hg]
  simp only [ha]
  rfl

/-- Settles O33: each command by its branch on the region, on the variant's residency, or on the log it names. -/
theorem imagesLeaveAndComeBack : Obligations.images_leave_and_come_back := by
  refine fun s c n ss v x hc hx => ⟨fun dest withLog => ?_, fun image h hg ha => ?_, fun image h hg ha hv => ⟨fun hr => ?_, fun hr hst => ?_⟩,
    fun first last h => ?_, fun first last r h => ?_⟩
  · have := exports_of_a_use s c n ss v x hc hx dest withLog
    cases withLog with
    | none => exact this
    | some w => exact this
  · rw [exec, execRestore, gafferVar_takes h hg]
    simp [ha]
  · obtain ⟨r, hans, hsess⟩ := answerWith_awaiting (u := s.awaiting c opRestore n) (op := opRestore) (st := stBusy) (p := []) h hc
      rfl rfl rfl rfl rfl
    refine ⟨{ s with out := s.out ++ [s.replyTo c opRestore stBusy []], sessions := r }, ?_, ⟨rfl, hsess⟩, rfl⟩
    have hv' : (s.awaiting c opRestore n).var (ticketOf c opRestore n ss.serial).variant = some v := hv
    rw [exec_restore h hg ha, State.beginRestore, hv']
    dsimp only
    rw [if_pos hr, State.answer, hans]
    rfl
  · obtain ⟨vars, park, hwant, hfind, hother⟩ := State.wantRestore_eq (s := (s.awaiting c opRestore n).setVar c.variant
      { v with restore := some ⟨ticketOf c opRestore n ss.serial, image, false, false, false⟩ }) (Tab.find_put_self _ _ _) rfl true
    refine ⟨{ s.awaiting c opRestore n with vars := vars, park := park }, _, ?_, hfind, rfl, ?_, rfl, rfl, rfl, fun k hk => ?_, rfl⟩
    · rw [exec_restore h hg ha, State.beginRestore_absent (s := s.awaiting c opRestore n) (t := ticketOf c opRestore n ss.serial) hv hr hst]
      exact congrArg (fun u => Host.Outcome.next (State.settle u)) hwant
    · simp [Var.holdsHbm, hst]
    · exact (hother k hk).trans (Tab.find_put_ne _ _ (Ne.symm hk))
  · rw [exec, execReplay, gafferVar_takes h.takes h.grant]
    simp only [h.useVariant, State.acceptReplay]
    rw [show (s.using c opReplay n).var (ticketOf c opReplay n ss.serial).variant = _ from h.var_using]
    rfl
  · rw [exec, execReplay, gafferVar_takes h.takes h.grant]
    simp only [h.useVariant, State.acceptReplay]
    cases r.aligned <;> rfl

/-! ## Loads and write-outs (R182, R183) -/

/-- Of two writes of one entry the second stands. -/
theorem Tab.put_put {α : Type} (t : Tab α) (i : Nat) (v w : α) : (t.put i v).put i w = t.put i w := by
  induction t with
  | nil => simp [Tab.put]
  | cons q t ih =>
    obtain ⟨k, x⟩ := q
    by_cases hk : k = i
    · simp [Tab.put, hk]
    · by_cases hlt : k < i <;> simp [Tab.put, hk, hlt, ih]

theorem State.setVar_setVar (s : State) (id : Nat) (v w : Var) : (s.setVar id v).setVar id w = s.setVar id w := by
  simp [State.setVar, Tab.put_put]

/-- A variant that no parked use and no RESTORE or eviction waits for becomes RESIDENT and nothing more. -/
theorem State.becomeResident_quiet {s : State} {id : Nat} {v : Var} (hv : s.var id = some v) (hr : v.restore = none)
    (he : v.evictTickets = []) (hp : ∀ k ∈ s.park, k.variant ≠ id) : s.becomeResident id = s := by
  have hone : s.releaseOne id = s := by
    have : s.park.find? (fun p => decide (p.variant = id)) = none := by simpa using hp
    rw [State.releaseOne, this]
  have hparked : s.releaseParked id = s := by
    rw [State.releaseParked]
    induction List.range s.park.length with
    | nil => rfl
    | cons k l ih => rw [List.foldl_cons, hone, ih]
  rw [State.becomeResident, hparked, hv]
  simp [hr, he]

/-- Settles O34: the last part ends the load, and a write-out that is done ends as an eviction of a clean variant does. -/
theorem loadsAndWriteOutsComplete : Obligations.loads_and_write_outs_complete := by
  refine fun s id v hv hr ht => ⟨fun p hst hp => ⟨fun hmore => ?_, fun hlast hpark => ?_⟩, fun hst hpend hwritten => ?_⟩
  · have hsome : v.partsWaiting.all (fun q => decide (q = p)) = false := by
      obtain ⟨q, hq, hne⟩ := hmore
      exact List.all_eq_false.mpr ⟨q, hq, by simp [hne]⟩
    refine ⟨_, ?_, rfl⟩
    rw [exec, execLoadPartPlaced, State.partPlaced, hv]
    dsimp only
    rw [if_pos (by simp [hst, hp]), hsome, State.modVar_eq_setVar hv]
    rfl
  · have hall : v.partsWaiting.all (fun q => decide (q = p)) = true := by simpa using hlast
    have hnone : v.partsWaiting.filter (fun q => decide (q ≠ p)) = [] := by simpa [List.filter_eq_nil_iff] using hlast
    let w : Var := { v with partsWaiting := [], st := .resident }
    have hres : (s.setVar id w).endRestore id = s.setVar id w := by
      rw [State.endRestore, show (s.setVar id w).var id = some w from Tab.find_put_self _ _ _]
      simp [w, hr]
    refine ⟨s.setVar id w, ?_, rfl⟩
    rw [exec, execLoadPartPlaced, State.partPlaced, hv]
    dsimp only
    rw [if_pos (by simp [hst, hp]), hall, State.modVar_eq_setVar hv, hnone, State.loadComplete,
      State.modVar_eq_setVar (s := s.setVar id { v with partsWaiting := [] }) (Tab.find_put_self _ _ _), State.setVar_setVar]
    show settled (.next (((s.setVar id w).endRestore id).becomeResident id)) = _
    rw [hres, State.becomeResident_quiet (s := s.setVar id w) (v := w) (Tab.find_put_self _ _ _) hr ht hpark]
    rfl
  · have hany : s.streams.vals.any (fun x => decide (x.use = .writeOut id) && x.discard == false &&
        decide (x.landed.length = x.total) && decide (x.outstanding = [])) = true := by
      obtain ⟨k, x, hx, huse, hdiscard, hlanded, hout⟩ := hwritten
      refine List.any_eq_true.mpr ⟨x, List.mem_map_of_mem (Tab.mem_of_find hx), ?_⟩
      simp [huse, hdiscard, hlanded, hout]
    obtain ⟨streams, hclosed⟩ : ∃ streams, eachDo (s.streamsFor (fun x => decide (x.use = .writeOut id))) (fun k s => s.delStrm k) s =
        { s with streams := streams } :=
      eachDo_induction (P := fun t => ∃ streams, t = { s with streams := streams }) _ ⟨_, rfl⟩
        (by rintro k - _ ⟨x, rfl⟩; exact ⟨x.del k, rfl⟩)
    let clean : Var := { v with dirty := false }
    have hclean : State.modVar { s with streams := streams } id (fun v => { v with dirty := false }) =
        State.setVar { s with streams := streams } id clean := State.modVar_eq_setVar (s := { s with streams := streams }) hv _
    obtain ⟨t, ⟨links, frames, numbers, rfl, hframes⟩, habsent⟩ := State.becomeAbsent_eq
      (s := State.setVar { s with streams := streams } id clean) (v := clean) (Tab.find_put_self _ _ _) (by simp [clean, Var.holdsHbm, hst])
      hr hpend
    let gone : Var := { clean with st := .absent, tensors := [], active := false, force := false, evictTickets := [], manifestPage := 0 }
    refine ⟨{ s with
      vars := (s.vars.put id clean).put id gone, streams := streams, hbmFree := s.hbmFree + v.hbmPages, links := links
      out := s.out ++ frames, ring := { s.ring with e2eTx := numbers } }, gone, ?_, Tab.find_put_self _ _ _, rfl, rfl, rfl, rfl, rfl, rfl,
      fun k hk => (Tab.find_put_ne _ _ (Ne.symm hk)).trans (Tab.find_put_ne _ _ (Ne.symm hk)), ⟨frames, rfl, hframes⟩, rfl⟩
    rw [exec, execWriteOutComplete, hv]
    dsimp only
    rw [if_pos (by rw [hany]; simp [hst]), hclosed, hclean, habsent]
    have hnone : clean.evictTickets = [] := ht
    rw [hnone]
    rfl

end Sys2Proof.Machine
end

section
/-! PROOFS. Steps and evaluations are accepted. -/

namespace Sys2Proof.Machine

/-! ## What a record takes of the store -/

/-- A change of an entry that keeps what is read of it keeps what is read of the whole table. -/
theorem Tab.map_vals_modify {α β : Type} {t : Tab α} (h : t.wf) {i : Nat} {f : α → α} {g : α → β} (hg : ∀ v, g (f v) = g v) :
    (t.modify i f).vals.map g = t.vals.map g := by
  have hput : ∀ (t : Tab α) (v w : α), t.wf → t.find i = some w → g v = g w → (t.put i v).vals.map g = t.vals.map g := by
    intro t v w
    induction t with
    | nil => simp
    | cons q t ih =>
      intro hwf hw hvw
      obtain ⟨k, x⟩ := q
      obtain ⟨hk', ht⟩ := List.pairwise_cons.mp hwf
      by_cases hk : k = i
      · obtain rfl : x = w := by simpa [Tab.find, hk] using hw
        simp [Tab.put, hk, Tab.vals, hvw]
      · have hw' : Tab.find t i = some w := by simpa [Tab.find, hk] using hw
        have hlt : k < i := hk' i (List.mem_map_of_mem (f := Prod.fst) (Tab.mem_of_find hw'))
        have := ih ht hw' hvw
        simp only [Tab.vals] at this
        simp [Tab.put, hk, hlt, Tab.vals, this]
  unfold Tab.modify
  split
  case h_1 w hw => exact hput t _ w h hw (hg w)
  case h_2 => rfl

/-- A use does not change what a context's variants hold of the store. -/
theorem State.recordFits_using {s : State} (h : s.TablesOk) {c : Cmd} {op n ctx : Nat} (v : Var) (last : Nat) (r : LogRecord) :
    (s.using c op n).recordFits ctx { v with lastUse := last } r = s.recordFits ctx v r := by
  have hused : (s.using c op n).storeUsed ctx = s.storeUsed ctx :=
    congrArg List.sum (Tab.map_vals_modify h.vars fun _ => rfl)
  simp only [State.recordFits, hused]
  rfl

/-! ## STEP (R344, R394) -/

/-- A STEP with its own samples that is in range meets its acceptance. -/
theorem exec_step {s : State} {c : Cmd} {n : Nat} {ss : Session} {v : Var} {p : StepParams} (h : Uses opStep c n ss v s)
    (hs : p.samples ≠ []) (hok : samplesOk p.samples = true) (hm : s.microRowsOk p.microRows = true) :
    exec (.step c p) s = .next ((s.using c opStep n).acceptStep (some (ticketOf c opStep n ss.serial)) c.variant c.ctx p).settle := by
  have hm' : (s.awaiting c opStep n).microRowsOk p.microRows = true := hm
  rw [exec, execStep, gafferVar_takes h.takes h.grant]
  simp only [h.useVariant]
  rw [if_neg (by simp [hs, hok, hm'])]
  rfl

/-- What the log of a variant keeps when its next step is accepted: after a replay, the records up to the step given last (R394). -/
def Var.keptLog (v : Var) : List LogRecord := if v.forked then v.log.filter (fun r => decide (r.step ≤ v.largestGiven)) else v.log

/-- The acceptance of a step with its own samples: its gradients decide, then the store, and then it is taken. -/
theorem State.acceptStep_own {s : State} {t : Ticket} {id ctx : Nat} {p : StepParams} {v : Var} {x : Ctx} (hv : s.var id = some v)
    (hx : s.ctx ctx = some x) (hq : p.takeQueue = false) (hr : v.refuseTensors p.tensors = none) :
    ((batchesOf p.microRows p.samples).all (fun b => s.gradsFit (tokensOf b)) = false →
      s.acceptStep (some t) id ctx p = s.answerWith t stNotPermitted []) ∧
    ((batchesOf p.microRows p.samples).all (fun b => s.gradsFit (tokensOf b)) = true → v.largestGiven < 2 ^ 64 - 1 → v.pins < 65535 →
      let y := s.newStep v x id ctx (some t) p p.samples s.nextId
      s.recordFits ctx { v with log := v.keptLog } (s.openRecord v x y false) = true →
      s.acceptStep (some t) id ctx p =
        State.pin { s with
          nextId := s.nextId + 1, ctxs := s.ctxs.put ctx { x with queue := x.queue }
          vars := s.vars.put id { v with largestGiven := y.number, log := v.keptLog ++ [s.openRecord v x y false], forked := false }
          steps := s.steps ++ [y] } id) := by
  refine ⟨fun hfit => ?_, fun hfit hlast hp => ?_⟩
  · rw [State.acceptStep, hv, hx]
    simp only [hr, hq, Bool.false_eq_true, if_false, List.append_nil, hfit]
    rfl
  · intro y hrec
    rw [State.acceptStep, hv, hx]
    simp only [hr, hq, Bool.false_eq_true, if_false, List.append_nil, hfit, Nat.not_le.mpr hp, Nat.not_le.mpr hlast]
    have hrec' : s.fresh.2.recordFits ctx { v with log := v.keptLog }
        (s.fresh.2.openRecord v x (s.fresh.2.newStep v x id ctx (some t) p p.samples s.fresh.1) false) = true := hrec
    rw [if_neg (by decide), if_neg]
    · rfl
    · intro h
      rw [Bool.not_eq_true'] at h
      exact Bool.noConfusion (hrec'.symm.trans h)

/-- An EVAL in range meets its acceptance. -/
theorem exec_eval {s : State} {c : Cmd} {n : Nat} {ss : Session} {v : Var} {samples : List Sample} {rows every : Nat}
    (h : Uses opEval c n ss v s) (htok : tokensOf samples ≤ 65536) (hok : samplesOk samples = true) (hm : s.microRowsOk rows = true) :
    exec (.eval c samples rows every) s =
      .next ((s.using c opEval n).acceptEval (ticketOf c opEval n ss.serial) samples rows every).settle := by
  have hm' : (s.awaiting c opEval n).microRowsOk rows = true := hm
  rw [exec, execEval, gafferVar_takes h.takes h.grant]
  simp only [h.useVariant]
  rw [if_neg (by simp [hok, hm', htok])]
  rfl

/-- An evaluation whose variant may take a pin, and that repeats beside at most three others, waits for its turn. -/
theorem State.acceptEval_of {s : State} {t : Ticket} {samples : List Sample} {rows every : Nat} {v : Var} (hv : s.var t.variant = some v)
    (he : every = 0 ∨ (s.evalsFor (fun e => decide (e.ctx = t.ctx) && decide (0 < e.every))).length < 4) (hp : v.pins < 65535) :
    s.acceptEval t samples rows every = State.pin { s with
      nextId := s.nextId + 1
      evals := s.evals.put s.nextId {
        ticket := t, variant := t.variant, ctx := t.ctx, experts := v.attached, batches := batchesOf rows samples, every := every,
        commitsLeft := 0, active := true, generation := 0, reading := [], done := 0, losses := [],
        tokens := tokensOf samples, ending := none, afterStep := s.nextId, degraded := false, rerun := false } } t.variant := by
  have hfull : ¬ ((decide (0 < every) &&
      decide (4 ≤ (s.evalsFor (fun e => decide (e.ctx = t.ctx) && decide (0 < e.every))).length)) = true) := by
    rcases he with rfl | he
    · simp
    · simp [Nat.not_le.mpr he]
  rw [State.acceptEval, hv]
  simp only [hfull, Nat.not_le.mpr hp, if_false]
  rfl

/-- An entry put and pinned stands with one more pin and its use noted. -/
theorem State.var_pin {s : State} {id : Nat} {v : Var} (h : s.vars.find id = some v) :
    (s.pin id).var id = some { v with pins := v.pins + 1, lastUse := s.intakeRounds } := State.var_modVar h _

/-- A pin changes one entry. -/
theorem State.var_pin_ne {s : State} {id k : Nat} (h : k ≠ id) : (s.pin id).var k = s.var k := by
  simp [State.pin, State.modVar, State.var, Tab.find_modify, Ne.symm h]

/-- Settles O36. -/
theorem stepsAndEvaluationsAreAccepted : Obligations.steps_and_evaluations_are_accepted := by
  refine fun s c n ss v x hok hx hp => ⟨fun p h hs hq hsamples hm hr hfit hlast => ?_, fun p hc h hs hq hsamples hm hr hfit => ?_,
    fun samples rows every h htok hsamples hm hevery => ?_, fun id hup hdue hwait => ?_, fun id w hdue hw => ?_, fun id hnot => ?_⟩
  · intro kept t hrec
    obtain ⟨-, htake⟩ := State.acceptStep_own (t := ticketOf c opStep n ss.serial) h.var_using (s := s.using c opStep n) hx hq hr
    have hacc := htake hfit hlast hp ((State.recordFits_using hok _ _ _).trans hrec)
    refine ⟨_, _, (exec_step h hs hsamples hm).trans (by rw [hacc]), rfl, rfl, rfl, rfl, rfl, rfl, ?_, rfl, fun k hk => ?_, fun k => ?_, rfl⟩
    · exact (State.var_pin (by exact Tab.find_put_self _ _ _)).trans rfl
    · exact (State.var_pin_ne hk).trans ((Tab.find_put_ne _ _ (Ne.symm hk)).trans (State.using_var_ne hk))
    · by_cases hk : c.ctx = k
      · exact hk ▸ (Tab.find_put_self _ _ _).trans hx.symm
      · exact Tab.find_put_ne _ _ hk
  · obtain ⟨hrefuse, -⟩ := State.acceptStep_own (t := ticketOf c opStep n ss.serial) h.var_using (s := s.using c opStep n) hx hq hr
    obtain ⟨r, hans, hsess⟩ := answerWith_awaiting (u := s.using c opStep n) (op := opStep) (st := stNotPermitted) (p := []) h.takes hc
      rfl rfl rfl rfl rfl
    refine ⟨{ s.using c opStep n with out := s.out ++ [s.replyTo c opStep stNotPermitted []], sessions := r }, ?_, ⟨rfl, hsess⟩, rfl⟩
    rw [exec_step h hs hsamples hm, hrefuse hfit, hans]
  · have hrun := exec_eval (every := every) h htok hsamples hm
    rw [State.acceptEval_of (v := { v with lastUse := s.intakeRounds }) h.var_using hevery hp] at hrun
    exact ⟨_, _, hrun, Tab.find_put_self _ _ _, rfl, rfl, rfl, rfl, rfl, rfl, (State.var_pin (v := { v with lastUse := s.intakeRounds }) (by exact h.var_using)).trans rfl,
      fun k hk => (State.var_pin_ne hk).trans (State.using_var_ne hk), rfl⟩
  · rw [exec, execAutomaticStep, hup, hdue, hwait]
    rfl
  · have hin : s.autoDue id = true := (List.mem_filter.mp (show id ∈ s.autosDue by simp [hdue])).2
    rw [State.takeAutos, hdue]
    simp only [eachDo, List.foldl, State.takeAuto, hin, hw, if_true]
  · rw [exec, execAutomaticStep, if_neg]
    rcases hnot with h | h <;> simp [h]

end Sys2Proof.Machine
end

section
/-! PROOFS. The check of a training step. -/

namespace Sys2Proof.Machine

/-! ## The steps -/

/-- A step that is found has the variant and the number asked for. -/
theorem State.findStep_spec {s : State} {id m : Nat} {t : TStep} (h : s.findStep id m = some t) : t.variant = id ∧ t.number = m := by
  simpa using List.find?_some h

/-- A change that keeps a step's variant and number is found at it. -/
theorem State.findStep_modStep {s : State} {id m : Nat} {t : TStep} (h : s.findStep id m = some t) {f : TStep → TStep}
    (hv : ∀ x, (f x).variant = x.variant := by intro; rfl) (hn : ∀ x, (f x).number = x.number := by intro; rfl) :
    (s.modStep id m f).findStep id m = some (f t) := by
  unfold State.findStep at h ⊢
  unfold State.modStep
  have hsame : ((fun x : TStep => decide (x.variant = id) && decide (x.number = m)) ∘
      fun x => if x.variant = id && x.number = m then f x else x) = fun x => decide (x.variant = id) && decide (x.number = m) := by
    funext x
    simp only [Function.comp]
    split <;> simp [hv, hn]
  rw [List.find?_map, hsame, h]
  obtain ⟨hvar, hnum⟩ := State.findStep_spec h
  simp [hvar, hnum]

theorem State.Sends.reduceAll (s : State) (v : Var) (id : Nat) (m : ReduceMsg) : s.Sends (s.reduceAll v id m) := .tellHolders s v 3 _

/-! ## What opening a step changes (R126) -/

/-- The variant that computes takes its place among those that do. -/
theorem State.activate_eq (s : State) (id : Nat) : ∃ vars next, s.activate id = { s with vars := vars, nextId := next } := by
  unfold State.activate
  extract_lets act freed
  have hfreed : ∃ vars, freed = { s with vars := vars } := by
    dsimp only [freed]
    split
    · exact ⟨_, rfl⟩
    · split
      · exact ⟨_, rfl⟩
      · exact ⟨_, rfl⟩
  obtain ⟨vars, hvars⟩ := hfreed
  rw [hvars]
  exact ⟨_, _, rfl⟩

/-- A step opens: the set of its number is clear on every tile, its holders are told, and it runs. -/
theorem State.openStep_eq (s : State) (t : TStep) (v : Var) : ∃ vars next links out numbers, s.openStep t v = { s with
    vars := vars, nextId := next, links := links, out := out, ring := { s.ring with e2eTx := numbers }
    tiles := (s.clearSets (t.number % 3)).tiles
    steps := (s.modStep t.variant t.number (fun y => { y with phase := .run })).steps } := by
  unfold State.openStep
  obtain ⟨vars, next, hact⟩ := s.activate_eq t.variant
  obtain ⟨links, frames, numbers, hsent, -⟩ :=
    State.Sends.reduceAll (({ s with vars := vars, nextId := next }).clearSets (t.number % 3)) v t.variant (.began t.number t.head)
  rw [hact, hsent]
  exact ⟨_, _, _, _, _, rfl⟩

/-- A cleared set is empty on every tile, and the other sets stay. -/
theorem State.sets_clearSets (s : State) (set k : Nat) : ((s.clearSets set).tile k).sets = (s.tile k).sets.set set [] := by
  have hreset : ∀ i : Nat, Tile.reset.sets = Tile.reset.sets.set i []
    | 0 | 1 | 2 => rfl
    | _ + 3 => rfl
  simp only [State.clearSets, State.tile, Tab.getOr, Tab.find_each]
  cases s.tiles.find k with
  | none => exact hreset set
  | some x => rfl

/-- A step that is to be checked, opened if it waits. -/
def State.opened (s : State) (t : TStep) (v : Var) : State := if t.phase = .waiting then s.openStep t v else s

/-- Opening a step that is found leaves it found, in some phase, and clears no set but its own. -/
theorem State.opened_keeps {s : State} {id m : Nat} {t : TStep} {v : Var} (h : s.findStep id m = some t) :
    ∃ vars next links out numbers tiles steps phase, s.opened t v = { s with
      vars := vars, nextId := next, links := links, out := out, ring := { s.ring with e2eTx := numbers }, tiles := tiles, steps := steps } ∧
      (s.opened t v).findStep id m = some { t with phase := phase } ∧
      (∀ k, (((s.opened t v).clearSets (m % 3)).tile k).sets = (s.tile k).sets.set (m % 3) []) := by
  obtain ⟨rfl, rfl⟩ := State.findStep_spec h
  unfold State.opened
  split
  · obtain ⟨vars, next, links, out, numbers, heq⟩ := s.openStep_eq t v
    refine ⟨vars, next, links, out, numbers, _, _, .run, heq, ?_, fun k => ?_⟩
    · rw [heq]
      exact State.findStep_modStep h
    · rw [State.sets_clearSets, heq]
      exact (congrArg (fun l : List _ => l.set (t.number % 3) []) (s.sets_clearSets (t.number % 3) k)).trans (List.set_set ..)
  · exact ⟨s.vars, s.nextId, s.links, s.out, s.ring.e2eTx, s.tiles, s.steps, t.phase, rfl, h, fun k => s.sets_clearSets _ k⟩

/-- The statistics of a step as its check reads them. -/
def State.checkStats (s : State) (t : TStep) (v : Var) (m : Nat) : List LayerStat :=
  addStats t.allStats ((s.opened t v).tileStats (m % 3))

/-- Whether a check finds a value that is not finite, here or at another owner. -/
def State.checkBad (s : State) (t : TStep) (v : Var) (m : Nat) : Bool :=
  s.badGrads t v || anyNonfinite (s.checkStats t v m) || t.checks.vals.any (fun r => r.1)

/-- The check at the leader. -/
theorem exec_check_leader {s : State} {id m : Nat} {t : TStep} {v : Var} (hstep : s.findStep id m = some t) (hv : s.var id = some v)
    (hup : s.fw.offline = false) (hready : s.checkReady t v = true) (hlead : t.leader = true)
    (hbad : ((s.opened t v).clearSets (m % 3)).badGrads t v = s.badGrads t v) :
    exec (.check id m) s =
      let u := ((s.opened t v).clearSets (m % 3)).reduceAll v t.variant (.checked m (s.checkBad t v m) (s.checkStats t v m))
      settled (.next (if s.checkBad t v m then u.skipGradient t (s.checkStats t v m) else u.beginUpdate t v (s.checkStats t v m))) := by
  rw [State.checkBad, ← hbad]
  unfold State.checkStats State.opened
  rw [exec, execCheck, hstep, hv]
  dsimp only
  rw [if_neg (by simp [hup, hready]), if_neg (by simp [hlead])]

/-- The check at another owner. -/
theorem exec_check_owner {s : State} {id m : Nat} {t : TStep} {v : Var} (hstep : s.findStep id m = some t) (hv : s.var id = some v)
    (hup : s.fw.offline = false) (hready : s.checkReady t v = true) (hlead : t.leader = false) (hopen : s.opened t v = s) :
    exec (.check id m) s = .next (((s.clearSets (m % 3)).modStep id m (fun t => { t with phase := .checked })).ringSend
      t.leaderAt 3 t.ctx (msgLength 3) (.reduce id (.check m (s.badGrads t v) (s.checkStats t v m)))) := by
  rw [exec, execCheck, hstep, hv]
  dsimp only
  rw [if_neg (by simp [hup, hready]), if_pos (by simp [hlead]), State.checkStats, ← State.opened, hopen]
  rfl

theorem State.Sends.steps {s t : State} (h : s.Sends t) : t.steps = s.steps := by
  obtain ⟨_, _, _, rfl, -⟩ := h
  rfl

/-- Settles O37: the step is opened if it waits, its set read and cleared, and what its gradients say decides. -/
theorem checkPassesOrSkips : Obligations.check_passes_or_skips := by
  intro s id m t v hstep hv hup
  refine ⟨fun hready => ?_, fun hready => ?_⟩
  · rw [exec, execCheck, hstep, hv]
    simp [hready]
  obtain ⟨rfl, rfl⟩ := State.findStep_spec hstep
  intro s1 stats bad
  refine ⟨fun hlead => ?_, fun hlead => ?_⟩
  · obtain ⟨vars, next, links, out, numbers, tiles, steps, phase, heq, hfound, hsets⟩ := State.opened_keeps (v := v) hstep
    have hbad : ((s.opened t v).clearSets (t.number % 3)).badGrads t v = s.badGrads t v := by
      rw [heq]
      rfl
    have hexec := exec_check_leader hstep hv hup hready hlead hbad
    have hlayers : ∀ u, ((s.opened t v).clearSets (t.number % 3)).Sends u → u.updateLayers v t.updateSet = s.updateLayers v t.updateSet := by
      rintro _ ⟨_, _, _, rfl, -⟩
      rw [heq]
      rfl
    have hsent := State.Sends.reduceAll ((s.opened t v).clearSets (t.number % 3)) v t.variant (.checked t.number (s.checkBad t v t.number) (s.checkStats t v t.number))
    generalize hu : ((s.opened t v).clearSets (t.number % 3)).reduceAll v t.variant (.checked t.number (s.checkBad t v t.number) (s.checkStats t v t.number)) = u
      at hsent hexec
    have hb' : ∀ b, bad = b → s.checkBad t v t.number = b := fun _ h => h
    refine ⟨u, hu.symm, ?_, fun k => ?_, fun hphase => ?_, fun hb => ?_, fun hb => ?_⟩
    · obtain ⟨_, _, _, rfl, -⟩ := hsent
      rw [heq]
      rfl
    · rw [← hsets k]
      obtain ⟨_, _, _, rfl, -⟩ := hsent
      rfl
    · have hs1 : s.opened t v = s := if_neg (by simp [hphase])
      rw [hs1] at hsent
      obtain ⟨_, _, _, rfl, -⟩ := hsent
      exact ⟨rfl, rfl, rfl⟩
    · rw [hexec, hb' _ hb]
      rfl
    · have hfoundu : u.findStep t.variant t.number = some { t with phase := phase } := by
        rw [State.findStep, hsent.steps]
        exact hfound
      rw [hb' _ hb] at hexec
      refine ⟨u.beginUpdate t v stats, _, hexec, ?_, rfl, rfl⟩
      rw [State.beginUpdate, State.findStep_modStep hfoundu, hlayers u hsent]
  · have hphase : t.phase = .run := by
      simp only [State.checkReady, State.emptyReady, hlead] at hready
      simp at hready
      exact hready.1.1.1
    have hs1 : s1 = s := if_neg (by simp [hphase])
    have hexec := exec_check_owner hstep hv hup hready hlead hs1
    have hsteps := (State.Sends.ringSend ((s.clearSets (t.number % 3)).modStep t.variant t.number (fun t => { t with phase := .checked })) t.leaderAt 3 t.ctx
      (msgLength 3) (.reduce t.variant (.check t.number (s.badGrads t v) (s.checkStats t v t.number)))).steps
    refine ⟨_, _, hexec, ?_, rfl, ?_⟩
    · rw [State.findStep, hsteps]
      exact State.findStep_modStep (s := s.clearSets (t.number % 3)) hstep
    · rw [hsteps]
      rfl

end Sys2Proof.Machine
end

section
/-! PROOFS. The update of a layer, and the vote. -/

namespace Sys2Proof.Machine

/-! ## The tensors of a variant by their place -/

theorem Var.tensors_mapTensors (v : Var) (f : Nat → Tensor → Tensor) (k : Nat) :
    (v.mapTensors f).tensors[k]? = (v.tensors[k]?).map (f k) := by
  simp [Var.mapTensors]
  cases v.tensors[k]? <;> rfl

@[simp] theorem Var.length_mapTensors (v : Var) (f : Nat → Tensor → Tensor) : (v.mapTensors f).tensors.length = v.tensors.length := by
  simp [Var.mapTensors]

theorem Var.mem_indexed {v : Var} {p : Nat × Tensor} : p ∈ v.indexed ↔ v.tensors[p.1]? = some p.2 := by
  simp only [Var.indexed, List.mem_map, Prod.exists, List.mem_zipIdx_iff_getElem?]
  constructor
  · rintro ⟨a, i, h, rfl⟩
    exact h
  · exact fun h => ⟨p.2, p.1, h, rfl⟩

/-- Of the tensors that meet a test, the one at a place is found by its place. -/
theorem Var.find?_indexed {v : Var} {k : Nat} {a : Tensor} (ha : v.tensors[k]? = some a) (q : Nat × Tensor → Bool) :
    (v.indexed.filter q).find? (fun p => decide (p.1 = k)) = if q (k, a) then some (k, a) else none := by
  have hmem : ∀ p ∈ v.indexed, p.1 = k → p = (k, a) := by
    rintro ⟨i, b⟩ hp rfl
    have := Var.mem_indexed.mp hp
    simp_all
  split
  case isTrue hq =>
    rcases hf : (v.indexed.filter q).find? (fun p => decide (p.1 = k)) with _ | p
    · have := List.find?_eq_none.mp hf (k, a) (List.mem_filter.mpr ⟨Var.mem_indexed.mpr ha, hq⟩)
      simp at this
    · have hp := List.find?_some hf
      rw [hf, hmem p (List.mem_filter.mp (List.mem_of_find?_eq_some hf)).1 (by simpa using hp)]
  case isFalse hq =>
    refine List.find?_eq_none.mpr fun p hp hk => hq ?_
    obtain ⟨hin, hqp⟩ := List.mem_filter.mp hp
    rwa [hmem p hin (by simpa using hk)] at hqp

theorem Var.mapTensors_congr {v : Var} {f g : Nat → Tensor → Tensor} (h : ∀ k a, v.tensors[k]? = some a → f k a = g k a) :
    v.mapTensors f = v.mapTensors g := by
  unfold Var.mapTensors
  congr 1
  exact List.map_congr_left fun p hp => h _ _ (List.mem_zipIdx_iff_getElem?.mp hp)

/-! ## The update of a layer -/

/-- What an update of a layer makes of the tensor at a place. -/
def State.updated (s : State) (t : TStep) (v : Var) (l k : Nat) (a : Tensor) : Tensor :=
  if t.updateSet.contains k && s.ownsTensor v k && decide (a.info.layer = l) then
    (updateTensor s.baseFormat t.variant v.curSlot (v.sExp.getD l 0) t (decide (v.lastDerive < v.stepCounter)) a).1
  else a

/-- An update stages new state, and keeps what is committed and the current copy. -/
theorem updateTensor_keeps (fmt id : Nat) (cur : Bool) (e : Int) (t : TStep) (inPlace : Bool) (x : Tensor) :
    let y := (updateTensor fmt id cur e t inPlace x).1
    y.committed = x.committed ∧ y.info = x.info ∧ (if cur then y.slot1 else y.slot0) = (if cur then x.slot1 else x.slot0) ∧
      y.staged.isSome = true := by
  cases cur <;> exact ⟨rfl, rfl, rfl, rfl⟩

/-- The variant with a layer's update in its tensors. -/
def State.updatedVar (s : State) (t : TStep) (v : Var) (l : Nat) : Var := (v.mapTensors (s.updated t v l)).copyLayer t.updateSet l

/-- From one state to the next, no more than the sets of the tiles changed on them. -/
def State.SameButSets (s u : State) : Prop := ∀ k, u.tile k = { s.tile k with sets := (u.tile k).sets }

theorem State.noteBadUpdate_eq (s : State) (t : TStep) (l : Nat) :
    (∃ tiles, s.noteBadUpdate t l = { s with tiles := tiles }) ∧ s.SameButSets (s.noteBadUpdate t l) := by
  unfold State.noteBadUpdate
  split
  case h_1 r _ =>
    refine ⟨⟨_, rfl⟩, fun k => ?_⟩
    by_cases hk : r.tiles.headD 0 = k
    · subst hk
      simp [State.tile, State.modTile, Tab.getOr]
    · simp only [State.tile, State.modTile, Tab.getOr, Tab.find_put_ne _ _ hk]
  case h_2 => exact ⟨⟨s.tiles, rfl⟩, fun _ => rfl⟩

/-- The update of a layer puts the variant with its tensors, counts what it clips and goes on to the next layer. -/
theorem State.writeLayer_eq (s : State) (t : TStep) (v : Var) (l : Nat) (rest : List Nat) : ∃ counters tiles f,
    s.writeLayer t v l rest = { s with
      counters := counters, tiles := tiles, vars := s.vars.put t.variant (s.updatedVar t v l)
      steps := (s.modStep t.variant t.number f).steps } ∧
    (∀ k, k ≠ cF8Saturations → counters.find k = s.counters.find k) ∧
    s.SameButSets (s.writeLayer t v l rest) ∧
    ∀ x : TStep, (f x).layersLeft = rest ∧ (f x).layersDone = l :: x.layersDone ∧ (f x).phase = x.phase ∧ (f x).variant = x.variant ∧
      (f x).number = x.number := by
  unfold State.writeLayer
  extract_lets done bad n elems counted sats w counted' s' 
  have hw : w = v.mapTensors (s.updated t v l) := by
    refine Var.mapTensors_congr fun k a ha => ?_
    have hfind : done.find? (fun d => decide (d.1 = k)) =
        ((v.indexed.filter (fun p => t.updateSet.contains p.1 && s.ownsTensor v p.1 && decide (p.2.info.layer = l))).find?
          (fun p => decide (p.1 = k))).map (fun p => (p.1, updateTensor s.baseFormat t.variant v.curSlot (v.sExp.getD l 0) t
            (decide (v.lastDerive < v.stepCounter)) p.2)) := List.find?_map ..
    rw [hfind, Var.find?_indexed ha, State.updated]
    dsimp only
    cases t.updateSet.contains k && s.ownsTensor v k && decide (a.info.layer = l) <;> rfl
  obtain ⟨counters, hcount, hkeep⟩ := s.countF8_eq sats
  have hput : counted' = { s with counters := counters, vars := s.vars.put t.variant (s.updatedVar t v l) } := by
    dsimp only [counted']
    rw [hcount, hw]
    rfl
  have hnote : (∃ tiles, s' = { s with counters := counters, vars := s.vars.put t.variant (s.updatedVar t v l), tiles := tiles }) ∧
      s.SameButSets s' := by
    dsimp only [s']
    rw [hput]
    cases bad
    · exact ⟨⟨s.tiles, rfl⟩, fun _ => rfl⟩
    · obtain ⟨⟨tiles, heq⟩, hsame⟩ := State.noteBadUpdate_eq
        { s with counters := counters, vars := s.vars.put t.variant (s.updatedVar t v l) } t l
      exact ⟨⟨tiles, heq⟩, hsame⟩
  obtain ⟨⟨tiles, heq⟩, hsame⟩ := hnote
  refine ⟨counters, tiles, fun x => { x with
    layersLeft := rest, layersDone := l :: x.layersDone, badUpdate := x.badUpdate || bad
    drift := if counted then x.drift ++ [(l, n)] else x.drift
    compared := if counted then x.compared + elems else x.compared }, ?_, hkeep, hsame, fun x => ⟨rfl, rfl, rfl, rfl, rfl⟩⟩
  rw [heq]
  rfl

/-- The copies a member sends are frames. -/
theorem State.Sends.sendCopies (s : State) (id m : Nat) : s.Sends (s.sendCopies id m) := by
  unfold State.sendCopies
  split
  · dsimp only
    split
    · exact .reduceAll _ _ _ _
    · exact .refl s
  · exact .refl s

/-- The update of a layer leaves alone what the step does not update there, what another owner has, and the other layers. -/
theorem State.updated_other {s : State} {t : TStep} {v : Var} {l k : Nat} {a : Tensor}
    (h : t.updateSet.contains k = false ∨ s.ownsTensor v k = false ∨ a.info.layer ≠ l) : s.updated t v l k a = a := by
  refine if_neg ?_
  rcases h with h | h | h <;> simp_all

/-- The update of a layer keeps what is committed and the current copy, and stages new state for what this member updates. -/
theorem State.updated_keeps {s : State} {t : TStep} {v : Var} {l k : Nat} (a : Tensor) :
    (s.updated t v l k a).committed = a.committed ∧ (s.updated t v l k a).info = a.info ∧
      v.curCopy (s.updated t v l k a) = v.curCopy a ∧ (t.updateSet.contains k = true → s.ownsTensor v k = true → a.info.layer = l →
        (s.updated t v l k a).staged.isSome = true) := by
  obtain ⟨hcommitted, hinfo, hcur, hstaged⟩ := updateTensor_keeps s.baseFormat t.variant v.curSlot (v.sExp.getD l 0) t
    (decide (v.lastDerive < v.stepCounter)) a
  unfold State.updated
  split
  case isTrue => exact ⟨hcommitted, hinfo, hcur, fun _ _ _ => hstaged⟩
  case isFalse h => exact ⟨rfl, rfl, rfl, fun hk ho hl => absurd (by simpa [hl, ho] using hk) h⟩

/-- What the update of a layer makes of the tensor at a place. -/
theorem State.updatedVar_tensor {s : State} {t : TStep} {v : Var} {l k : Nat} {a : Tensor} (ha : v.tensors[k]? = some a) :
    ∃ b : Tensor, (s.updatedVar t v l).tensors[k]? = some b ∧ b.committed = a.committed ∧
      (s.updatedVar t v l).curCopy b = v.curCopy a ∧ (a.info.layer ≠ l → b = a) ∧
      (t.updateSet.contains k = false → a.info.layer = l → b = { a with slot0 := v.curCopy a, slot1 := v.curCopy a }) ∧
      (t.updateSet.contains k = true → s.ownsTensor v k = false → b = a) ∧
      (t.updateSet.contains k = true → s.ownsTensor v k = true → a.info.layer = l → b.staged.isSome = true) := by
  have hput : (s.updatedVar t v l).tensors[k]? = some (if !t.updateSet.contains k && decide ((s.updated t v l k a).info.layer = l) then
      { s.updated t v l k a with slot0 := v.curCopy (s.updated t v l k a), slot1 := v.curCopy (s.updated t v l k a) }
      else s.updated t v l k a) := by
    rw [State.updatedVar, Var.copyLayer, Var.tensors_mapTensors, Var.tensors_mapTensors, ha]
    rfl
  obtain ⟨hcommitted, hinfo, hcur, hstaged⟩ := State.updated_keeps (s := s) (t := t) (v := v) (l := l) (k := k) a
  cases hk : t.updateSet.contains k
  case true =>
    rw [hk] at hput
    exact ⟨_, hput, hcommitted, hcur, fun h => State.updated_other (.inr (.inr h)), fun h => (nomatch h),
      fun _ h => State.updated_other (.inr (.inl h)), fun _ => hstaged hk⟩
  case false =>
    rw [hk, State.updated_other (.inl hk)] at hput
    by_cases hl : a.info.layer = l
    · rw [if_pos (by simp [hl])] at hput
      refine ⟨_, hput, rfl, ?_, fun h => absurd hl h, fun _ _ => rfl, fun h => (nomatch h), fun h => (nomatch h)⟩
      exact ite_self _
    · rw [if_neg (by simp [hl])] at hput
      exact ⟨_, hput, rfl, rfl, fun _ => rfl, fun _ h => absurd h hl, fun h => (nomatch h), fun h => (nomatch h)⟩

/-- Settles O38. -/
theorem updatesStageAndVote : Obligations.updates_stage_and_vote := by
  intro s id m t v hstep hv hup hphase hid hm
  subst hid hm
  refine ⟨fun l rest hl hruns hheld => ?_, fun hl hruns => ⟨fun hready => ?_, fun hready => ?_⟩⟩
  · have hexec : exec (.updateLayer t.variant t.number) s = .next
        (({ s with freeCount := s.freeCount + 1 }.writeLayer t v l rest).sendCopies t.variant t.number).settle := by
      rw [exec, execUpdateLayer, hstep, hv]
      dsimp only
      rw [hl]
      dsimp only
      rw [if_neg (by simp [hup, hphase, hruns, hheld])]
      rfl
    obtain ⟨counters, tiles, f, heq, hcount, hsets, hf⟩ := State.writeLayer_eq { s with freeCount := s.freeCount + 1 } t v l rest
    have hsent := State.Sends.sendCopies ({ s with freeCount := s.freeCount + 1 }.writeLayer t v l rest) t.variant t.number
    have hframes := hsent.framesOnly
    obtain ⟨hleft, hdone, hphase', hvar, hnum⟩ := hf t
    have hfound : (({ s with freeCount := s.freeCount + 1 }.writeLayer t v l rest).findStep t.variant t.number) = some (f t) := by
      rw [heq]
      exact State.findStep_modStep hstep (fun x => (hf x).2.2.2.1) (fun x => (hf x).2.2.2.2)
    generalize ({ s with freeCount := s.freeCount + 1 }.writeLayer t v l rest).sendCopies t.variant t.number = u at *
    generalize { s with freeCount := s.freeCount + 1 }.writeLayer t v l rest = w at *
    subst heq
    obtain ⟨links, frames, numbers, rfl, -⟩ := hsent
    exact ⟨_, s.updatedVar t v l, f t, hexec, Tab.find_put_self _ _ _, hfound, hleft, hdone, hphase'.trans hphase,
      (Var.length_mapTensors _ _).trans (Var.length_mapTensors _ _), fun k a ha => State.updatedVar_tensor ha, rfl,
      hcount, hsets, hframes, rfl⟩
  · rw [exec, execVote, hstep, hv]
    simp [hready]
  · have hexec : exec (.vote t.variant t.number) s = .next (
        let u := (s.setVar t.variant (s.writeReplicas t v)).modStep t.variant t.number (fun y =>
          { y with phase := .voted, votes := y.votes.put s.pos ⟨!t.badUpdate, t.drift, t.compared⟩ })
        if t.leader then u else u.ringSend t.leaderAt 3 t.ctx (msgLength 3)
          (.reduce t.variant (.vote t.number ⟨!t.badUpdate, t.drift, t.compared⟩ (s.ownStaged t v)))) := by
      rw [exec, execVote, hstep, hv]
      dsimp only
      rw [if_pos (by simp [hup, hphase, hl, hruns, hready])]
      rfl
    have hfound := State.findStep_modStep (s := s.setVar t.variant (s.writeReplicas t v)) hstep
      (f := fun y => { y with phase := .voted, votes := y.votes.put s.pos ⟨!t.badUpdate, t.drift, t.compared⟩ })
    have hput : (s.vars.put t.variant (s.writeReplicas t v)).find t.variant = some (s.writeReplicas t v) := Tab.find_put_self _ _ _
    have hother : ∀ k, k ≠ t.variant → (s.vars.put t.variant (s.writeReplicas t v)).find k = s.var k :=
      fun k hk => Tab.find_put_ne _ _ (Ne.symm hk)
    dsimp only at hexec
    cases hlead : t.leader
    case true =>
      rw [if_pos hlead] at hexec
      exact ⟨_, _, hexec, hfound, rfl, rfl, hput, hother, rfl, fun _ => rfl, fun h => (nomatch h)⟩
    case false =>
      rw [if_neg (by simp [hlead])] at hexec
      have hsent := State.Sends.ringSend ((s.setVar t.variant (s.writeReplicas t v)).modStep t.variant t.number (fun y =>
        { y with phase := .voted, votes := y.votes.put s.pos ⟨!t.badUpdate, t.drift, t.compared⟩ })) t.leaderAt 3 t.ctx (msgLength 3)
        (.reduce t.variant (.vote t.number ⟨!t.badUpdate, t.drift, t.compared⟩ (s.ownStaged t v)))
      generalize hu : State.ringSend _ t.leaderAt 3 t.ctx (msgLength 3) _ = u at hexec hsent
      obtain ⟨links, frames, numbers, rfl, -⟩ := hsent
      exact ⟨_, _, hexec, hfound, rfl, rfl, hput, hother, rfl, fun h => (nomatch h), fun _ => hu.symm⟩

end Sys2Proof.Machine
end

section
/-! PROOFS. The flip of a training step, and its header. -/

namespace Sys2Proof.Machine

/-! ## The flip -/

/-- From one state to the next, events have been queued, lost or counted. -/
def State.Raises (s t : State) : Prop := ∃ sessions counters ctxs, t = { s with sessions := sessions, counters := counters, ctxs := ctxs }

theorem State.Raises.raise {s t : State} (h : s.Raises t) (e : Event) : s.Raises (t.raise e) := by
  obtain ⟨r, k, x, rfl⟩ := h
  obtain ⟨r', k', x', h'⟩ := State.raise_eq { s with sessions := r, counters := k, ctxs := x } e
  exact ⟨r', k', x', h'⟩

theorem State.Raises.raiseAdjust (s : State) (t : TStep) (l : List Adjust) : s.Raises (s.raiseAdjust t l) := by
  refine eachDo_induction (P := s.Raises) _ ⟨_, _, _, rfl⟩ fun p _ u hu => ?_
  split
  · exact hu.raise _
  · exact hu

theorem State.Raises.raiseDrift (s : State) (t : TStep) : s.Raises (s.raiseDrift t) := by
  unfold State.raiseDrift
  extract_lets n m
  split
  · exact State.Raises.raise ⟨_, _, _, rfl⟩ _
  · exact ⟨_, _, _, rfl⟩

theorem State.Sends.sendDigests (s : State) (id n : Nat) (due : Bool) : s.Sends (s.sendDigests id n due) := by
  unfold State.sendDigests
  split
  · split
    · exact .reduceAll _ _ _ _
    · exact .refl s
  · exact .refl s

/-- The repeating evaluations that become due pin the variant, and nothing else of it changes. -/
theorem State.runRepeats_keeps {s : State} {t : TStep} {w : Var} (hw : s.var t.variant = some w) :
    (∃ evals vars, s.runRepeats t = { s with evals := evals, vars := vars }) ∧
      ∃ pins last, (s.runRepeats t).var t.variant = some { w with pins := pins, lastUse := last } := by
  refine eachDo_induction (P := fun u => (∃ evals vars, u = { s with evals := evals, vars := vars }) ∧
    ∃ pins last, u.var t.variant = some { w with pins := pins, lastUse := last }) _ ⟨⟨_, _, rfl⟩, w.pins, w.lastUse, hw⟩ ?_
  rintro id - u ⟨⟨evals, vars, rfl⟩, pins, last, hu⟩
  split
  · split
    · exact ⟨⟨_, _, rfl⟩, pins + 1, s.intakeRounds, State.var_pin (v := { w with pins := pins, lastUse := last }) hu⟩
    · exact ⟨⟨_, _, rfl⟩, pins, last, hu⟩
  · exact ⟨⟨_, _, rfl⟩, pins, last, hu⟩

/-- The flip of a step makes the slot that is not current the current one. -/
theorem State.flip_keeps {s : State} {t : TStep} (v : Var) (hstep : s.findStep t.variant t.number = some t) :
    (s.flip t v).mem = s.mem ∧
    (∃ pins last, (s.flip t v).var t.variant = some { v.flipped t (s.digestDue v) with pins := pins, lastUse := last }) ∧
    ∃ y, (s.flip t v).findStep t.variant t.number = some y ∧ y.phase = .flipped := by
  unfold State.flip
  extract_lets adj due raised stepped drifted
  have hraised := State.Raises.raiseAdjust (s.setVar t.variant (v.flipped t due)) t adj
  obtain ⟨r, k, x, hr⟩ : State.Raises _ raised := hraised
  have hdrifted : State.Raises stepped drifted := by
    dsimp only [drifted]
    split
    · exact .raiseDrift _ t
    · exact ⟨_, _, _, rfl⟩
  obtain ⟨r', k', x', hd⟩ := hdrifted
  have hsent := (State.Sends.reduceAll drifted v t.variant (.flip t.number)).trans (.sendDigests _ t.variant t.number due)
  generalize State.sendDigests _ t.variant t.number due = u at *
  obtain ⟨links, frames, numbers, hu, -⟩ := hsent
  have hfound : u.findStep t.variant t.number = some { t with
      phase := .flipped, digestsDue := due, sStart := (t.startNow v).map (fun k => (0, k)) } := by
    rw [hu, hd]
    refine State.findStep_modStep (s := raised) ?_
    rw [hr]
    exact hstep
  have hput : u.var t.variant = some (v.flipped t due) := by
    rw [hu, hd]
    dsimp only [stepped]
    rw [hr]
    exact Tab.find_put_self _ _ _
  have hmem : u.mem = s.mem := by
    rw [hu, hd]
    dsimp only [stepped]
    rw [hr]
    rfl
  obtain ⟨⟨evals, vars, heq⟩, hvar⟩ := State.runRepeats_keeps hput
  refine ⟨?_, hvar, _, (?_ : _ = some { t with phase := .flipped, digestsDue := due, sStart := (t.startNow v).map (fun k => (0, k)) }), rfl⟩
  · rw [heq]
    exact hmem
  · rw [heq]
    exact hfound

/-! ## The header -/

/-- What a header write makes of the tensor at a place: what the step staged is committed, and else the state of a rule that is gone
starts again from zero. -/
theorem Var.commitStaged_tensor {v : Var} {t : TStep} {k : Nat} {a : Tensor} (ha : v.tensors[k]? = some a) :
    ∃ b : Tensor, (v.commitStaged t).tensors[k]? = some b ∧ b.slot0 = a.slot0 ∧ b.slot1 = a.slot1 ∧
      (∀ y, t.updateSet.contains k = true → a.staged = some y → b = { a with committed := y, staged := none, half := !a.half }) ∧
      (t.updateSet.contains k = false ∨ a.staged = none →
        (a.info.frozen = true ∨ a.committed.rule = t.settings.rule → b = a) ∧
        (a.info.frozen = false → a.committed.rule ≠ t.settings.rule →
          b = { a with committed := zeroState t.settings.rule a.info.rows a.info.cols a.committed.master })) := by
  rw [Var.commitStaged, Var.tensors_mapTensors, ha]
  refine ⟨_, rfl, ?_⟩
  dsimp only
  by_cases hput : ∃ y, t.updateSet.contains k = true ∧ a.staged = some y
  · obtain ⟨y, hk, hy⟩ := hput
    rw [if_pos hk, hy]
    refine ⟨rfl, rfl, fun y' _ hy' => by rw [Option.some.inj hy'], fun h => ?_⟩
    rcases h with h | h
    · exact absurd (hk.symm.trans h) (by decide)
    · exact nomatch h
  · have hnone : (if t.updateSet.contains k then a.staged else none) = none := by
      split
      case isTrue hk => exact Option.eq_none_iff_forall_not_mem.mpr fun y hy => hput ⟨y, hk, hy⟩
      case isFalse => rfl
    rw [hnone]
    dsimp only
    by_cases h : a.info.frozen = false ∧ a.committed.rule ≠ t.settings.rule
    · rw [if_pos (by simp [h])]
      refine ⟨rfl, rfl, fun y hk hy => (hput ⟨y, hk, hy⟩).elim, fun _ => ⟨fun hno => ?_, fun _ _ => rfl⟩⟩
      rcases hno with hno | hno
      · exact absurd (h.1.symm.trans hno) (by decide)
      · exact absurd hno h.2
    · rw [if_neg (by simpa using h)]
      exact ⟨rfl, rfl, fun y hk hy => (hput ⟨y, hk, hy⟩).elim, fun _ => ⟨fun _ => rfl, fun hf hr => absurd ⟨hf, hr⟩ h⟩⟩

/-- Settles O39. -/
theorem flipsAndHeadersCommit : Obligations.flips_and_headers_commit := by
  refine ⟨fun s id m t v x hstep hv hx hup hlead hphase hid hm => ?_, fun s id m t v hstep hv hid hm hphase hheader => ?_⟩
  all_goals subst hid hm
  · refine ⟨fun ⟨p, hp, hnone⟩ => ?_, fun hall => ⟨fun hfinite => ?_, fun hfinite => ?_⟩⟩
    · rw [exec, execFlip, hstep, hv]
      dsimp only
      rw [if_neg]
      simp only [Bool.and_eq_true, not_and, List.all_eq_true]
      exact fun _ h => absurd (h p hp) (by simp [hnone])
    all_goals
      have hready : (!s.fw.offline && t.leader && decide (t.phase = .voted) &&
          (s.otherHolders v).all (fun p => (t.votes.find p).isSome)) = true := by
        simpa [hup, hlead, hphase] using hall
    · obtain ⟨hmem, ⟨pins, last, hput⟩, y, hfound, hy⟩ := State.flip_keeps v hstep
      refine ⟨s.flip t v, _, y, ?_, hput, hfound, hy, rfl, rfl, rfl, rfl, rfl, rfl, rfl, hmem⟩
      rw [exec, execFlip, hstep, hv]
      dsimp only
      rw [if_pos hready, if_pos hfinite]
      rfl
    · rw [exec, execFlip, hstep, hv]
      dsimp only
      rw [if_pos hready, if_neg (by simp [hfinite])]
      rfl
  · refine ⟨fun hreads => ?_, fun hreads => ?_⟩
    · rw [exec, execHeaderWriteComplete, hstep, hv]
      simp [hreads]
    · have hexec : exec (.headerWriteComplete t.variant t.number) s = settled (.next
          (let u := (s.setVar t.variant (v.commitStaged t)).modStep t.variant t.number (fun t => { t with headers := t.headers ++ [s.pos] })
          if t.leader then u.finishStep t.variant t.number
          else (u.ringSend t.leaderAt 3 t.ctx (msgLength 3) (.reduce t.variant (.headerDone t.number))).leaveStep t)) := by
        rw [exec, execHeaderWriteComplete, hstep, hv]
        dsimp only
        rw [if_pos (by simp [hphase, hheader, hreads])]
      refine ⟨(s.setVar t.variant (v.commitStaged t)).modStep t.variant t.number (fun t => { t with headers := t.headers ++ [s.pos] }),
        v.commitStaged t, Tab.find_put_self _ _ _, rfl, Var.length_mapTensors _ _, fun k a ha => Var.commitStaged_tensor ha,
        fun k hk => Tab.find_put_ne _ _ (Ne.symm hk), rfl, fun hlead => ?_, fun hlead => ?_⟩
      all_goals
        rw [hexec]
        simp only [hlead]
        rfl

end Sys2Proof.Machine
end

section
/-! PROOFS. Requests begin and are cancelled. -/

namespace Sys2Proof.Machine

/-! ## SUBMIT (R225, R226, R351) -/

/-- A SUBMIT in range meets its acceptance, with the next number as its place in the order. -/
theorem exec_submit {s : State} {c : Cmd} {n : Nat} {ss : Session} {v : Var} {b : BaseShape} {p : SubmitParams}
    (h : Uses opSubmit c n ss v s) (hb : s.base.shape = some b) (hok : submitOk b p = true) :
    exec (.submit c p) s = .next (State.acceptSubmit { s.using c opSubmit n with nextId := s.nextId + 1 }
      (ticketOf c opSubmit n ss.serial) p s.nextId).settle := by
  have hb' : (s.awaiting c opSubmit n).base.shape = some b := hb
  rw [exec, execSubmit, gafferVar_takes h.takes h.grant]
  simp only [hb', h.useVariant]
  rw [if_neg (by simp [hok])]
  rfl

/-- A counter of a tenant that does not reach its end raises no event. -/
theorem State.countTenant_quiet {s : State} {ctx place n : Nat}
    (h : ∀ x, s.ctx ctx = some x → (x.counters.getD place Counter.zero).value + n < 0xFFFFFFFFF000) :
    ∃ ctxs, s.countTenant ctx place n = { s with ctxs := ctxs } := by
  unfold State.countTenant
  split
  case h_1 x hx =>
    refine ⟨_, if_neg ?_⟩
    have hadd : (x.counters.getD place Counter.zero).addTenant n =
        { x.counters.getD place Counter.zero with value := (x.counters.getD place Counter.zero).value + n } := if_pos (h x hx)
    simp only [hadd]
    cases (x.counters.getD place Counter.zero).sat <;> decide
  case h_2 => exact ⟨_, rfl⟩

/-- A SUBMIT whose key-value state finds its pages, and whose variant takes a pin, is a request that waits. -/
theorem State.acceptSubmit_of {s : State} {t : Ticket} {p : SubmitParams} {order : Nat} {v : Var} {b : BaseShape}
    (hv : s.var t.variant = some v) (hb : s.base.shape = some b) (hp : kvPagesOf b p ≤ s.hbmFree) (hpins : v.pins < 65535)
    (hmax : 0 < p.maxTokens) :
    s.acceptSubmit t p order = State.pin { s with
      hbmFree := s.hbmFree - kvPagesOf b p
      requests := s.requests.put order {
        ticket := t, variant := t.variant, ctx := t.ctx, p := p, produced := [], placed := 0, inParison := false,
        cancelled := false, ending := none, kvPages := kvPagesOf b p, kv := [], pinned := true, experts := v.slots } } t.variant := by
  rw [State.acceptSubmit, hv, hb]
  dsimp only
  rw [if_neg (by simp [hp, hpins]), if_neg (Nat.ne_of_gt hmax)]

/-- A SUBMIT whose key-value state finds no pages ends at once (R225). -/
theorem State.acceptSubmit_full {s : State} {t : Ticket} {p : SubmitParams} {order : Nat} {v : Var} {b : BaseShape}
    (hv : s.var t.variant = some v) (hb : s.base.shape = some b) (hp : s.hbmFree < kvPagesOf b p) :
    s.acceptSubmit t p order = s.submitFinal t stBusy 0 none := by
  rw [State.acceptSubmit, hv, hb]
  dsimp only
  rw [if_pos (by simp [hp])]

/-- A refused SUBMIT is answered with no token, and counted. -/
theorem State.submitFinal_busy {s : State} {t : Ticket}
    (h : ∀ x, s.ctx t.ctx = some x → (x.counters.getD tRequestsEnded Counter.zero).value + 1 < 0xFFFFFFFFF000) :
    ∃ ctxs, s.submitFinal t stBusy 0 none = { s with ctxs := ctxs }.answerWith t stBusy [p32 0x85 0] := by
  have hcount : ∃ ctxs, (if s.live t then s.countTenant t.ctx tRequestsEnded 1 else s) = { s with ctxs := ctxs } := by
    split
    · exact State.countTenant_quiet h
    · exact ⟨_, rfl⟩
  obtain ⟨ctxs, hctxs⟩ := hcount
  refine ⟨ctxs, ?_⟩
  rw [State.submitFinal, hctxs, State.graded, if_neg (by simp [stBusy, stOkReplayed])]
  rfl

/-! ## CANCEL (R228, R352) -/

/-- What a CANCEL does once it is answered: to the requests, the parked SUBMITs, the parked EVALs and the repeating ones. -/
def State.cancelAll (s : State) (t : Ticket) (target : Nat) : State :=
  let s := eachDo (s.requestsFor (fun r => r.ticket.targetOf t target)) (fun id s => s.cancelRequest id) s
  let s := s.cancelParked (fun p => p.ticket.targetOf t target)
  let s := s.cancelParkedEval (fun p => p.ticket.targetOf t target)
  eachDo (s.evalsFor (fun e => e.ticket.targetOf t target && decide (0 < e.every))) (fun id s => s.endEvalSoon id stOk) s

/-- A CANCEL is answered first. -/
theorem exec_cancel {s u : State} {c : Cmd} {n target : Nat} {ss : Session} (h : Takes (specOf opCancel) c n ss s)
    (hans : (s.awaiting c opCancel n).answer (ticketOf c opCancel n ss.serial) stOk = u) :
    exec (.cancel c target) s = .next (u.cancelAll (ticketOf c opCancel n ss.serial) target).settle := by
  rw [exec, execCancel, gaffer_takes h, hans]
  rfl

/-- A CANCEL with no parked use and no evaluation as its target ends with the requests it ends. -/
theorem State.cancelAll_requests {s u : State} {t : Ticket} {target : Nat}
    (hreq : eachDo (s.requestsFor (fun r => r.ticket.targetOf t target)) (fun id s => s.cancelRequest id) s = u)
    (hpark : ∀ p ∈ u.park, p.ticket.targetOf t target = false) (hev : ∀ p ∈ u.evals, p.2.ticket.targetOf t target = false) :
    s.cancelAll t target = u := by
  have heval : u.evals.keep (fun _ e => e.ticket.targetOf t target && decide (0 < e.every)) = [] :=
    Tab.keep_eq_nil fun x hx => by simp [hev x hx]
  rw [State.cancelAll, hreq]
  simp only [State.cancelParked_of_none hpark, State.cancelParkedEval_of_none hpark, State.evalsFor, heval]
  rfl

theorem State.cancelAll_of_none {s : State} {t : Ticket} {target : Nat} (hreq : ∀ p ∈ s.requests, p.2.ticket.targetOf t target = false)
    (hpark : ∀ p ∈ s.park, p.ticket.targetOf t target = false) (hev : ∀ p ∈ s.evals, p.2.ticket.targetOf t target = false) :
    s.cancelAll t target = s := by
  refine State.cancelAll_requests ?_ hpark hev
  have hnone : s.requests.keep (fun _ r => r.ticket.targetOf t target) = [] := Tab.keep_eq_nil hreq
  rw [State.requestsFor, hnone]
  rfl

/-- The one request there is, computing, is marked to end after its token. -/
theorem State.cancelAll_of_one {s : State} {t : Ticket} {target id : Nat} {r : Request} (hreq : s.requests = [(id, r)])
    (htarget : r.ticket.targetOf t target = true) (hcomp : s.computing r id = true) (hpark : s.park = []) (hev : s.evals = []) :
    s.cancelAll t target = { s with requests := [(id, { r with cancelled := true })] } := by
  refine State.cancelAll_requests ?_ (by simp [hpark]) (by simp [hev])
  simp [State.requestsFor, hreq, Tab.keep, htarget, Tab.keys, eachDo, State.cancelRequest, Tab.find, hcomp, Tab.put]

/-- Settles O40. -/
theorem requestsBeginAndAreCancelled : Obligations.requests_begin_and_are_cancelled := by
  refine fun s c n ss => ⟨fun v b p h hb hok => ⟨exec_submit h hb hok, fun hmax hp hpins => ?_, fun hc hp hcount => ?_⟩,
    fun target h hc => ⟨fun hreq hpark hev => ?_, fun id r hreq htarget hcomp hpark hev => ?_⟩⟩
  · have hrun := exec_submit h hb hok
    rw [State.acceptSubmit_of (s := { s.using c opSubmit n with nextId := s.nextId + 1 }) (t := ticketOf c opSubmit n ss.serial) (v := { v with lastUse := s.intakeRounds }) (b := b) h.var_using hb hp hpins hmax] at hrun
    exact ⟨_, _, hrun, Tab.find_put_self _ _ _, rfl, rfl, rfl, rfl, rfl, rfl, rfl,
      (State.var_pin (v := { v with lastUse := s.intakeRounds }) (by exact h.var_using)).trans rfl,
      fun k hk => (State.var_pin_ne hk).trans (State.using_var_ne hk), rfl⟩
  · have hrun := exec_submit h hb hok
    rw [State.acceptSubmit_full (s := { s.using c opSubmit n with nextId := s.nextId + 1 }) (t := ticketOf c opSubmit n ss.serial) (v := { v with lastUse := s.intakeRounds }) (b := b) h.var_using hb hp] at hrun
    obtain ⟨ctxs, hfinal⟩ := State.submitFinal_busy (s := { s.using c opSubmit n with nextId := s.nextId + 1 })
      (t := ticketOf c opSubmit n ss.serial) hcount
    obtain ⟨r, hans, hr⟩ := answerWith_awaiting (op := opSubmit) (st := stBusy) (p := [p32 0x85 0])
      (u := { s.using c opSubmit n with nextId := s.nextId + 1, ctxs := ctxs }) h.takes hc rfl rfl rfl rfl rfl
    rw [hfinal, hans] at hrun
    exact ⟨_, hrun, rfl, hr⟩
  · obtain ⟨r, hans, hr⟩ := answerWith_awaiting (op := opCancel) (st := stOk) (p := []) (u := s.awaiting c opCancel n)
      h hc rfl rfl rfl rfl rfl
    have hrun := exec_cancel h (target := target) hans
    rw [State.cancelAll_of_none (s := { s.awaiting c opCancel n with out := s.out ++ [s.replyTo c opCancel stOk []], sessions := r })
      hreq hpark hev] at hrun
    exact ⟨_, hrun, ⟨rfl, hr⟩, rfl⟩
  · obtain ⟨r', hans, hr⟩ := answerWith_awaiting (op := opCancel) (st := stOk) (p := []) (u := s.awaiting c opCancel n)
      h hc rfl rfl rfl rfl rfl
    have hrun := exec_cancel h (target := target) hans
    rw [State.cancelAll_of_one (s := { s.awaiting c opCancel n with out := s.out ++ [s.replyTo c opCancel stOk []], sessions := r' })
      (id := id) (r := r) hreq htarget hcomp hpark hev] at hrun
    exact ⟨_, hrun, ⟨rfl, hr⟩, rfl⟩

end Sys2Proof.Machine
end

section
/-! PROOFS. Units start and end. -/

namespace Sys2Proof.Machine

/-! ## Tiles that change alike -/

theorem State.tile_modTile (s : State) (n k : Nat) (f : Tile → Tile) : (s.modTile n f).tile k = if n = k then f (s.tile k) else s.tile k := by
  by_cases h : n = k
  · subst h
    simp [State.tile, State.modTile, Tab.getOr]
  · simp [State.tile, State.modTile, Tab.getOr, Tab.find_put_ne _ _ h, h]

/-- Where each tile of a list changes by the same rule, and the rule adds nothing the second time, these change and no other. -/
theorem State.eachDo_modTile {f : Tile → Tile} {g : Nat → State → State} {s : State} (hf : ∀ t, f (f t) = f t)
    (hg : ∀ n t, t.fw = s.fw → g n t = t.modTile n f) (l : List Nat) :
    (∃ tiles, eachDo l g s = { s with tiles := tiles }) ∧ ∀ n, (eachDo l g s).tile n = if n ∈ l then f (s.tile n) else s.tile n := by
  induction l generalizing s with
  | nil => exact ⟨⟨_, rfl⟩, fun n => by simp [eachDo]⟩
  | cons a l ih =>
    have hstep : eachDo (a :: l) g s = eachDo l g (s.modTile a f) := by
      rw [← hg a s rfl]
      rfl
    obtain ⟨⟨tiles, heq⟩, htile⟩ := ih (s := s.modTile a f) (fun n t h => hg n t h)
    rw [hstep]
    refine ⟨⟨tiles, heq⟩, fun n => ?_⟩
    rw [htile, State.tile_modTile]
    by_cases hna : a = n
    · subst hna
      by_cases hnl : a ∈ l <;> simp [hnl, hf]
    · by_cases hnl : n ∈ l <;> simp [hna, Ne.symm hna, hnl]

/-! ## The streams of a unit -/

/-- Opening streams adds streams under the next numbers, and changes none there was. -/
def State.OpensStreams (s t : State) : Prop :=
  ∃ streams next, t = { s with streams := streams, nextId := next } ∧ s.nextId ≤ next ∧ ∀ k, k < s.nextId → streams.find k = s.strm k

theorem State.OpensStreams.refl (s : State) : s.OpensStreams s := ⟨_, _, rfl, Nat.le_refl _, fun _ _ => rfl⟩

theorem State.OpensStreams.add {s t : State} (h : s.OpensStreams t) (x : Strm) :
    s.OpensStreams (let (id, t) := t.addStrm x; t.tryOpen id) := by
  obtain ⟨streams, next, rfl, hnext, hkeep⟩ := h
  obtain ⟨y, opened, -, heq, -, hother⟩ := State.tryOpen_eq
    (s := (State.addStrm { s with streams := streams, nextId := next } x).2) (k := next) (x := x) (Tab.find_put_self _ _ _)
  refine ⟨opened, next + 1, heq, by omega, fun k hk => ?_⟩
  rw [hother k (Nat.ne_of_lt (Nat.lt_of_lt_of_le hk hnext))]
  exact (Tab.find_put_ne _ _ (Nat.ne_of_gt (Nat.lt_of_lt_of_le hk hnext))).trans (hkeep k hk)

theorem State.openFeeds_opens (s : State) (ctx rows : Nat) (tiles : List Nat) : s.OpensStreams (s.openFeeds ctx rows tiles) := by
  unfold State.openFeeds
  split
  · exact eachDo_induction (P := s.OpensStreams) _ (.refl s) fun p _ t ht => ht.add _
  · exact .refl s

/-- Abandoning a stream changes none but it, gives none a descriptor, and changes no memory where it has no buffer. -/
theorem State.abandonStrm_keeps (s : State) (k : Nat) : (∀ i, i ≠ k → (s.abandonStrm k).strm i = s.strm i) ∧
    (∀ x, (s.abandonStrm k).strm k = some x → ∃ y, s.strm k = some y ∧ x.desc = y.desc) ∧
    ((∀ x, s.strm k = some x → x.desc = []) → (s.abandonStrm k).mem = s.mem) := by
  unfold State.abandonStrm
  split
  case h_1 x hx =>
    have hdel : ∀ t : State, t.streams = s.streams → (∀ i, i ≠ k → (t.delStrm k).strm i = s.strm i) ∧
        ∀ y, (t.delStrm k).strm k = some y → ∃ z, s.strm k = some z ∧ y.desc = z.desc := by
      intro t ht
      simp only [State.strm, State.delStrm, ht, Tab.find_del]
      exact ⟨fun i hi => by simp [Ne.symm hi], fun y hy => by simp at hy⟩
    split
    · refine ⟨fun i hi => by simp [State.strm, State.modStrm, Tab.find_modify, Ne.symm hi], fun y hy => ⟨x, hx, ?_⟩, fun _ => rfl⟩
      have hfind : s.streams.find k = some x := hx
      simp only [State.strm, State.modStrm, Tab.find_modify, hfind, if_true, Option.map_some, Option.some.injEq] at hy
      rw [← hy]
    · split
      · exact ⟨(hdel s rfl).1, (hdel s rfl).2, fun _ => rfl⟩
      · have hzero : (s.zeroBuffer x.desc).streams = s.streams := by
          unfold State.zeroBuffer
          split <;> rfl
        refine ⟨(hdel _ hzero).1, (hdel _ hzero).2, fun h => ?_⟩
        rw [h x hx, show s.zeroBuffer [] = s from if_neg (by simp)]
        rfl
  case h_2 h => exact ⟨fun _ _ => rfl, fun x hx => ⟨x, hx, rfl⟩, fun _ => rfl⟩

/-- The streams a walk means are those that meet its test. -/
theorem State.mem_streamsFor {s : State} {p : Strm → Bool} (hwf : s.streams.wf) {k : Nat} (hk : k ∈ s.streamsFor p) :
    ∃ x, (k, x) ∈ s.streams ∧ s.strm k = some x ∧ p x = true := by
  obtain ⟨⟨i, x⟩, hx, rfl⟩ := List.mem_map.mp hk
  obtain ⟨hin, hp⟩ := List.mem_filter.mp hx
  exact ⟨x, hin, Tab.find_of_mem hwf hin, hp⟩

/-- A stream the walk does not mean stays, and memory stays where no stream it means has a buffer. -/
theorem State.abandonAll_keeps {s : State} {p : Strm → Bool} (hwf : s.streams.wf) :
    (∀ k x, s.strm k = some x → p x = false → (s.abandonAll p).strm k = some x) ∧
      ((∀ q ∈ s.streams, p q.2 = true → q.2.desc = []) → (s.abandonAll p).mem = s.mem) := by
  refine ⟨fun k x hx hp => ?_, fun hd => ?_⟩
  · refine eachDo_induction (P := fun t => t.strm k = some x) _ hx fun i hi t ht => ?_
    obtain ⟨y, -, hy, hpy⟩ := State.mem_streamsFor hwf hi
    refine ((t.abandonStrm_keeps i).1 k ?_).trans ht
    rintro rfl
    rw [Option.some.inj (hx.symm.trans hy), hpy] at hp
    cases hp
  · refine (eachDo_induction (P := fun t => t.mem = s.mem ∧ ∀ k x, t.strm k = some x → ∃ y, s.strm k = some y ∧ x.desc = y.desc) _
      ⟨rfl, fun k x hx => ⟨x, hx, rfl⟩⟩ fun i hi t ⟨hmem, hdesc⟩ => ?_).1
    obtain ⟨y, hin, hy, hpy⟩ := State.mem_streamsFor hwf hi
    obtain ⟨hother, hown, hzero⟩ := t.abandonStrm_keeps i
    refine ⟨(hzero fun x hx => ?_).trans hmem, fun k x hx => ?_⟩
    · obtain ⟨z, hz, hxz⟩ := hdesc i x hx
      rw [hxz, ← Option.some.inj (hy.symm.trans hz)]
      exact hd _ hin hpy
    · by_cases hk : k = i
      · subst hk
        obtain ⟨z, hz, hxz⟩ := hown x hx
        obtain ⟨w, hw, hzw⟩ := hdesc k z hz
        exact ⟨w, hw, hxz.trans hzw⟩
      · exact hdesc k x (hother k hk ▸ hx)

/-! ## Contexts as they count -/

/-- What a tenant counts changes the counters of its context, and may raise an event. -/
theorem State.countTenant_eq {s : State} {ctx : Nat} {c : Ctx} (hc : s.ctx ctx = some c) (place n : Nat) : ∃ k sessions,
    s.countTenant ctx place n = { s with ctxs := s.ctxs.put ctx { c with counters := k }, sessions := sessions } := by
  rw [State.countTenant, hc]
  dsimp only
  split
  · exact ⟨_, _, rfl⟩
  · exact ⟨_, s.sessions, rfl⟩

/-! ## UNIT_START (R280) -/

/-- The context of a unit that starts. -/
def State.startedCtx (s : State) (c : Ctx) (w : Work) : Ctx :=
  { (c.noteStart w).countUnit with running := some ⟨s.runningWork w, s.runTiles c⟩ }

/-- A unit that starts takes its tiles, and then its feeds open. -/
theorem exec_unitStart {s : State} {ctx : Nat} {c : Ctx} {w : Work} (hc : s.ctx ctx = some c) (hw : s.nextWork ctx c = some w)
    (hheld : s.allHeld ctx (s.runTiles c) = true) (hmode : s.power.mode = .active) (hup : s.fw.offline = false) :
    ∃ u, exec (.unitStart ctx) s = .next (u.beginWork ctx w).makeStarts.settle ∧
      State.OpensStreams (eachDo (s.runTiles c) (fun n s => s.enterTile n ctx) (s.setCtx ctx (s.startedCtx c w))) u := by
  have hnext : ∀ t : State, started (.next t) = .next t.makeStarts.settle := fun _ => rfl
  rw [exec, execUnitStart, hc]
  dsimp only
  rw [hw]
  dsimp only
  rw [if_neg (by simp [hmode, hup, hheld]), hnext, State.modCtx_eq_setCtx hc]
  refine ⟨_, rfl, ?_⟩
  split
  · exact State.openFeeds_opens _ _ _ _
  · exact .refl _

/-- A context that notes the start of a unit keeps its state, its share and its settings. -/
theorem Ctx.noteStart_keeps (c : Ctx) (w : Work) :
    (c.noteStart w).countUnit.st = c.st ∧ (c.noteStart w).countUnit.v = c.v ∧ (c.noteStart w).countUnit.settings = c.settings := by
  have hnote : (c.noteStart w).st = c.st ∧ (c.noteStart w).v = c.v ∧ (c.noteStart w).settings = c.settings := by
    cases w <;> exact ⟨rfl, rfl, rfl⟩
  rw [Ctx.countUnit]
  split
  · exact hnote
  · exact hnote

/-! ## Tiles that come to a context (R281) -/

/-- A tile that runs, or could, for a context it is held for has come to it. -/
def State.Come (s : State) (n ctx : Nat) : Prop :=
  ∀ k, s.tiles.find n = some k → k.held = some ctx → k.waking = false → k.power ≠ .off → k.lastCtx = some ctx

/-- A tile that changes its context is the one asked for, and of it no more than its last context and what it held. -/
theorem State.changeHeld_tiles (s : State) (m : Nat) :
    (s.changeHeld m).tiles = s.tiles ∨ ∃ ctx, (s.tile m).held = some ctx ∧ (s.changeHeld m).tiles = s.tiles.put m { s.tile m with
      lastCtx := some ctx, loaded := [], marver := [], rounding := List.replicate 32 0, deriv := List.replicate 32 0 } := by
  unfold State.changeHeld
  split
  case h_1 ctx hctx =>
    split
    · exact .inl rfl
    · unfold State.changeCtx
      split
      · exact .inl rfl
      · exact .inr ⟨ctx, hctx, rfl⟩
  case h_2 => exact .inl rfl

/-- A change of a tile undoes no other's, and makes its own. -/
theorem State.Come.changeHeld {s : State} {n ctx : Nat} (m : Nat) (h : s.Come n ctx) : (s.changeHeld m).Come n ctx := by
  rcases s.changeHeld_tiles m with htiles | ⟨x, hx, htiles⟩
  · rw [State.Come, htiles]
    exact h
  · rw [State.Come, htiles]
    intro k hk hheld hwake hpower
    by_cases hm : m = n
    · subst hm
      rw [Tab.find_put_self] at hk
      obtain rfl := Option.some.inj hk
      exact hx.symm.trans hheld
    · rw [Tab.find_put_ne _ _ hm] at hk
      exact h k hk hheld hwake hpower

theorem State.come_changeHeld (s : State) (n ctx : Nat) : (s.changeHeld n).Come n ctx := by
  intro k hk hheld hwake hpower
  have htile : ∀ {k'}, s.tiles.find n = some k' → s.tile n = k' := fun h => by simp [State.tile, Tab.getOr, h]
  unfold State.changeHeld at hk
  split at hk
  case h_1 x hx =>
    split at hk
    case isTrue hw =>
      rw [htile hk, hwake] at hw
      cases hw
    case isFalse =>
      unfold State.changeCtx at hk
      split at hk
      case isTrue hl =>
        rw [htile hk] at hl hx
        exact hl.trans (hx.symm.trans hheld)
      case isFalse =>
        obtain rfl := Option.some.inj ((Tab.find_put_self _ _ _).symm.trans hk)
        exact hx.symm.trans hheld
  case h_2 hx =>
    rw [htile hk, hheld] at hx
    cases hx

/-- A tile that is held and awake has come to the context it is held for. -/
theorem State.holdTiles_comes {s : State} {n ctx : Nat} {k : Tile} (hk : s.holdTiles.tiles.find n = some k)
    (hheld : k.held = some ctx) (hwake : k.waking = false) (hpower : k.power ≠ .off) : k.lastCtx = some ctx := by
  revert k
  show s.holdTiles.Come n ctx
  unfold State.holdTiles
  extract_lets ready busy u
  by_cases hn : n ∈ (u.tiles.keep (fun _ t => t.held.isSome && decide (t.lastCtx ≠ t.held) && !t.waking && decide (t.power ≠ .off))).keys
  · exact eachDo_forall (Q := fun n t => t.Come n ctx) (fun a t => State.come_changeHeld t a ctx) (fun a b t ht => ht.changeHeld b) n hn
  · refine eachDo_induction (P := fun t => t.Come n ctx) _ (fun k hk hheld hwake hpower => ?_) fun a _ t ht => ht.changeHeld a
    by_contra hlast
    refine hn (List.mem_map.mpr ⟨(n, k), List.mem_filter.mpr ⟨Tab.mem_of_find hk, ?_⟩, rfl⟩)
    simp [hheld, hwake, hpower, hlast]

/-! ## UNIT_END (R281) -/

/-- The streams that end with a unit of a context: the feeds of its tiles, and the answers it awaited. -/
def feedsOf (ctx : Nat) (x : Strm) : Bool := decide (x.ctx = ctx) && (match x.use with | .feed _ => true | .answers => true | _ => false)

theorem feedsOf_iff {ctx : Nat} {x : Strm} : feedsOf ctx x = true ↔ x.ctx = ctx ∧ (x.use = .answers ∨ ∃ n, x.use = .feed n) := by
  unfold feedsOf
  cases x.use <;> simp

/-- The charge of a unit changes the turn and the counters of its context, and may raise an event. -/
theorem State.charge_eq {s : State} {ctx : Nat} {c : Ctx} (hc : s.ctx ctx = some c) (n g : Nat) : ∃ k sessions,
    s.charge ctx n g = { s with
      ctxs := s.ctxs.put ctx { c with v := (c.v + n * g * 65536 / c.settings.weight) % 2 ^ 64, counters := k }, sessions := sessions } := by
  rw [State.charge, State.modCtx_eq_setCtx hc]
  obtain ⟨k, sessions, h⟩ := State.countTenant_eq (s := s.setCtx ctx { c with v := (c.v + n * g * 65536 / c.settings.weight) % 2 ^ 64 })
    (Tab.find_put_self _ _ _) tTileCc (n * g)
  refine ⟨k, sessions, h.trans ?_⟩
  simp only [State.setCtx, Tab.put_put]

theorem exec_unitEnd {s : State} {ctx cycles : Nat} {c : Ctx} {r : Running} (hc : s.ctx ctx = some c) (hr : c.running = some r)
    (hover : s.unitOver c r.work r.tiles = true) :
    exec (.unitEnd ctx cycles) s = .next (State.endWork (eachDo r.tiles (fun n s => s.leaveTile n)
      (((s.charge ctx cycles r.tiles.length).endFeeds ctx).modCtx ctx (fun c => { c with
        running := none, stash := c.stash.filter (fun e => decide (e.place = .spilled)) }))) ctx r.work r.tiles c.stash).settle := by
  rw [exec, execUnitEnd, hc]
  dsimp only
  rw [hr]
  dsimp only
  rw [if_neg (by simp [hover])]
  rfl

/-- Settles O42. -/
theorem unitsStartAndEnd : Obligations.units_start_and_end := by
  refine ⟨fun s ctx c w hc hw => ⟨fun hheld => ?_, fun hheld hmode hup => ?_⟩, fun s n ctx k => ⟨fun hwf hk hheld hwake hpower => ?_,
    fun hk hlast => ?_⟩, fun s ctx cycles c r hc hr => ⟨fun hover => ?_, fun hover => ?_⟩⟩
  · rw [exec, execUnitStart, hc]
    dsimp only
    rw [hw]
    simp [hheld]
  · obtain ⟨hst, hv, hset⟩ := c.noteStart_keeps w
    obtain ⟨⟨tiles, htiles⟩, htile⟩ := State.eachDo_modTile (s := s.setCtx ctx (s.startedCtx c w)) (g := fun n s => s.enterTile n ctx) 
      (f := fun t => { t with
        held := some ctx, power := if t.waking then t.power else .run
        microcode := match s.fw.running with | some i => i.microcodeDigest | none => [] })
      (fun t => by cases t.waking <;> rfl) (fun n t ht => by rw [State.enterTile, ht]; rfl) (s.runTiles c)
    obtain ⟨u, hexec, hopens⟩ := exec_unitStart hc hw hheld hmode hup
    rw [htiles] at hopens htile
    obtain ⟨streams, next, rfl, -, hkeep⟩ := hopens
    refine ⟨_, s.startedCtx c w, hexec, Tab.find_put_self _ _ _, rfl, hst, hv, hset, fun k hk => Tab.find_put_ne _ _ (Ne.symm hk),
      fun n hn => ?_, fun n hn => ?_, hkeep, rfl⟩
    · have h := htile n
      rw [if_pos hn] at h
      exact ⟨(congrArg Tile.held h).trans rfl, fun hw =>
        (congrArg Tile.power h).trans (if_neg (by simpa [State.tile, State.setCtx] using hw))⟩
    · exact (htile n).trans (if_neg hn)
  · exact State.holdTiles_comes hk hheld hwake hpower
  · have htile : s.tile n = k := by simp [State.tile, Tab.getOr, hk]
    have hchange : s.changeCtx n ctx = State.modTile
        { s with mem := zeroRange s.mem (tileAddr n (tileBytes - s.stashArea n)) (s.stashArea n) } n (fun t => { t with
          lastCtx := some ctx, loaded := [], marver := [], rounding := List.replicate 32 0, deriv := List.replicate 32 0 }) :=
      if_neg (by rw [htile]; exact hlast)
    refine ⟨_, hchange, ?_, fun m hm => Tab.find_put_ne _ _ (Ne.symm hm), fun a => readByte_zeroRange _ _ _ _, rfl⟩
    rw [← htile]
    exact Tab.find_put_self _ _ _
  · rw [exec, execUnitEnd, hc]
    dsimp only
    rw [hr]
    simp [hover]
  · have hexec := exec_unitEnd (cycles := cycles) hc hr hover
    obtain ⟨k, sessions, hcharge⟩ := State.charge_eq hc cycles r.tiles.length
    rw [hcharge] at hexec
    generalize hv : (c.v + cycles * r.tiles.length * 65536 / c.settings.weight) % 2 ^ 64 = v at hexec ⊢
    let u1 : State := { s with ctxs := s.ctxs.put ctx { c with v := v, counters := k }, sessions := sessions }
    obtain ⟨streams, mem, hfeeds⟩ := u1.abandonAll_eq (feedsOf ctx)
    have hstrm := u1.abandonAll_keeps (p := feedsOf ctx)
    rw [hfeeds] at hstrm
    have hended : u1.endFeeds ctx = { u1 with streams := streams, mem := mem } := hfeeds
    have hctx : State.ctx { u1 with streams := streams, mem := mem } ctx = some { c with v := v, counters := k } := Tab.find_put_self _ _ _
    rw [hended, State.modCtx_eq_setCtx hctx] at hexec
    obtain ⟨⟨tiles, htiles⟩, htile⟩ := State.eachDo_modTile (g := fun n s => s.leaveTile n)
      (s := State.setCtx { u1 with streams := streams, mem := mem } ctx { c with
        v := v, counters := k, running := none, stash := c.stash.filter (fun e => decide (e.place = .spilled)) })
      (f := fun t => { t with held := none, power := if t.waking then t.power else .idle })
      (fun t => by cases t.waking <;> rfl) (fun n t _ => rfl) r.tiles
    rw [htiles] at hexec htile
    refine ⟨_, { c with v := v, counters := k, running := none, stash := c.stash.filter (fun e => decide (e.place = .spilled)) }, hexec,
      Tab.find_put_self _ _ _, rfl, rfl, rfl, rfl, fun i hi => ?_, fun n hn => ?_, fun n hn => (htile n).trans (if_neg hn),
      fun hwf i x hx hother => (hstrm hwf).1 i x hx ?_, fun hwf hdesc => (hstrm hwf).2 fun q hq hp => ?_, rfl⟩
    · exact (Tab.find_put_ne _ _ (Ne.symm hi)).trans (Tab.find_put_ne _ _ (Ne.symm hi))
    · have h := htile n
      rw [if_pos hn] at h
      exact ⟨(congrArg Tile.held h).trans rfl, fun hw =>
        (congrArg Tile.power h).trans (if_neg (by simpa [State.tile, State.setCtx, u1] using hw))⟩
    · refine Bool.eq_false_iff.mpr fun h => ?_
      obtain ⟨hown, huse⟩ := feedsOf_iff.mp h
      rcases hother with hother | ⟨hanswers, hfeed⟩
      · exact hother hown
      · exact huse.elim hanswers fun ⟨n, hn⟩ => hfeed n hn
    · exact hdesc q hq (feedsOf_iff.mp hp).2

end Sys2Proof.Machine
end

section
/-! PROOFS. The stash of a unit, and the naps of tiles. -/

namespace Sys2Proof.Machine

/-! ## What fits on tile (R104, R105) -/

/-- What the sets on tile take is no more than what they take with those that are being spilled. -/
theorem tileShare_le (l : List StashEntry) : tileShare l false ≤ tileShare l true := by
  induction l with
  | nil => exact Nat.le_refl _
  | cons e l ih =>
    simp only [tileShare, List.map_cons, List.sum_cons] at ih ⊢
    refine Nat.add_le_add ?_ ih
    split
    · exact Nat.le_refl _
    · split
      case isTrue h => rw [if_pos (by simpa using Or.inl (by simpa using h))]
      case isFalse => exact Nat.zero_le _

/-- A set that fits spills none. -/
theorem spillUntil_fits {room area share used fuel : Nat} {l : List StashEntry} (h : tileShare l true + share ≤ room) :
    spillUntil room area share (fuel + 1) used l = (l, true) := by
  rw [spillUntil, if_pos (Nat.le_trans (Nat.add_le_add_right (tileShare_le l) share) h)]

/-- No layer is gone where the sets are those there were. -/
theorem lowestGone_self (l : List StashEntry) (start : Option Nat) : lowestGone l l start = start := by
  have hnone : l.filter (fun e => l.all (fun x => decide (x.size.layer ≠ e.size.layer))) = [] := by
    rw [List.filter_eq_nil_iff]
    intro e he hall
    simpa using List.all_eq_true.mp hall e he
  rw [lowestGone, hnone]
  rfl

/-- A change that changes no step leaves the steps. -/
theorem State.modStep_id {s : State} {v n : Nat} {f : TStep → TStep} (h : ∀ t, f t = t) : s.modStep v n f = s := by
  have : (fun t : TStep => if t.variant = v && t.number = n then f t else t) = id := funext fun t => by simp [h]
  rw [State.modStep, this, List.map_id]

/-- A set of the running micro-batch that may be held: where its home has no room the policy decides, and else sets are spilled until it
fits. -/
theorem exec_layerForwardEnd {s : State} {ctx : Nat} {c : Ctx} {t : TStep} {i : Nat} {z : StashSize} (hc : s.ctx ctx = some c)
    (ht : s.runningStep ctx = some (t, i)) (hz : z.microBatch = i) (hend : t.ending = none) (hre : ∀ r ∈ t.recomputed, r.1 ≠ i)
    (hback : t.backAt = none) (hstash : ∀ e ∈ c.stash, e.size.layer < z.layer ∧ e.place ≠ .waiting) (hlayers : z.layer < s.layers)
    (hlowest : s.lowestLayer t ≤ z.layer) (hpast : s.forwardPast c z.layer = true) :
    exec (.layerForwardEnd ctx z) s =
      if !z.homesOk || t.homeFull.contains (i, z.layer) then .next (s.exhausted ctx c t i z (s.layerRows t i z.layer))
      else
        let r := spillUntil (t.regionBytes - t.stashWork) t.spillBytes z.share (c.stash.length + 1) (s.spillUsed ctx c.stash) c.stash
        let u := s.modStep t.variant t.number (fun t =>
          { t with spillPeak := max t.spillPeak (if r.1.any (fun e => decide (e.place = .spilling)) then s.spillUsed ctx r.1 else 0) })
        if r.2 then
          .next (u.setCtx ctx { c with stash := r.1 ++ [⟨z, if tileShare r.1 true + z.share ≤ t.regionBytes - t.stashWork
            then StashPlace.onTile else .waiting, s.layerRows t i z.layer⟩] })
        else .next (u.exhausted ctx { c with stash := r.1 } t i z (s.layerRows t i z.layer)) := by
  rw [exec, execLayerForwardEnd, hc, ht]
  dsimp only
  rw [if_neg]
  have hany : c.stash.any (fun e => decide (z.layer ≤ e.size.layer) || decide (e.place = .waiting)) = false :=
    List.any_eq_false.mpr fun e he => by simpa using hstash e he
  have hrec : t.recomputed.any (fun r => decide (r.1 = i)) = false := List.any_eq_false.mpr fun r hr => by simpa using hre r hr
  simp only [hz, hend, hany, hrec, hback, hpast, Nat.not_le.mpr hlayers, Nat.not_lt.mpr hlowest]
  simp

/-- Settles O43. -/
theorem stashAndNaps : Obligations.stash_and_naps := by
  refine ⟨fun s ctx c t i hc ht => ⟨fun z hz hend hre hback hstash hlayers hlowest hpast => ⟨fun hfull => ?_, fun hhomes hnot hfit => ?_⟩,
    fun z hz => ?_, fun b l => ?_, fun e he hplace hover hfit => ?_, fun hover => ?_⟩,
    fun s n t ht => ⟨fun hv hpower hqueue hheld hwake hruns => ?_, fun hno => ?_, fun hpower hwake => ?_, fun hwake => ?_⟩⟩
  · rw [exec_layerForwardEnd hc ht hz hend hre hback hstash hlayers hlowest hpast, if_pos (by simpa using hfull)]
  · rw [exec_layerForwardEnd hc ht hz hend hre hback hstash hlayers hlowest hpast, if_neg (by rw [hhomes, hnot]; decide), spillUntil_fits hfit]
    dsimp only
    rw [if_pos rfl, if_pos hfit]
    exact ⟨_, rfl, Tab.find_put_self _ _ _, fun k hk => Tab.find_put_ne _ _ (Ne.symm hk), rfl⟩
  · rw [exec, execLayerForwardEnd, hc, ht]
    rcases hz with h | h <;> simp [h]
  · rw [exec, execSpillWriteComplete, hc, ht]
    simp [and_assoc]
  · have hfilter : c.stash.filter (fun e => decide (e.place = .spilled)) = [e] := by simp [he, hplace]
    have hfree : freeRead (t.regionBytes - t.stashWork) e.size.share e.size.layer (c.stash.length + 1) c.stash = some c.stash := by
      rw [freeRead, if_pos (by simpa [he, tileShare, hplace] using hfit)]
    rw [exec, execStashBringBack, hc, ht]
    simp only [hfilter, List.foldl_nil, hfree]
    rw [if_neg (by simp [hover, he]), State.modStep_id (fun y => by rw [lowestGone_self]), he]
    simp [placeLayer]
  · rw [exec, execStashBringBack, hc, ht]
    dsimp only
    split
    · rfl
    · simp [hover]
  · subst ht
    rw [exec, execTileNapEntry]
    rw [if_neg (by simp [hv, hpower, hqueue, hheld, hwake, hruns])]
    rfl
  · subst ht
    rw [exec, execTileNapEntry]
    rw [if_pos]
    rcases hno with h | h | h | h <;> simp [h]
  · subst ht
    rw [exec, execTileWakeComplete]
    rw [if_pos (by simp [hpower, hwake])]
    simp [State.modTile]
  · subst ht
    rw [exec, execTileWakeComplete]
    simp [hwake]

end Sys2Proof.Machine
end

section
/-! PROOFS. Bundles that arrive, bundles at a home, and the moves of experts. -/

namespace Sys2Proof.Machine

/-! ## Bundles that arrive (R218, R220, R223, R224) -/

/-- A bundle whose pieces are delivered is used. -/
theorem State.arriveBundle_taken {s u : State} {p : Nat} {frames : List Frame} {b : Bundle} (hne : frames ≠ [])
    (hf : ∀ f ∈ frames, f.msgType = 2 ∧ f.bcast = false ∧ f.dst = s.pos ∧ f.payload = .bundle b)
    (ht : State.takeAll p frames s = (true, u)) (use : State → Res) : s.arriveBundle b.kind p frames b use = use u := by
  have hall : frames.all (fun f => decide (f.msgType = 2) && !f.bcast && decide (f.dst = s.pos) && decide (f.payload = .bundle b)) = true :=
    List.all_eq_true.mpr fun f h => by
      obtain ⟨htype, hbcast, hdst, hpay⟩ := hf f h
      simp [htype, hbcast, hdst, hpay]
  rw [State.arriveBundle, if_neg (by simp [hne, hall]), ht]
  rfl

/-- A bundle of another kind, or none of whose pieces is here, is not used. -/
theorem State.arriveBundle_other {s : State} {k p : Nat} {frames : List Frame} {b : Bundle} (h : b.kind ≠ k ∨ frames = [])
    (use : State → Res) : s.arriveBundle k p frames b use = .next s := by
  rw [State.arriveBundle, if_pos (by rcases h with h | h <;> simp [h])]

/-- The one row that awaits an answer takes it. -/
theorem State.takeBack_row {u : State} {b : Bundle} {c : Ctx} {q : Parison} {tiles : List Nat} {r : Row} (hc : u.ctx b.ctx = some c)
    (hrun : c.running = some ⟨.parison q, tiles⟩) (hq : q.id = b.parison) (hinc : c.incarnation = b.incarnation) (hkind : b.kind = 2)
    (hstep : b.step = 0) (hrows : q.rows = [r]) (hlayer : r.layer = b.layer + 1) (hawait : r.awaiting = [b.expert]) :
    (u.takeBack b).ctx b.ctx = some { c with running := some ⟨.parison { q with
      rows := [{ r with awaiting := [], answers := r.answers ++ [(b.expert, b.payload.take u.dModel)] }] }, tiles⟩ } := by
  have hpar : c.runningParison = some (q, tiles) := by rw [Ctx.runningParison, hrun]
  have hfind : u.ctxs.find b.ctx = some c := hc
  rw [State.takeBack, hc]
  dsimp only
  rw [hpar]
  dsimp only
  rw [if_pos (by simp [hkind, hq, hinc, hstep])]
  simp [State.modParison, State.modCtx, State.ctx, Tab.find_modify, hfind, hrun, hrows, Parison.awaitingRows, hlayer, hawait, takeAnswers]

/-- The answer to a bundle of the micro-batch that runs is the micro-batch's. -/
theorem State.takeBack_travel {u : State} {b : Bundle} {c : Ctx} {w : Work} {tiles : List Nat} (hc : u.ctx b.ctx = some c)
    (hrun : c.running = some ⟨w, tiles⟩) (hw : ∀ q, w ≠ .parison q) (hinc : c.incarnation = b.incarnation) :
    u.takeBack b = u.setCtx b.ctx { c with travel := c.travel.take b } := by
  have hpar : c.runningParison = none := by
    rw [Ctx.runningParison, hrun]
    split
    case h_1 q _ h => exact absurd (by cases h; rfl) (hw q)
    case h_2 => rfl
  rw [State.takeBack, hc]
  dsimp only
  rw [hpar]
  dsimp only
  rw [if_pos (by simp [hinc, hrun])]

/-! ## Bundles at a home (R217) -/

/-- A tile that a bundle leaves reads zero and idles. -/
def State.clearTile (n : Nat) (s : State) : State :=
  { s with mem := zeroRange s.mem (tileAddr n 0) tileBytes }.modTile n (fun t => { t with power := .idle })

/-- Where tiles are cleared, they read zero and idle, and nothing else changes. -/
theorem State.eachDo_clearTile (l : List Nat) (s : State) :
    (∃ mem tiles, eachDo l State.clearTile s = { s with mem := mem, tiles := tiles }) ∧
    (∀ n, (eachDo l State.clearTile s).tile n = if n ∈ l then { s.tile n with power := .idle } else s.tile n) ∧
    (∀ a, (∃ n ∈ l, tileAddr n 0 ≤ a ∧ a < tileAddr n 0 + tileBytes) ∨ readByte s.mem a = 0 →
      readByte (eachDo l State.clearTile s).mem a = 0) ∧
    (∀ a, (∀ n ∈ l, a < tileAddr n 0 ∨ tileAddr n 0 + tileBytes ≤ a) → readByte (eachDo l State.clearTile s).mem a = readByte s.mem a) := by
  induction l generalizing s with
  | nil => exact ⟨⟨_, _, rfl⟩, fun n => by simp [eachDo], fun a ha => by simpa [eachDo] using ha, fun a _ => rfl⟩
  | cons k l ih =>
    obtain ⟨⟨mem, tiles, heq⟩, htile, hzero, hkeep⟩ := ih (s.clearTile k)
    have hstep : eachDo (k :: l) State.clearTile s = eachDo l State.clearTile (s.clearTile k) := rfl
    have hmem : ∀ a, readByte (s.clearTile k).mem a = if tileAddr k 0 ≤ a ∧ a < tileAddr k 0 + tileBytes then 0 else readByte s.mem a :=
      fun a => readByte_zeroRange _ _ _ _
    rw [hstep]
    refine ⟨⟨mem, tiles, heq⟩, fun n => ?_, fun a ha => hzero a ?_, fun a ha => (hkeep a fun n hn => ha n (by simp [hn])).trans ?_⟩
    · have hown : (s.clearTile k).tile n = if k = n then { s.tile n with power := .idle } else s.tile n := State.tile_modTile _ _ _ _
      rw [htile, hown]
      by_cases hkn : k = n
      · subst hkn
        by_cases hkl : k ∈ l <;> simp [hkl]
      · by_cases hnl : n ∈ l <;> simp [hkn, Ne.symm hkn, hnl]
    · rw [hmem]
      rcases ha with ⟨n, hn, ha⟩ | ha
      · rcases List.mem_cons.mp hn with rfl | hn
        · exact .inr (if_pos ha)
        · exact .inl ⟨n, hn, ha⟩
      · exact .inr (by rw [ha, ite_self])
    · rw [hmem, if_neg]
      have := ha k (by simp)
      omega

theorem State.releaseQuad_eq (s : State) (q : Nat) : s.releaseQuad q = eachDo (s.quadTiles q) State.clearTile s := rfl

/-! ## The table of experts (R223, R447) -/

/-- What moves one expert makes of the table. -/
theorem State.newTable_one {s : State} {e home : Nat} (hm : s.ring.moving = [(e, home)]) (epoch : Nat) :
    s.newTable epoch = s.ring.experts.modify e (fun x => s.rehome e x home epoch) := by
  rw [State.newTable, hm]
  rfl

theorem State.mem_homedIn {s : State} {t : Tab ExpertEntry} (h : t.wf) {k : Nat} :
    k ∈ s.homedIn t ↔ ∃ y, t.find k = some y ∧ y.kind = 2 ∧ y.home = s.pos := by
  simp only [State.homedIn, Tab.keys, Tab.keep, List.mem_map, List.mem_filter, Prod.exists]
  constructor
  · rintro ⟨i, y, ⟨hin, hy⟩, rfl⟩
    exact ⟨y, Tab.find_of_mem h hin, by simpa using hy⟩
  · rintro ⟨y, hy, hk⟩
    exact ⟨k, y, ⟨Tab.mem_of_find hy, by simpa using hk⟩, rfl⟩

/-- An expert that moves from or to another member's position is not new here. -/
theorem State.homedIn_away {s : State} {e home epoch : Nat} {x : ExpertEntry} (he : s.ring.experts.find e = some x)
    (hwf : s.ring.experts.wf) (h : home ≠ s.pos ∨ x.home = s.pos) :
    (s.homedIn (s.ring.experts.modify e (fun x => s.rehome e x home epoch))).filter
      (fun e => !(s.homedIn s.ring.experts).contains e) = [] := by
  rw [List.filter_eq_nil_iff]
  intro k hk hnew
  refine absurd ((State.mem_homedIn hwf).mpr ?_) (by simpa using hnew)
  obtain ⟨y, hy, hkind, hhome⟩ := (State.mem_homedIn (Tab.wf_modify hwf _ _)).mp hk
  rw [Tab.find_modify] at hy
  split at hy
  case isTrue hek =>
    subst hek
    rw [he] at hy
    obtain rfl := Option.some.inj hy
    refine ⟨x, he, ?_⟩
    change (s.rehome e x home epoch).kind = 2 at hkind
    change (s.rehome e x home epoch).home = s.pos at hhome
    by_cases hx : home = x.home
    · rw [State.rehome, if_pos hx] at hkind hhome
      exact ⟨hkind, hhome⟩
    · rw [State.rehome, if_neg hx] at hkind hhome
      exact ⟨hkind, h.resolve_left (fun hn => hn hhome)⟩
  case isFalse => exact ⟨y, hy, hkind, hhome⟩

/-- A routed expert that moves here is the one new here. -/
theorem State.homedIn_here {s : State} {e home epoch : Nat} {x : ExpertEntry} (he : s.ring.experts.find e = some x)
    (hwf : s.ring.experts.wf) (hhome : home = s.pos) (hx : x.home ≠ s.pos) (hkind : x.kind = 2) :
    (s.homedIn (s.ring.experts.modify e (fun x => s.rehome e x home epoch))).filter
      (fun e => !(s.homedIn s.ring.experts).contains e) = [e] := by
  have hold : e ∉ s.homedIn s.ring.experts := by
    rw [State.mem_homedIn hwf]
    rintro ⟨y, hy, -, hpos⟩
    rw [he] at hy
    obtain rfl := Option.some.inj hy
    exact hx hpos
  have hfind : (s.ring.experts.modify e (fun x => s.rehome e x home epoch)).find e = some (s.rehome e x home epoch) := by
    simp [Tab.find_modify, he]
  have hnew : (s.rehome e x home epoch).kind = 2 ∧ (s.rehome e x home epoch).home = s.pos := by
    rw [State.rehome, if_neg (by rw [hhome]; exact Ne.symm hx)]
    exact ⟨hkind, hhome⟩
  have hone : (s.ring.experts.modify e (fun x => s.rehome e x home epoch)).filter (fun q =>
      (!(s.homedIn s.ring.experts).contains q.1) && (decide (q.2.kind = 2) && decide (q.2.home = s.pos))) =
      [(e, s.rehome e x home epoch)] := by
    refine Tab.filter_eq_singleton (Tab.wf_modify hwf _ _) hfind (by simp [hold, hnew]) fun k w hk hw => ?_
    rw [Tab.find_modify, if_neg (Ne.symm hk)] at hw
    by_cases hin : k ∈ s.homedIn s.ring.experts
    · simp [hin]
    · have := fun h => hin ((State.mem_homedIn hwf).mpr ⟨w, hw, h⟩)
      simpa [hin] using this
  generalize s.homedIn s.ring.experts = old at hone ⊢
  rw [State.homedIn, Tab.keys, Tab.keep, List.filter_map, List.filter_filter]
  exact congrArg (List.map Prod.fst) hone

/-- A FWD_OUT or BWD_OUT whose pieces are delivered is received. -/
theorem exec_receives {s u : State} {p : Nat} {frames : List Frame} {b : Bundle} (hne : frames ≠ [])
    (hf : ∀ f ∈ frames, f.msgType = 2 ∧ f.bcast = false ∧ f.dst = s.pos ∧ f.payload = .bundle b)
    (ht : State.takeAll p frames s = (true, u)) (i : Instr)
    (hi : (i = .fwdOut p frames b ∧ b.kind = 1) ∨ (i = .bwdOut p frames b ∧ b.kind = 3)) : exec i s = .next (u.receiveBundle b) := by
  rcases hi with ⟨rfl, hk⟩ | ⟨rfl, hk⟩
  · rw [exec, execFwdOut, ← hk]
    exact State.arriveBundle_taken hne hf ht _
  · rw [exec, execBwdOut, ← hk]
    exact State.arriveBundle_taken hne hf ht _

/-- Settles O44. -/
theorem bundlesArriveAndRun : Obligations.bundles_arrive_and_run := by
  refine ⟨fun s u p frames b hne hf ht => ⟨fun i hi => ⟨fun hinc => ?_, fun hinc hhome => ?_, fun hinc hhome => ?_⟩, fun hk => ?_,
    fun c q tiles r hc hrun hq hinc hk hstep hrows hlayer hawait => State.takeBack_row hc hrun hq hinc hk hstep hrows hlayer hawait,
    fun hk => ?_, fun c w tiles y hc hrun hw hinc hsent hans => ⟨fun hk hl he hp hs hm => ?_, fun he => ?_⟩, fun hk hinc => ?_, fun hk => ?_, ?_⟩,
    fun s => ⟨fun q x rest hmode hup hb hx hq => ?_, fun hq => ?_, fun tag x q hfind hx => ?_, fun hm => ?_, fun e home x hm he => ?_⟩⟩
  · rw [exec_receives hne hf ht i hi, State.receiveBundle, if_pos hinc]
  · rw [exec_receives hne hf ht i hi, State.receiveBundle, if_neg (by simp [hinc]), if_neg (by simp [hhome])]
    rfl
  · rw [exec_receives hne hf ht i hi, State.receiveBundle, if_neg (by simp [hinc]), if_pos (by simp [hhome])]
  · rw [exec, execFwdBack, ← hk]
    exact State.arriveBundle_taken hne hf ht _
  · rw [exec, execBwdBack, ← hk]
    exact State.arriveBundle_taken hne hf ht _
  · rw [State.takeBack_travel hc hrun hw hinc, Travel.take, hsent]
    simp [hk, hl, he, hp, hs, hm, hans]
  · rw [State.takeBack_travel hc hrun hw hinc, Travel.take, hsent]
    have hnone : [y].find? (fun y => decide (y.kind + 1 = b.kind) && decide (y.layer = b.layer) && decide (y.expert = b.expert) &&
        decide (y.parison = b.parison) && decide (y.step = b.step) && decide (y.microBatch = b.microBatch)) = none := by simp [he]
    rw [hnone]
  · rw [exec, execBounce, ← hk]
    refine (State.arriveBundle_taken hne hf ht _).trans (if_pos hinc)
  · rw [exec, execFwdOut]
    exact State.arriveBundle_other (.inl hk) _
  · rw [exec, execFwdOut]
    exact State.arriveBundle_other (.inr rfl) _
  · have hsplit := State.eachDo_modTile (s := { s with bundles := runFirst q s.bundles }) (f := fun t => { t with power := .run, waking := false })
      (g := fun n s => s.modTile n (fun t => { t with power := .run, waking := false })) (fun _ => rfl) (fun _ _ _ => rfl) (s.quadTiles q)
    obtain ⟨⟨tiles, heq⟩, htile⟩ := hsplit
    have hexec : exec .bundleRun s = .next (eachDo (s.quadTiles q)
        (fun n s => s.modTile n (fun t => { t with power := .run, waking := false })) { s with bundles := runFirst q s.bundles }) := by
      rw [exec, execBundleRun, if_neg (by simp [hmode, hup, hb, hx]), hq]
    refine ⟨_, hexec, ?_, fun n hn => ?_, fun n hn => (htile n).trans (if_neg hn), ?_⟩
    · rw [heq, hb]
      simp [runFirst, hx]
    · rw [htile n, if_pos hn]
    · rw [heq]
  · rw [exec, execBundleRun, hq]
    simp [State.coolest]
  · have hexec : exec (.bundleRunEnd tag) s = .next
        ((eachDo (s.quadTiles q) State.clearTile { s with bundles := s.bundles.erase x }).finishBundle x.b) := by
      rw [exec, execBundleRunEnd, hfind]
      dsimp only
      rw [hx]
      rfl
    obtain ⟨⟨mem, tiles, heq⟩, htile, hzero, hkeep⟩ := State.eachDo_clearTile (s.quadTiles q) { s with bundles := s.bundles.erase x }
    refine ⟨_, hexec, by rw [heq], fun n hn => ⟨?_, fun a ha => ?_⟩, fun n hn => (htile n).trans (if_neg hn), hkeep, by rw [heq]⟩
    · rw [htile n, if_pos hn]
    · exact hzero _ (.inl ⟨n, hn, by simp only [tileAddr]; omega⟩)
  · rw [exec, execExpertReplacementDone, if_pos hm]
  · have hexec : exec .expertReplacementDone s = .next (State.settle (eachDo s.ctxs.keys (fun n s =>
        eachDo [e] (fun e s => eachDo (List.range s.layers) (fun l s => s.sendExpert n l e) s) s)
        (s.takeExpertTable ((s.ring.expertEpoch + 1) % 256) (s.newTable ((s.ring.expertEpoch + 1) % 256))))) := by
      rw [exec, execExpertReplacementDone, if_neg (by simp [hm]), hm]
      rfl
    rw [State.newTable_one hm] at hexec
    refine ⟨s.takeExpertTable ((s.ring.expertEpoch + 1) % 256)
      (s.ring.experts.modify e (fun x => s.rehome e x home ((s.ring.expertEpoch + 1) % 256))), rfl, rfl, ?_, fun hne => ⟨_, if_neg hne⟩,
      fun k hk => ?_, fun haway hwf => ?_, fun hhome hx hkind hwf => ?_, rfl, hexec⟩
    · simp [State.takeExpertTable, Tab.find_modify, he]
    · simp [State.takeExpertTable, Tab.find_modify, Ne.symm hk]
    · simp only [State.takeExpertTable, State.homedIn_away he hwf haway, List.length_nil, Nat.zero_mul]
      exact ⟨rfl, rfl⟩
    · simp only [State.takeExpertTable, State.homedIn_here he hwf hhome hx hkind, List.length_singleton, Nat.one_mul, and_self]

end Sys2Proof.Machine
end

section
/-! PROOFS. Windows and programs of a context. -/

namespace Sys2Proof.Machine

/-! ## Commands that change their own context -/

/-- A command of the gaffer whose work changes its context and ends with an answer. -/
theorem exec_ctx_answers {i : Instr} {c : Cmd} {n op st next : Nat} {ss : Session} {s : State} {p : List (Nat × Bytes)} {x : Ctx}
    {f : Ctx → Ctx} {body : Ticket → State → Res} (h : Takes (specOf op) c n ss s) (hc : Clear s ss) (hx : s.ctx c.ctx = some x)
    (hi : exec i s = gaffer op c body s)
    (hbody : body (ticketOf c op n ss.serial) (s.awaiting c op n) =
      .next ((State.modCtx { s.awaiting c op n with nextId := next } c.ctx f).answerWith (ticketOf c op n ss.serial) st p))
    (hop : (specOf op).op = op := by rfl) :
    ∃ t : State, exec i s = .next t ∧ t.ctx c.ctx = some (f x) ∧ (∀ k, k ≠ c.ctx → t.ctx k = s.ctx k) ∧
      SendsOnly (s.replyTo c op st p) s t ∧ t = { s with out := t.out, sessions := t.sessions, ctxs := t.ctxs, nextId := next } := by
  obtain ⟨t, ht, hsend, heq⟩ := exec_gaffer_answers h hc hi hbody rfl rfl rfl rfl rfl hop
  have hctxs : t.ctxs = s.ctxs.modify c.ctx f := by rw [heq]; rfl
  have hfind : s.ctxs.find c.ctx = some x := hx
  refine ⟨t, ht, by simp [State.ctx, hctxs, Tab.find_modify, hfind], fun k hk => by simp [State.ctx, hctxs, Tab.find_modify, Ne.symm hk],
    hsend, ?_⟩
  rw [hctxs, heq]
  rfl

/-- The pages of a window that are absent after a range of it is set. -/
theorem mem_absentAfter {absent : List Nat} {first pages limit k : Nat} {present : Bool} (hk : k < limit) :
    k ∈ absentAfter absent first pages limit present ↔ if first ≤ k ∧ k < first + pages then present = false else k ∈ absent := by
  have hrange : k ∈ (List.range (min pages (limit - first))).map (first + ·) ↔ first ≤ k ∧ k < first + pages := by
    simp only [List.mem_map, List.mem_range]
    constructor
    · rintro ⟨j, hj, rfl⟩
      omega
    · exact fun h => ⟨k - first, by omega, by omega⟩
  have hothers : k ∈ absent.filter (fun p => !(decide (first ≤ p) && decide (p < first + pages))) ↔
      k ∈ absent ∧ ¬(first ≤ k ∧ k < first + pages) := by
    simp only [List.mem_filter, Bool.not_eq_true', Bool.and_eq_false_iff, decide_eq_false_iff_not, not_and_or]
  unfold absentAfter
  cases present
  · simp only [Bool.false_eq_true, if_false, List.mem_append, hrange, hothers]
    by_cases h : first ≤ k ∧ k < first + pages <;> simp [h]
  · simp only [if_true, hothers]
    by_cases h : first ≤ k ∧ k < first + pages <;> simp [h]

/-- Settles O45. -/
theorem windowsAndPrograms : Obligations.windows_and_programs := by
  refine ⟨fun s c n ss x w hc hx h => ?_, fun s c n ss x k hc hx => ⟨fun p h hlen hk hknown => ⟨fun hruns => ?_, fun r hr hrk => ?_⟩,
    fun h => ⟨fun hload => ?_, fun hload => ?_⟩⟩⟩
  · have hx' : (s.awaiting c opMapWindow n).ctx c.ctx = some x := hx
    have hstr' : (s.awaiting c opMapWindow n).streamNames c.ctx w = s.streamNames c.ctx w := rfl
    refine ⟨fun a len hw ha hlen hown => ?_, fun r hw hr => ?_, fun r hr => ?_, fun a len r hw => ?_,
      fun first pages present r absent hw => ?_, fun hw hnames => ?_, fun hw hstr hprog => ?_⟩
    · have hown' : (s.awaiting c opMapWindow n).ownRange x a len true = true := hown
      obtain ⟨t, ht, hctx, hother, hsend, heq⟩ := exec_ctx_answers (i := .mapWindowInbound c w a len) (st := stOk)
        (p := [p32 0x81 (Config.rkey s.nextId % 2 ^ 32)]) (next := s.nextId + 1)
        (f := fun y => { y with windows := y.windows.put w (.inbound a len (Config.rkey s.nextId % 2 ^ 32)) }) h hc hx
        (show _ = execMapWindowInbound c w a len s from rfl) (by
          dsimp only
          rw [hx']
          dsimp only
          rw [if_neg (by simp [hw, ha, hlen, hown'])]
          rfl)
      exact ⟨t, _, ht, Nat.mod_lt _ (by decide), hctx, hother, hsend, heq⟩
    · obtain ⟨t, ht, hctx, hother, hsend, heq⟩ := exec_ctx_answers (i := .mapWindowOutbound c w r) (st := stOk) (p := []) (next := s.nextId)
        (f := fun y => { y with windows := y.windows.put w (.outbound r []) }) h hc hx
        (show _ = execMapWindowOutbound c w r s from rfl) (by
          dsimp only
          rw [hx']
          dsimp only
          rw [if_neg (by simp [hw, hr])]
          rfl)
      exact ⟨t, ht, hctx, hother, hsend, heq⟩
    · exact exec_gaffer_answers (u := s.awaiting c opMapWindow n) h hc (show _ = execMapWindowOutbound c w r s from rfl) (by
        rw [hx']
        dsimp only
        rw [if_pos (by simp [hr])]
        rfl) rfl rfl rfl rfl rfl
    · obtain ⟨r', hans, hr⟩ := answerWith_awaiting (op := opMapWindow) (st := stNotPermitted) (p := []) (u := s.awaiting c opMapWindow n)
        h hc rfl rfl rfl rfl rfl
      have hin : exec (.mapWindowInbound c w a len) s =
          .next ((s.awaiting c opMapWindow n).answerWith (ticketOf c opMapWindow n ss.serial) stNotPermitted []) := by
        rw [exec, execMapWindowInbound, gaffer_takes h, hx']
        dsimp only
        rw [if_pos (by simp [hw])]
        rfl
      have hout : exec (.mapWindowOutbound c w r) s =
          .next ((s.awaiting c opMapWindow n).answerWith (ticketOf c opMapWindow n ss.serial) stNotPermitted []) := by
        rw [exec, execMapWindowOutbound, gaffer_takes h, hx']
        dsimp only
        rw [if_pos (by simp [hw])]
        rfl
      rw [hans] at hin hout
      exact ⟨_, hin, hout, ⟨rfl, hr⟩, rfl⟩
    · obtain ⟨t, ht, hctx, hother, hsend, heq⟩ := exec_ctx_answers (i := .mapWindowPresent c w first pages present) (st := stOk) (p := [])
        (next := s.nextId) (f := fun y => { y with windows := y.windows.put w (.outbound r (absentAfter absent first pages r.pages present)) })
        h hc hx (show _ = execMapWindowPresent c w first pages present s from rfl) (by
          dsimp only
          rw [hx']
          dsimp only
          rw [hw]
          rfl)
      exact ⟨t, _, ht, hctx, hother, fun k hk => mem_absentAfter hk, hsend, heq⟩
    · exact exec_gaffer_answers (u := s.awaiting c opMapWindow n) h hc (show _ = execMapWindowUnmap c w s from rfl) (by
        rw [hx']
        dsimp only
        rw [if_neg (by simpa [Option.isSome_iff_ne_none] using hw), if_pos (by simpa [hstr'] using hnames)]
        rfl) rfl rfl rfl rfl rfl
    · obtain ⟨t, ht, hctx, hother, hsend, heq⟩ := exec_ctx_answers (i := .mapWindowUnmap c w) (st := stOk) (p := []) (next := s.nextId)
        (f := fun y => { y with windows := y.windows.del w }) h hc hx (show _ = execMapWindowUnmap c w s from rfl) (by
          rw [hx']
          dsimp only
          rw [if_neg (by simpa [Option.isSome_iff_ne_none] using hw), if_neg (by simp [hstr', hstr, hprog])]
          rfl)
      exact ⟨t, _, ht, hctx, rfl, by simp [Tab.find_del], fun k hk => by simp [Tab.find_del, Ne.symm hk], hother, hsend, heq⟩
  · have hx' : (s.awaiting c opLoadProgram n).ctx c.ctx = some x := hx
    obtain ⟨t, ht, hctx, hother, hsend, heq⟩ := exec_ctx_answers (i := .loadProgram c k p) (st := stOk) (p := [(0x81, sha384 p)])
      (next := s.nextId) (f := fun y => { y with programs := y.programs.put k (p, sha384 p) }) h hc hx
      (show _ = execLoadProgram c k p s from rfl) (by
        rw [if_neg (by simp [hlen]), hx']
        dsimp only
        rw [if_neg (by simp [hknown, hk]), if_neg]
        · rfl
        · cases hp : x.prog with
          | none => simp
          | some r => simpa using hruns r hp)
    exact ⟨t, ht, hctx, hother, hsend, heq⟩
  · have hx' : (s.awaiting c opLoadProgram n).ctx c.ctx = some x := hx
    exact exec_gaffer_answers (u := s.awaiting c opLoadProgram n) h hc (show _ = execLoadProgram c k p s from rfl) (by
      rw [if_neg (by simp [hlen]), hx']
      dsimp only
      rw [if_neg (by simp [hknown, hk]), if_pos (by simpa [hr] using hrk)]
      rfl) rfl rfl rfl rfl rfl
  · have hx' : (s.awaiting c opRunProgram n).ctx c.ctx = some x := hx
    rw [exec, execRunProgram, gaffer_takes h, hx']
    dsimp only
    rw [if_neg (by simpa [Option.isSome_iff_ne_none] using hload)]
    rfl
  · have hx' : (s.awaiting c opRunProgram n).ctx c.ctx = some x := hx
    exact exec_gaffer_answers (u := s.awaiting c opRunProgram n) h hc (show _ = execRunProgram c k s from rfl) (by
      rw [hx']
      dsimp only
      rw [if_pos (by simp [hload])]) rfl rfl rfl rfl rfl

end Sys2Proof.Machine
end

section
/-! PROOFS. Streams open, run on and end. -/

namespace Sys2Proof.Machine

/-! ## A stream that waits changes no slot (R157) -/

/-- An entry under a number that is free stands among the others, which stay in their order. -/
theorem Tab.put_free {α : Type} {t : Tab α} {i : Nat} (v : α) (h : t.find i = none) :
    ∃ l l', t = l ++ l' ∧ t.put i v = l ++ (i, v) :: l' := by
  induction t with
  | nil => exact ⟨[], [], rfl, rfl⟩
  | cons q t ih =>
    obtain ⟨k, w⟩ := q
    have hk : k ≠ i := by
      rintro rfl
      simp [Tab.find] at h
    by_cases hlt : k < i
    · obtain ⟨l, l', heq, hput⟩ := ih (by simpa [Tab.find, hk] using h)
      exact ⟨(k, w) :: l, l', by simp [heq], by simp [Tab.put, hk, hlt, hput]⟩
    · exact ⟨[], (k, w) :: t, rfl, by simp [Tab.put, hk, hlt]⟩

/-- A stream that waits, put under a free number, is not among those that hold slots. -/
theorem holdsSlot_put {t : Tab Strm} {i : Nat} {x : Strm} (h : t.find i = none) (hx : x.holdsSlot = false) :
    (t.put i x).vals.filter Strm.holdsSlot = t.vals.filter Strm.holdsSlot := by
  obtain ⟨l, l', rfl, hput⟩ := Tab.put_free x h
  simp [hput, Tab.vals, hx]

/-- Whether a stream may open depends on the streams that hold slots, and on the profile. -/
theorem State.canOpen_congr {s t : State} (hp : t.profile = s.profile)
    (h : t.streams.vals.filter Strm.holdsSlot = s.streams.vals.filter Strm.holdsSlot) (x : Strm) : t.canOpen x = s.canOpen x := by
  have hfilter : ∀ p : Strm → Bool, t.streams.vals.filter (fun y => p y && y.holdsSlot) =
      s.streams.vals.filter (fun y => p y && y.holdsSlot) := fun p => by
    rw [← List.filter_filter, ← List.filter_filter, h]
  have hengine : ∀ e, t.onEngine e = s.onEngine e := fun e => hfilter _
  have hbuffer : t.bufferFree x.desc = s.bufferFree x.desc := by
    have hall : ∀ (p : Strm → Bool) (l : List Strm), l.all (fun y => !y.holdsSlot || p y) = (l.filter Strm.holdsSlot).all p := by
      intro p l
      simp [List.all_filter]
    simp only [State.bufferFree, Bool.or_assoc]
    rw [hall, hall, h]
  have hreceive : t.receiveFits x = s.receiveFits x := by
    simp only [State.receiveFits]
    simp only [Bool.and_comm (Strm.holdsSlot _)]
    rw [hfilter]
  have hcredits : ∀ e k c, t.creditsHeld e k c = s.creditsHeld e k c := fun e k c => by rw [State.creditsHeld, hengine]; rfl
  simp only [State.canOpen, hengine, hbuffer, hreceive, State.creditsFit, hcredits, hp]

/-! ## A stream that opens (R167, R358) -/

/-- What opening a stream leaves, before whoever opened it hears of it. -/
def State.runStrm (s : State) (k : Nat) (x : Strm) (c : Ctx) : State :=
  { s with
    streams := s.streams.modify k (fun x => { x with st := .running, baseSeq := c.pageSeq })
    ctxs := s.ctxs.put x.ctx { c with pageSeq := c.pageSeq + if x.kind = 5 then x.total else 0 } }

/-- A stream that waits and may open runs, and the command that opened it hears its id. -/
theorem State.openStrm_runs {s : State} {k : Nat} {x : Strm} {c : Ctx} (hx : s.strm k = some x) (hc : s.ctx x.ctx = some c)
    (hst : x.st = .waiting) (ho : s.canOpen x = true) :
    s.openStrm k = match x.use with | .command t => (s.runStrm k x c).interim t stOk [p32 0x81 x.id] | _ => s.runStrm k x c := by
  have hctx : State.ctx (s.modStrm k (fun x => { x with st := .running, baseSeq := c.pageSeq })) x.ctx = some c := hc
  rw [State.openStrm, hx]
  dsimp only
  rw [if_pos (by simp [hst, ho]), hc]
  dsimp only
  rw [State.modCtx_eq_setCtx hctx]
  rfl

/-- A stream that may not open stays as it is. -/
theorem State.openStrm_waits {s : State} {k : Nat} {x : Strm} (hx : s.strm k = some x) (ho : s.canOpen x = false) : s.openStrm k = s := by
  rw [State.openStrm, hx]
  dsimp only
  rw [if_neg (by simp [ho])]

/-- A reply that is not the final one goes out, or waits in its session. -/
theorem State.interim_eq (s : State) (t : Ticket) (st : Nat) (p : List (Nat × Bytes)) :
    ∃ out sessions, s.interim t st p = { s with out := out, sessions := sessions } := by
  unfold State.interim State.sendOn
  split
  · split
    · split
      · exact ⟨_, s.sessions, rfl⟩
      · exact ⟨s.out, _, rfl⟩
    · exact ⟨s.out, s.sessions, rfl⟩
  · exact ⟨s.out, s.sessions, rfl⟩

/-- A first reply to a command just taken leaves at once where nothing waits before it. -/
theorem interim_awaiting {s u : State} {k : OpSpec} {op : Nat} {c : Cmd} {n st : Nat} {ss : Session} {p : List (Nat × Bytes)}
    (h : Takes k c n ss s) (hc : Clear s ss) (hu : u.sessions = (s.awaiting c op n).sessions) (hq : u.qps = s.qps) (hp : u.ports = s.ports)
    (hr : u.profile = s.profile) (ho : u.out = s.out) :
    (u.interim (ticketOf c op n ss.serial) st p).out = s.out ++ [.packet (s.replyOf (ticketOf c op n ss.serial) false st p)] := by
  have hfind : u.sessions.find n = some { ss with awaiting := ss.awaiting ++ [(c.seq, op)] } := by
    rw [hu]
    exact sessions_awaiting h.session
  have hlive : u.live (ticketOf c op n ss.serial) = true := by simp [State.live, ticketOf, hfind]
  have hpaused : u.paused ss.qp u.profile.cmdPriority = false := by
    rw [← hc.2]
    simp only [State.paused, State.port, hq, hp, hr]
  have hsend : ∀ x, u.sendOn n x = u.emit (.packet x) := by
    intro x
    simp only [State.sendOn, hfind, hc.1, hpaused, decide_true, Bool.not_false, Bool.and_self, if_true]
  have hreply : u.replyOf (ticketOf c op n ss.serial) false st p = s.replyOf (ticketOf c op n ss.serial) false st p := by
    simp [State.replyOf, State.minorOf, hq]
  rw [State.interim, if_pos hlive, hreply]
  exact (congrArg State.out (hsend _)).trans (by simp [State.emit, ho])

/-- A stream that opens changes itself and the page sequence of its context; its command may hear of it. -/
theorem State.openStrm_eq {s : State} {k : Nat} {x : Strm} {c : Ctx} (hx : s.strm k = some x) (hc : s.ctx x.ctx = some c)
    (hst : x.st = .waiting) (ho : s.canOpen x = true) :
    ∃ out sessions, s.openStrm k = { s.runStrm k x c with out := out, sessions := sessions } := by
  rw [State.openStrm_runs hx hc hst ho]
  split
  · exact State.interim_eq _ _ _ _
  · exact ⟨s.out, s.sessions, rfl⟩

theorem State.strm_runStrm {s : State} {k : Nat} {x : Strm} {c : Ctx} (hx : s.strm k = some x) :
    (s.runStrm k x c).strm k = some { x with st := .running, baseSeq := c.pageSeq } ∧
      ∀ m, m ≠ k → (s.runStrm k x c).strm m = s.strm m := by
  have hfind : s.streams.find k = some x := hx
  exact ⟨by simp [State.strm, State.runStrm, Tab.find_modify, hfind],
    fun m hm => by simp [State.strm, State.runStrm, Tab.find_modify, Ne.symm hm]⟩

/-! ## STREAM_OPEN (R157, R358) -/

theorem exec_streamOpen {s : State} {c : Cmd} {n : Nat} {ss : Session} {x : Ctx} {d : Bytes} (h : Takes (specOf opStreamOpen) c n ss s)
    (hx : s.ctx c.ctx = some x) (hvalid : sdValid s.profile.split d = true) :
    exec (.streamOpen c d) s =
      .next ((s.awaiting c opStreamOpen n).beginStream (ticketOf c opStreamOpen n ss.serial) x d).makeStarts.settle := by
  have hx' : (s.awaiting c opStreamOpen n).ctx c.ctx = some x := hx
  have hvalid' : sdValid (s.awaiting c opStreamOpen n).profile.split d = true := hvalid
  rw [exec, execStreamOpen, gaffer_takes h, hx']
  dsimp only
  rw [if_neg (by simp [hvalid'])]
  rfl

/-- The state once a stream of a command has its number and waits to open. -/
def State.openingStrm (s : State) (ctx : Nat) (x : Ctx) (y : Strm) : State :=
  { s with
    ctxs := s.ctxs.put ctx { x with nextStream := x.nextStream % (2 ^ 32 - 1) + 1 }
    streams := s.streams.put s.nextId y, nextId := s.nextId + 1 }

theorem State.beginStream_of {s : State} {t : Ticket} {x : Ctx} {d : Bytes} (hx : s.ctx t.ctx = some x) (hown : s.ownsEnds x d = true)
    (hchecked : sdUnchecked d = false) :
    s.beginStream t x d = if s.noSlot (s.strmOf t.ctx x.nextStream x (.command t) d) x then s.answer t stBusy
      else (s.openingStrm t.ctx x (s.strmOf t.ctx x.nextStream x (.command t) d)).openStrm s.nextId := by
  rw [State.beginStream, if_neg (by simp [hown, hchecked])]
  dsimp only
  split
  · rfl
  · rw [State.modCtx_eq_setCtx hx]
    rfl

/-- Settles O46. -/
theorem streamsOpenAndEnd : Obligations.streams_open_and_end := by
  refine fun s c n ss x hx => ⟨fun d h hvalid hown hchecked hfree => ?_, fun d h hvalid => ?_, fun id h => ⟨fun hnone hc => ?_,
    fun k rest y t0 hk hy huse => ?_⟩, fun id h => ⟨fun hnone hc => ?_, fun k rest y hk hy hread => ?_⟩, fun k y hy hctx hst hd =>
    ⟨fun hno => ?_, fun hslot ho => ?_⟩, fun k y hy hst hup hstall => ?_, fun k y hy hno => ?_⟩
  · intro y
    have hexec := exec_streamOpen h hx hvalid
    have hbegin : (s.awaiting c opStreamOpen n).beginStream (ticketOf c opStreamOpen n ss.serial) x d =
        if s.noSlot y x then (s.awaiting c opStreamOpen n).answer (ticketOf c opStreamOpen n ss.serial) stBusy
        else ((s.awaiting c opStreamOpen n).openingStrm c.ctx x y).openStrm s.nextId := State.beginStream_of hx hown hchecked
    rw [hbegin] at hexec
    refine ⟨fun hslot hc => ?_, fun hslot => ?_⟩
    · rw [if_pos hslot] at hexec
      obtain ⟨r, hans, hr⟩ := answerWith_awaiting (op := opStreamOpen) (st := stBusy) (p := []) (u := s.awaiting c opStreamOpen n)
        h hc rfl rfl rfl rfl rfl
      rw [State.answer, hans] at hexec
      exact ⟨_, hexec, ⟨rfl, hr⟩, rfl⟩
    · rw [if_neg (by simp [hslot])] at hexec
      let w := (s.awaiting c opStreamOpen n).openingStrm c.ctx x y
      have hw : w.strm s.nextId = some y := Tab.find_put_self _ _ _
      have hctx : w.ctx y.ctx = some { x with nextStream := x.nextStream % (2 ^ 32 - 1) + 1 } := Tab.find_put_self _ _ _
      have hcan : w.canOpen y = s.canOpen y := State.canOpen_congr (s := s) (t := w) rfl (holdsSlot_put hfree rfl) y
      have hother : ∀ k, k ≠ s.nextId → w.strm k = s.strm k := fun k hk => Tab.find_put_ne _ _ (Ne.symm hk)
      cases ho : s.canOpen y
      case false =>
        rw [State.openStrm_waits hw (hcan.trans ho)] at hexec
        exact ⟨w, hexec, fun _ => ⟨hw, rfl⟩, fun h => (nomatch h), hother, rfl⟩
      case true =>
        obtain ⟨hrun, hkeep⟩ := State.strm_runStrm (c := { x with nextStream := x.nextStream % (2 ^ 32 - 1) + 1 }) hw
        have hruns : w.openStrm s.nextId = (w.runStrm s.nextId y { x with nextStream := x.nextStream % (2 ^ 32 - 1) + 1 }).interim
          (ticketOf c opStreamOpen n ss.serial) stOk [p32 0x81 y.id] := State.openStrm_runs hw hctx rfl (hcan.trans ho)
        obtain ⟨out, sessions, heq⟩ := State.interim_eq (w.runStrm s.nextId y { x with nextStream := x.nextStream % (2 ^ 32 - 1) + 1 })
          (ticketOf c opStreamOpen n ss.serial) stOk [p32 0x81 y.id]
        have hsend := fun hc => interim_awaiting (st := stOk) (p := [p32 0x81 y.id]) (op := opStreamOpen)
          (u := w.runStrm s.nextId y { x with nextStream := x.nextStream % (2 ^ 32 - 1) + 1 }) h hc rfl rfl rfl rfl rfl
        rw [show State.openStrm ((s.awaiting c opStreamOpen n).openingStrm c.ctx x y) s.nextId = _ from hruns.trans heq] at hexec
        rw [heq] at hsend
        exact ⟨_, hexec, fun h => (nomatch h), fun _ => ⟨⟨_, hrun, rfl⟩, hsend⟩, fun k hk => (hkeep k hk).trans (hother k hk), rfl⟩
  · have hx' : (s.awaiting c opStreamOpen n).ctx c.ctx = some x := hx
    have hvalid' : sdValid (s.awaiting c opStreamOpen n).profile.split d = false := hvalid
    rw [exec, execStreamOpen, gaffer_takes h, hx']
    dsimp only
    rw [if_pos (by simp [hvalid'])]
  · have hnone' : (s.awaiting c opStreamOpen n).streamsById c.ctx id StreamState.isHalted = [] := hnone
    exact exec_gaffer_answers (u := s.awaiting c opStreamOpen n) h hc (show _ = execStreamOpenResume c id s from rfl)
      (by rw [hnone']; rfl) rfl rfl rfl rfl rfl
  · have hk' : (s.awaiting c opStreamOpen n).streamsById c.ctx id StreamState.isHalted = k :: rest := hk
    have hfind : s.streams.find k = some y := hy
    have hexec : exec (.streamOpenResume c id) s = .next (((s.awaiting c opStreamOpen n).modStrm k
        (fun x => x.resume (ticketOf c opStreamOpen n ss.serial))).makeStarts.settle) := by
      rw [exec, execStreamOpenResume, gaffer_takes h, hk']
      rfl
    refine ⟨_, hexec, ?_, fun m hm => ?_, rfl⟩
    · have : y.resume (ticketOf c opStreamOpen n ss.serial) = { y with st := .running, use := .command (ticketOf c opStreamOpen n ss.serial) } := by
        rw [Strm.resume, huse]
      rw [← this]
      simp [State.strm, State.modStrm, Tab.find_modify, State.awaiting, hfind]
    · simp [State.strm, State.modStrm, Tab.find_modify, State.awaiting, Ne.symm hm]
  · have hnone' : (s.awaiting c opStreamClose n).streamsById c.ctx id StreamState.isOpen = [] := hnone
    exact exec_gaffer_answers (u := s.awaiting c opStreamClose n) h hc (show _ = execStreamClose c id s from rfl)
      (by rw [hnone']; rfl) rfl rfl rfl rfl rfl
  · have hk' : (s.awaiting c opStreamClose n).streamsById c.ctx id StreamState.isOpen = k :: rest := hk
    have hy' : (s.awaiting c opStreamClose n).strm k = some y := hy
    have hread' : (s.awaiting c opStreamClose n).bufferRead y = false := hread
    rw [exec, execStreamClose, gaffer_takes h, hk']
    dsimp only
    rw [hy']
    dsimp only
    rw [if_neg (by simp [hread'])]
    rfl
  · rw [exec, execStreamReserve, hy]
    dsimp only
    rw [hctx, hx]
    dsimp only
    by_cases hslot : s.noSlot y x = true
    · exact .inl (if_pos (by simp [hd, hslot]))
    · right
      rw [if_neg (by simp [hslot]), State.openStrm_waits hy (hno.resolve_left hslot)]
      rfl
  · have hctx' : s.ctx y.ctx = some x := by rw [hctx]; exact hx
    obtain ⟨out, sessions, heq⟩ := State.openStrm_eq hy hctx' hst ho
    obtain ⟨hrun, hkeep⟩ := State.strm_runStrm (c := x) hy
    have hexec : exec (.streamReserve k) s = .next (s.openStrm k).makeStarts.settle := by
      rw [exec, execStreamReserve, hy]
      dsimp only
      rw [hctx']
      dsimp only
      rw [if_neg (by simp [hslot])]
      rfl
    rw [heq] at hexec
    exact ⟨_, _, hexec, hrun, rfl, hkeep⟩
  · have hexec : exec (.streamStall k) s = .next ((({ s with
        stalls := s.stalls.put y.engine ((s.stalls.getOr y.engine Counter.zero).addError 1) }).countError cStreamStalls 1).failStrm k
          stStreamStall).makeStarts.settle := by
      rw [exec, execStreamStall, hy]
      dsimp only
      rw [if_pos (by simp [hst, hup, hstall]), State.stallStrm, hy]
      rfl
    rw [State.countError_eq] at hexec
    exact ⟨_, hexec, hy, Tab.find_put_self _ _ _, rfl⟩
  · rw [exec, execStreamStall, hy]
    dsimp only
    rw [if_neg]
    rcases hno with h | h <;> simp [h]

end Sys2Proof.Machine
end

section
/-! PROOFS. Operations of a program that do not compute. -/

namespace Sys2Proof.Machine

/-- The operation a program has next is of its context, and of the program that runs. -/
theorem State.nextOp_spec {s : State} {ctx code : Nat} {c : Ctx} {p : ProgRun} {o : Bytes} (h : s.nextOp ctx code = some (c, p, o)) :
    s.ctx ctx = some c ∧ c.prog = some p := by
  unfold State.nextOp at h
  split at h
  case h_1 x hx =>
    split at h
    case h_1 q hq hp =>
      dsimp only at h
      split at h
      · obtain ⟨rfl, rfl, -⟩ : x = c ∧ q = p ∧ _ := by simpa using h
        exact ⟨hx, hp⟩
      · cases h
    case h_2 => cases h
  case h_2 => cases h

/-- The context of a program whose operation is done. -/
def Ctx.opDone (c : Ctx) (p : ProgRun) : Ctx := { c with prog := some { p with index := p.index + 1 } }

/-- A program whose operation is done goes on to the next. -/
theorem State.opDone_eq {s : State} {ctx : Nat} {c : Ctx} {p : ProgRun} (hc : s.ctx ctx = some c) (hp : c.prog = some p) :
    s.opDone ctx = s.setCtx ctx (c.opDone p) := by
  rw [State.opDone, State.modCtx_eq_setCtx hc, hp]
  rfl

/-- Settles O47. -/
theorem programOperations : Obligations.program_operations := by
  refine fun s ctx c p o => ⟨fun h => ⟨fun hown => ?_, fun hown hop => ⟨fun hfull => ?_, fun hroom => ?_⟩⟩,
    fun h hvalid hchecked hslot hends hold hfree => ?_, fun h k y hy => ⟨fun hst => ?_, fun st hst hne => ?_, fun hst => ?_⟩,
    fun h hown => ⟨fun hempty => ?_, fun ⟨n, hn, hq⟩ => ?_⟩, fun h => ?_, fun h hown => ?_, fun h hown => ?_⟩
  all_goals obtain ⟨hc, hp⟩ := State.nextOp_spec h
  · rw [exec, execArray, h]
    dsimp only
    rw [if_pos (by simp [hown])]
    rfl
  · rw [exec, execArray, h]
    dsimp only
    rw [if_neg (by simp [hown, hop]), if_pos hfull]
  · have hexec : exec (.array ctx) s =
        .next (((s.enqueueOp (poTarget o) ctx (slice (poBody o) 0 32)).setCtx ctx (c.opDone p)).makeStarts.settle) := by
      have hc' : (s.enqueueOp (poTarget o) ctx (slice (poBody o) 0 32)).ctx ctx = some c := hc
      rw [exec, execArray, h]
      dsimp only
      rw [if_neg (by simp [hown, hop]), if_neg (Nat.not_le.mpr hroom), State.opDone_eq hc' hp]
      rfl
    have htile := fun k => State.tile_modTile s (poTarget o) k (fun t => { t with
      queue := t.queue ++ [⟨slice (poBody o) 0 32, ctx, 0, false⟩], waking := t.waking || decide (t.power = .nap)
      power := if t.power = .idle then .run else t.power })
    exact ⟨_, hexec, (congrArg Tile.queue (htile _)).trans (by rw [if_pos rfl]), fun k hk => (htile k).trans (if_neg (Ne.symm hk)),
      Tab.find_put_self _ _ _, fun k hk => Tab.find_put_ne _ _ (Ne.symm hk), rfl⟩
  · intro y
    let w := (s.addStrm y).2
    have hexec : exec (.stream ctx) s =
        if s.noSlot y c || !s.canOpen y then .next s else .next ((w.openStrm s.nextId).opDone ctx).makeStarts.settle := by
      rw [exec, execStream, h]
      dsimp only
      rw [if_neg (by simp [hvalid]), if_neg (by simp [hends, hslot]), hold]
      dsimp only
      rw [if_neg (by decide)]
      split
      · rfl
      · rw [if_neg (by simp [hchecked])]
        rfl
    refine ⟨fun hno => hexec.trans (if_pos (by rcases hno with h | h <;> simp [h])), fun hslot ho => ?_⟩
    rw [if_neg (by simp [hslot, ho])] at hexec
    have hw : w.strm s.nextId = some y := Tab.find_put_self _ _ _
    have hcan : w.canOpen y = true := (State.canOpen_congr (s := s) (t := w) rfl (holdsSlot_put hfree rfl) y).trans ho
    obtain ⟨hrun, hkeep⟩ := State.strm_runStrm (c := c) hw
    have hopens : w.openStrm s.nextId = w.runStrm s.nextId y c := State.openStrm_runs hw hc rfl hcan
    let c' : Ctx := { c with pageSeq := c.pageSeq + if y.kind = 5 then y.total else 0 }
    have hctx : (w.runStrm s.nextId y c).ctx ctx = some c' := Tab.find_put_self _ _ _
    rw [hopens, State.opDone_eq (c := c') hctx hp] at hexec
    exact ⟨_, _, hexec, hrun, rfl, fun k hk => (hkeep k hk).trans (Tab.find_put_ne _ _ (Ne.symm hk)), ⟨_, Tab.find_put_self _ _ _⟩, rfl⟩
  · rw [exec, execWaitStream, h]
    dsimp only
    rw [hy]
    dsimp only
    rw [hst]
    dsimp only
    rw [if_pos rfl, State.opDone_eq hc hp]
    rfl
  · rw [exec, execWaitStream, h]
    dsimp only
    rw [hy]
    dsimp only
    rw [hst]
    dsimp only
    rw [if_neg hne]
    rfl
  · rw [exec, execWaitStream, h]
    dsimp only
    rw [hy]
    dsimp only
    rw [hst]
  · rw [exec, execWaitTile, h]
    dsimp only
    rw [if_neg (by simpa using hown), if_pos (by simpa using hempty), State.opDone_eq hc hp]
    rfl
  · rw [exec, execWaitTile, h]
    dsimp only
    rw [if_neg (by simpa using hown), if_neg (by simpa using ⟨n, hn, hq⟩)]
  · have hc' : (s.setCtx ctx (c.opDone p)).ctx ctx = some (c.opDone p) := Tab.find_put_self _ _ _
    rw [exec, execBoundary, h]
    dsimp only
    rw [State.opDone_eq hc hp, State.modCtx_eq_setCtx hc']
    simp only [State.setCtx, Tab.put_put]
    rfl
  · rw [exec, execRounding, h]
    dsimp only
    have hc' : (s.modTile (poTarget o) (fun t => { t with rounding := slice (poBody o) 0 32 })).ctx ctx = some c := hc
    rw [if_neg (by simp [hown]), State.opDone_eq hc' hp]
    rfl
  · rw [exec, execDerivative, h]
    dsimp only
    have hc' : (s.modTile (poTarget o) (fun t => { t with deriv := slice (poBody o) 0 32 })).ctx ctx = some c := hc
    rw [if_neg (by simp [hown]), State.opDone_eq hc' hp]
    rfl

end Sys2Proof.Machine
end

section
/-! PROOFS. The operations of the array complete. -/

namespace Sys2Proof.Machine

/-! ## What a result leaves -/

/-- The first operation on the array is the one at the front. -/
theorem onArray_head (x : ArrayIn) (q : QueueOp) (rest : List QueueOp) : ∃ l, onArray x (q :: rest) = q :: l := by
  cases rest with
  | nil => exact ⟨_, rfl⟩
  | cons r rest =>
    rw [onArray]
    split <;> exact ⟨_, rfl⟩

/-- A byte that no write of a list holds reads as before. -/
theorem readByte_foldl_writeBytes {m : List Host.Cell} (h : Memory.wf m) (n a : Nat) (ws : List (Nat × Bytes))
    (ha : ∀ w ∈ ws, a < tileAddr n w.1 ∨ tileAddr n w.1 + w.2.length ≤ a) :
    readByte (ws.foldl (fun m w => writeBytes m (tileAddr n w.1) w.2) m) a = readByte m a := by
  induction ws generalizing m with
  | nil => rfl
  | cons w ws ih =>
    rw [List.foldl_cons, ih (Memory.wf_writeBytes h _ _) fun v hv => ha v (by simp [hv]), readByte_writeBytes h, if_neg]
    have := ha w (by simp)
    omega

/-- From one state to the next, a tile, memory and counters have changed; of the tile, not its queue nor its completions. -/
def State.Lands (s : State) (n : Nat) (mem : List Host.Cell) (t : State) : Prop :=
  (∃ tiles counters, t = { s with tiles := tiles, mem := mem, counters := counters }) ∧ (t.tile n).queue = (s.tile n).queue ∧
    (t.tile n).completions = (s.tile n).completions ∧ ∀ k, k ≠ n → t.tile k = s.tile k

/-- A result lands: its writes, and what its values count. -/
theorem State.noteOutputs_lands (s : State) (n : Nat) (ws : List (Nat × Bytes)) (vals : List OutValue) :
    s.Lands n (ws.foldl (fun m w => writeBytes m (tileAddr n w.1) w.2) s.mem) ((s.tileWrites n ws).noteOutputs n vals) := by
  unfold State.noteOutputs
  extract_lets blk stat sats u
  obtain ⟨counters, hcount, -⟩ := u.countF8_eq sats
  have htile : ∀ k, u.tile k = if n = k then _ else s.tile k := fun k => State.tile_modTile (s.tileWrites n ws) n k _
  rw [hcount]
  exact ⟨⟨_, _, rfl⟩, (congrArg Tile.queue (htile n)).trans (by rw [if_pos rfl]; rfl),
    (congrArg Tile.completions (htile n)).trans (by rw [if_pos rfl]; rfl),
    fun k hk => (htile k).trans (if_neg (Ne.symm hk))⟩

/-- Once an operation completes, its tile rests or goes on, and no other tile changes. -/
theorem State.complete_eq {s : State} {n code : Nat} {q : QueueOp} {rest : List QueueOp} (hq : (s.tile n).queue = q :: rest) :
    (∃ tiles, s.complete n 1 code = { s with tiles := tiles }) ∧ ((s.complete n 1 code).tile n).queue = rest ∧
      ((s.complete n 1 code).tile n).completions = (s.tile n).completions ++ [code] ∧
      ∀ k, k ≠ n → (s.complete n 1 code).tile k = s.tile k := by
  unfold State.complete State.restTile
  refine ⟨⟨_, rfl⟩, ?_, ?_, fun k hk => ?_⟩
  · simp [State.tile_modTile, hq]
  · simp [State.tile_modTile]
  · simp [State.tile_modTile, Ne.symm hk]

/-- A MATMUL alone on the array lands its result, and completes. -/
theorem State.finishMatmul_one {s : State} {n : Nat} {q : QueueOp} {rest : List QueueOp}
    (hq : ((s.matmulResult n (s.arrayIn n) (s.blockFor n q.desc) q.desc).tile n).queue = q :: rest) :
    let t := s.matmulResult n (s.arrayIn n) (s.blockFor n q.desc) q.desc
    (∃ tiles, s.finishMatmul n [q] none 0 = { t with tiles := tiles }) ∧ ((s.finishMatmul n [q] none 0).tile n).queue = rest ∧
      ((s.finishMatmul n [q] none 0).tile n).completions = (t.tile n).completions ++ [0] ∧
      ∀ k, k ≠ n → (s.finishMatmul n [q] none 0).tile k = t.tile k := by
  intro t
  have hresult : eachDo ([q].zip ([q].map (fun o => s.blockFor n o.desc))) (fun p u =>
      if decide ((none : Option Nat) = some (aoHalf p.1.desc)) then u.spoil n p.1.desc else u.matmulResult n (s.arrayIn n) p.2 p.1.desc) s =
      t := rfl
  unfold State.finishMatmul
  dsimp only
  rw [hresult]
  unfold State.restTile
  refine ⟨⟨_, rfl⟩, ?_, ?_, fun k hk => ?_⟩
  · simp [State.tile_modTile, t, hq]
  · simp [State.tile_modTile]
  · simp [State.tile_modTile, Ne.symm hk]

/-- A MATMUL at the front whose operations are its context's own runs, or stops by name. -/
theorem exec_matmul {s : State} {n : Nat} {q : QueueOp} {rest : List QueueOp} (hready : s.tileReady n = true)
    (hq : (s.tile n).queue = q :: rest) (hop : aoOp q.desc = 1)
    (hown : ∀ o ∈ onArray (s.arrayIn n) (q :: rest), s.operationOwned n o = true) (e : ArrayEvent) :
    exec (.matmul n e) s =
      match (onArray (s.arrayIn n) (q :: rest)).findSome? (fun o => matmulFault (s.arrayIn n) (s.tile n).loaded o.desc) with
      | some f => .fault f
      | none => .next (s.runMatmul n (onArray (s.arrayIn n) (q :: rest)) e).makeStarts.settle := by
  have hnone : (onArray (s.arrayIn n) (q :: rest)).find? (fun o => !s.operationOwned n o) = none :=
    List.find?_eq_none.mpr fun o ho => by simp [hown o ho]
  rw [exec, execMatmul, if_neg (by simp [hready]), hq]
  dsimp only
  rw [if_neg (by simp [hop]), hnone]
  rfl

/-- Settles O49. -/
theorem arrayOperationsComplete : Obligations.array_operations_complete := by
  intro s n q rest hready hq x
  refine ⟨fun hop hres => ?_, fun h => ?_, fun hown => ⟨fun hop e => ?_, fun hop e => ?_⟩,
    fun hop hown => ⟨fun f hf e => ?_, fun hnone => ⟨fun e => ?_, fun hone hwf => ?_⟩⟩, fun hop hown => ⟨fun f hf e => ?_, fun hnone hwf => ?_⟩,
    fun hroom hown hok hpieces => ?_, fun hfull => ?_⟩
  · have hexec : exec (.nop n) s = .next (s.complete n 1 0).makeStarts.settle := by
      rw [exec, execNop, if_neg (by simp [hready]), hq]
      dsimp only
      rw [if_neg (by simp [hop, hres]), if_neg (by simp [hop])]
      rfl
    obtain ⟨⟨tiles, heq⟩, hqueue, hdone, hother⟩ := State.complete_eq (code := 0) hq
    exact ⟨_, hexec, hqueue, hdone, hother, by rw [heq]⟩
  · rw [exec, execNop, if_neg (by simp [hready]), hq]
    dsimp only
    rw [if_pos (by simpa using h)]
  · obtain ⟨l, hl⟩ := onArray_head x q rest
    rw [exec, execMatmul, if_neg (by simp [hready]), hq]
    dsimp only
    rw [if_neg (by simp [hop]), hl]
    simp only [List.find?_cons, hown, Bool.not_false]
    rfl
  · rw [exec, execElementwise, if_neg (by simp [hready]), hq]
    dsimp only
    rw [if_neg (by simp [hop]), if_pos (by simp [hown])]
    rfl
  · obtain ⟨l, hl⟩ := onArray_head x q rest
    have hf' : (onArray x (q :: rest)).findSome? (fun o => matmulFault x (s.tile n).loaded o.desc) = some f := by
      rw [hl, List.findSome?_cons, hf]
    rw [exec_matmul hready hq hop hown, hf']
  · have hnone' : (onArray x (q :: rest)).findSome? (fun o => matmulFault x (s.tile n).loaded o.desc) = none :=
      List.findSome?_eq_none_iff.mpr hnone
    rw [exec_matmul hready hq hop hown, hnone']
  · have hnone' : (onArray x (q :: rest)).findSome? (fun o => matmulFault x (s.tile n).loaded o.desc) = none :=
      List.findSome?_eq_none_iff.mpr hnone
    have hexec := exec_matmul hready hq hop hown .clean
    rw [hnone'] at hexec
    simp only [show s.arrayIn n = x from rfl, hone] at hexec
    have hlands := State.noteOutputs_lands s n (matmulWrites x q.desc (matmulRows x (s.blockFor n q.desc) q.desc))
      (rowValues (matmulRows x (s.blockFor n q.desc) q.desc))
    obtain ⟨⟨tiles, counters, heq⟩, hqueue, hdone, hother⟩ := hlands
    obtain ⟨⟨tiles', heq'⟩, hqueue', hdone', hother'⟩ := State.finishMatmul_one (s := s) (n := n) (q := q) (rest := rest)
      (hqueue.trans hq)
    have hmem : (s.finishMatmul n [q] none 0).mem = (matmulWrites x q.desc (matmulRows x (s.blockFor n q.desc) q.desc)).foldl
        (fun m w => writeBytes m (tileAddr n w.1) w.2) s.mem := by
      rw [heq']
      exact (congrArg State.mem heq).trans rfl
    refine ⟨s.finishMatmul n [q] none 0, hexec, hqueue', hdone'.trans (congrArg (· ++ [0]) hdone), hmem, fun a ha => ?_,
      fun k hk => (hother' k hk).trans (hother k hk), ?_⟩
    · rw [hmem]
      exact readByte_foldl_writeBytes hwf n a _ ha
    · rw [heq', show s.matmulResult n (s.arrayIn n) (s.blockFor n q.desc) q.desc = _ from heq]
  · rw [exec, execElementwise, if_neg (by simp [hready]), hq]
    dsimp only
    rw [if_neg (by simp [hop]), if_neg (by simp [hown]), hf]
  · have hexec : exec (.elementwise n .clean) s = .next ((s.ewResult n q.desc).complete n 1 0).makeStarts.settle := by
      rw [exec, execElementwise, if_neg (by simp [hready]), hq]
      dsimp only
      rw [if_neg (by simp [hop]), if_neg (by simp [hown]), hnone]
      rfl
    intro vals dst
    obtain ⟨⟨tiles, counters, heq⟩, hqueue, hdone, hother⟩ := State.noteOutputs_lands s n [(dst, vals.flatMap (fun v => v.bytes))] vals
    obtain ⟨⟨tiles', heq'⟩, hqueue', hdone', hother'⟩ := State.complete_eq (s := s.ewResult n q.desc) (code := 0) (hqueue.trans hq)
    have hmem : ((s.ewResult n q.desc).complete n 1 0).mem = writeBytes s.mem (tileAddr n dst) (vals.flatMap (fun v => v.bytes)) := by
      rw [heq']
      exact (congrArg State.mem heq).trans rfl
    refine ⟨_, hexec, hqueue', hdone'.trans (congrArg (· ++ [0]) hdone), hmem, fun a ha => ?_,
      fun k hk => (hother' k hk).trans (hother k hk), ?_⟩
    · rw [hmem, readByte_writeBytes hwf, if_neg (by omega)]
    · rw [heq', show s.ewResult n q.desc = _ from heq]
  · have hfill : nextFill x (q :: rest) [] 0 = some (0, q) := by simp [nextFill, hok, hpieces, regionsMeet]
    rw [exec, execMarverFill]
    dsimp only
    rw [if_neg (by simp [hready, hroom]), hq, hfill]
    dsimp only
    rw [if_neg (by simp [hown]), if_neg (by decide)]
    simp [State.bankLine, State.modTile, hq]
    rfl
  · rw [exec, execMarverFill]
    simp [hfull]

end Sys2Proof.Machine
end

section
/-! PROOFS. Transfers are issued and land. -/

namespace Sys2Proof.Machine

/-! ## Streams between ends in module memory (R163) -/

theorem State.runningOf_of {s : State} {k : Nat} {y : Strm} (hy : s.strm k = some y) (hst : y.st = .running) (hup : s.hbmUp = true) :
    s.runningOf k y.kind = some y := by
  simp [State.runningOf, hy, hst, hup]

theorem State.runningOf_other {s : State} {k kind : Nat} {y : Strm} (hy : s.strm k = some y) (h : y.kind ≠ kind) :
    s.runningOf k kind = none := by
  simp [State.runningOf, hy, h]

/-- An end in module memory is no host's and no ring port's. -/
theorem isLocal_spec {k : Nat} (h : isLocal k = true) : (k = epTile ∨ k = epHbm) ∧ k ≠ epHost ∧ isRing k = false := by
  have hk : k ≤ 1 := by simpa [isLocal] using h
  refine ⟨by simp only [epTile, epHbm]; omega, by simp only [epHost]; omega, by simp [isRing]; omega⟩

/-- Between ends in module memory no host is waited for, and no page is absent. -/
theorem State.local_free {s : State} {y : Strm} (hsrc : isLocal (sdSrcKind y.desc) = true) (hdst : isLocal (sdDstKind y.desc) = true)
    (i : Nat) : s.endBlocked y = false ∧ s.pageFault y i = none := by
  obtain ⟨-, hs, -⟩ := isLocal_spec hsrc
  obtain ⟨-, hd, -⟩ := isLocal_spec hdst
  exact ⟨by simp [State.endBlocked, hs, hd], by simp [State.pageFault, hs, hd]⟩

/-- A transfer that is issued is the next of its stream, and outstanding. -/
theorem State.issue_eq {s : State} {k : Nat} {y : Strm} (hy : s.strm k = some y) (data : Bytes) :
    (s.issue k data).strm k = some { y with issued := y.issued + 1, outstanding := y.outstanding ++ [(y.issued, data)] } ∧
      ∀ m, m ≠ k → (s.issue k data).strm m = s.strm m := by
  have hfind : s.streams.find k = some y := hy
  exact ⟨by simp [State.issue, State.modStrm, State.strm, Tab.find_modify, hfind],
    fun m hm => by simp [State.issue, State.modStrm, State.strm, Tab.find_modify, Ne.symm hm]⟩

/-- The next transfer between ends in module memory carries the bytes of its source. -/
theorem State.moveOne_local {s : State} {k : Nat} {y : Strm} (hmay : y.mayIssue = true) (hsrc : isLocal (sdSrcKind y.desc) = true)
    (hdst : isLocal (sdDstKind y.desc) = true) (hawake : s.endSleeps (sdSrcKind y.desc) (sdSrc y.desc) = false) :
    s.moveOne k y = s.issue k ((sdSrcAddrs y.desc y.issued).map (readByte s.mem)) := by
  obtain ⟨hblock, hpage⟩ := State.local_free (s := s) hsrc hdst y.issued
  obtain ⟨-, hhost, hring⟩ := isLocal_spec hdst
  have htake : s.takeSource y = some ((sdSrcAddrs y.desc y.issued).map (readByte s.mem), s) := if_pos hsrc
  have hsend : ∀ t : State, ∀ data, t.sendDest y data = t := fun t data => by
    rw [State.sendDest, if_neg (by simp [hring]), if_neg hhost]
  rw [State.moveOne, if_neg (by simp [hmay]), if_neg (by simp [hawake]), if_neg (by simp [hring]), if_neg (by simp [hblock]), hpage]
  dsimp only
  rw [htake]
  dsimp only
  rw [hsend]

/-- What an owner notes of its sums lies in the sets of a tile. -/
theorem State.noteOwner_eq (s : State) (x : Strm) (sums : List Word) : ∃ tiles, s.noteOwner x sums = { s with tiles := tiles } := by
  rw [State.noteOwner]
  split
  · exact ⟨_, rfl⟩
  · exact ⟨_, rfl⟩

/-- A hop at its owner carries the FP32 sums. -/
theorem exec_reduceHop_owner {s : State} {k : Nat} {y : Strm} (hrun : s.runningOf k 3 = some y) (hmay : y.mayIssue = true)
    (hsrc : isLocal (sdSrcKind y.desc) = true) (hdst : isLocal (sdDstKind y.desc) = true)
    (hawake : s.endSleeps (sdSrcKind y.desc) (sdSrc y.desc) = false) (partials : Bytes) :
    let sums := hopSums (slice partials 0 256) (readWords s.mem (modAddr (sdSrc y.desc) + 1024 * y.issued) 256)
    exec (.reduceHop k partials) s =
      .next ((s.noteOwner y sums).issue k (sums.flatMap (fun w => leBytes 4 w.toNat))).makeStarts.settle := by
  intro sums
  obtain ⟨-, hpage⟩ := State.local_free (s := s) hsrc hdst y.issued
  obtain ⟨-, -, hringd⟩ := isLocal_spec hdst
  obtain ⟨-, -, hrings⟩ := isLocal_spec hsrc
  have hin : s.hopInputs y partials =
      some (slice partials 0 256, readWords s.mem (modAddr (sdSrc y.desc) + 1024 * y.issued) 256, s) := by
    rw [State.hopInputs, if_neg (by simp [hrings]), if_pos hsrc]
  rw [exec, execReduceHop, hrun]
  dsimp only
  rw [if_neg (by simp [hmay]), if_neg (by simp [hawake]), if_neg (by simp [hringd]), if_neg (by simp [hdst]), hpage]
  dsimp only
  rw [State.hopOne, hin]
  dsimp only
  rw [if_pos hdst]
  rfl

/-! ## TRANSFER_LAND (R160, R170) -/

/-- What a byte reads after some bytes are written, where none of them is its own. -/
theorem readByte_foldl_writeByte {m : List Host.Cell} (h : Memory.wf m) (l : List (Nat × Byte)) {a : Nat} (ha : ∀ p ∈ l, p.1 ≠ a) :
    readByte (l.foldl (fun m p => writeByte m p.1 p.2) m) a = readByte m a := by
  induction l generalizing m with
  | nil => rfl
  | cons p l ih =>
    rw [List.foldl_cons, ih (Memory.wf_writeByte h _ _) fun q hq => ha q (by simp [hq]), readByte_writeByte h, if_neg]
    exact fun h => ha p (by simp) h.symm

/-- A transfer that is outstanding and reaches module memory, by the branches of its stream. -/
theorem exec_transferLand {s : State} {k i : Nat} {y : Strm} {bytes data : Bytes} (hy : s.strm k = some y)
    (hfind : y.outstanding.find? (fun p => decide (p.1 = i)) = some (i, data)) (hup : s.hbmUp = true) (hd : y.desc ≠ [])
    (hsrc : isLocal (sdSrcKind y.desc) = true) (hdst : isLocal (sdDstKind y.desc) = true) (line : HbmOutcome) :
    exec (.transferLand k i bytes line) s =
      if !y.discard && !lineLost y line && s.spoilsInputs (landAddrs y i) then .fault .overlap
      else if y.discard then .next (s.drainOne k y i).makeStarts.settle
      else if s.endSleeps (sdDstKind y.desc) (sdDst y.desc) then .next (s.touchTile (endTile (sdDst y.desc)))
      else if lineLost y line then .next (s.loseTransfer k y i line).makeStarts.settle
      else .next (((s.landLine y i line).drainHost y).landOne k y i data).makeStarts.settle := by
  obtain ⟨-, hhost, -⟩ := isLocal_spec hsrc
  rw [exec, execTransferLand, hy]
  dsimp only
  rw [hfind]
  dsimp only
  rw [if_neg (by simp [hup])]
  simp only [hd, hdst, hhost, ne_eq, not_false_eq_true, decide_true, decide_false, Bool.and_true, Bool.and_false, Bool.true_and,
    Bool.false_eq_true, if_false]
  rfl

/-- What a tenant counts lies in its context and in what events queue. -/
theorem State.countTenant_keeps (s : State) (ctx place n : Nat) :
    ∃ ctxs sessions, s.countTenant ctx place n = { s with ctxs := ctxs, sessions := sessions } := by
  cases hc : s.ctx ctx with
  | none => exact ⟨s.ctxs, s.sessions, by rw [State.countTenant, hc]⟩
  | some c =>
    obtain ⟨k, sessions, h⟩ := State.countTenant_eq hc place n
    exact ⟨_, _, h⟩

theorem State.countLand_keeps (s : State) (y : Strm) : ∃ ctxs sessions, s.countLand y = { s with ctxs := ctxs, sessions := sessions } := by
  unfold State.countLand
  obtain ⟨x, r, h⟩ := s.countTenant_keeps y.ctx tStreamBytes (if y.kind = 5 || y.kind = 6 then 65536 else 256)
  rw [h]
  dsimp only
  split
  · obtain ⟨x', r', h'⟩ := State.countTenant_keeps { s with ctxs := x, sessions := r } y.ctx tPagesIn 1
    exact ⟨x', r', h'⟩
  · obtain ⟨x', r', h'⟩ := State.countTenant_keeps { s with ctxs := x, sessions := r } y.ctx tPagesOut 1
    exact ⟨x', r', h'⟩
  · obtain ⟨x', r', h'⟩ := State.countTenant_keeps { s with ctxs := x, sessions := r } y.ctx tPagesOut 1
    exact ⟨x', r', h'⟩
  · exact ⟨x, r, rfl⟩

/-- A transfer of a stream that was abandoned is drained: no byte outside the stream's buffer changes, and no other stream. -/
theorem State.drainOne_keeps (s : State) (k : Nat) (y : Strm) (i : Nat) :
    (∃ streams mem, s.drainOne k y i = { s with streams := streams, mem := mem }) ∧ (∀ m, m ≠ k → (s.drainOne k y i).strm m = s.strm m) ∧
      ∀ a, a < (sdBuffer y.desc).1 ∨ (sdBuffer y.desc).1 + (sdBuffer y.desc).2 ≤ a →
        readByte (s.drainOne k y i).mem a = readByte s.mem a := by
  unfold State.drainOne
  extract_lets left u w
  have hu : ∀ m, m ≠ k → u.strm m = s.strm m := fun m hm => by
    simp [u, State.modStrm, State.strm, Tab.find_modify, Ne.symm hm]
  have hzero : (∃ mem, w = { u with mem := mem }) ∧ ∀ a, a < (sdBuffer y.desc).1 ∨ (sdBuffer y.desc).1 + (sdBuffer y.desc).2 ≤ a →
      readByte w.mem a = readByte s.mem a := by
    dsimp only [w]
    unfold State.zeroBuffer
    split
    · refine ⟨⟨_, rfl⟩, fun a ha => ?_⟩
      rw [readByte_zeroRange, if_neg (by omega)]
      rfl
    · exact ⟨⟨_, rfl⟩, fun _ _ => rfl⟩
  obtain ⟨⟨mem, hw⟩, hmem⟩ := hzero
  split
  · exact ⟨⟨_, _, rfl⟩, hu, fun _ _ => rfl⟩
  · split
    · exact ⟨⟨u.streams, mem, hw⟩, fun m hm => by rw [hw]; exact hu m hm, hmem⟩
    · refine ⟨⟨u.streams.del k, mem, by rw [hw]; rfl⟩, fun m hm => ?_, hmem⟩
      rw [hw]
      simp only [State.delStrm, State.strm, Tab.find_del, if_neg (Ne.symm hm)]
      exact hu m hm

/-- A transfer lands: its bytes stand at its destination, and its credit is free. -/
theorem State.landOne_eq {s : State} {k i : Nat} {y : Strm} {data : Bytes} (hy : s.strm k = some y) (hd : y.desc ≠ [])
    (hdst : isLocal (sdDstKind y.desc) = true) (huse : ∀ n, y.use ≠ .feed n) :
    (s.landOne k y i data).strm k =
        some { y with outstanding := y.outstanding.filter (fun p => decide (p.1 ≠ i)), landed := y.landed ++ [i] } ∧
      (∀ m, m ≠ k → (s.landOne k y i data).strm m = s.strm m) ∧
      ∃ streams ctxs sessions, s.landOne k y i data = { s with
        streams := streams, ctxs := ctxs, sessions := sessions
        mem := ((landAddrs y i).zip data).foldl (fun m p => writeByte m p.1 p.2) s.mem } := by
  have hfind : s.streams.find k = some y := hy
  have hdata : s.landData y i data = { s with mem := ((landAddrs y i).zip data).foldl (fun m p => writeByte m p.1 p.2) s.mem } :=
    if_pos (by simp [hd, hdst])
  obtain ⟨ctxs, sessions, hcount⟩ := State.countLand_keeps
    { s with mem := ((landAddrs y i).zip data).foldl (fun m p => writeByte m p.1 p.2) s.mem } y
  unfold State.landOne
  rw [hdata, hcount]
  extract_lets u half w
  have hhalves : (match y.use with | .feed _ => firstGap (y.landed ++ [i]) / half | _ => y.halves) = y.halves := by
    split
    case h_1 n h => exact absurd h (huse n)
    case h_2 => rfl
  have hw : w.strm k = some { y with outstanding := y.outstanding.filter (fun p => decide (p.1 ≠ i)), landed := y.landed ++ [i] } := by
    simp only [w, u, State.strm, State.modStrm, Tab.find_modify, hfind, if_true, Option.map_some, hhalves]
  rw [hw]
  dsimp only
  rw [if_neg (by simp [hd])]
  exact ⟨hw, fun m hm => by simp [w, u, State.strm, State.modStrm, Tab.find_modify, Ne.symm hm], _, ctxs, sessions, rfl⟩

/-- A clean line between ends in module memory changes nothing. -/
theorem State.landLine_clean {s : State} {y : Strm} (hd : y.desc ≠ []) (hsrc : isLocal (sdSrcKind y.desc) = true) (i : Nat) :
    (s.landLine y i .clean).drainHost y = s := by
  obtain ⟨hkind, hhost, -⟩ := isLocal_spec hsrc
  have hline : s.landLine y i .clean = s := by
    unfold State.landLine
    rw [if_pos hd]
    rcases hkind with h | h
    · rw [if_pos h]
      rfl
    · exact (if_neg (by rw [h]; decide)).trans ((if_pos h).trans rfl)
  rw [hline, State.drainHost, if_neg (by simp [hhost])]

/-- Settles O50. -/
theorem transfersAreIssuedAndLand : Obligations.transfers_are_issued_and_land := by
  refine ⟨fun s k y hy hst hup => ⟨fun hk hd => ?_, fun i hi => ?_, fun hk hmay hsrc hdst hawake partials => ?_, fun hk => ?_, fun hk => ?_,
    fun hk b => ?_, fun hk => ?_⟩, fun s k i y bytes hy => ⟨fun hnone e => ?_, fun data hfind hup hd hsrc hdst =>
      ⟨fun hgone e => ?_, fun hlive hspoils => ?_, fun hlive hspoils huse hawake hwf => ?_⟩⟩⟩
  · rw [exec, execCopy, ← hk, State.runningOf_of hy hst hup]
    dsimp only
    rw [if_pos hd]
    rfl
  · have hexec : exec i s = .next (s.moveOne k y).makeStarts.settle := by
      rcases hi with ⟨rfl, hk, hd⟩ | ⟨rfl, hk⟩ | ⟨rfl, hk⟩
      · rw [exec, execCopy, ← hk, State.runningOf_of hy hst hup]
        dsimp only
        rw [if_neg hd]
        rfl
      · rw [exec, execStrided, ← hk, State.runningOf_of hy hst hup]
        rfl
      · rw [exec, execRotate, ← hk, State.runningOf_of hy hst hup]
        rfl
    refine ⟨hexec, fun hmay hsrc hdst hawake => ?_⟩
    rw [State.moveOne_local hmay hsrc hdst hawake] at hexec
    obtain ⟨hown, hother⟩ := State.issue_eq hy ((sdSrcAddrs y.desc y.issued).map (readByte s.mem))
    exact ⟨_, hexec, hown, hother, rfl⟩
  · have hexec := exec_reduceHop_owner (hk ▸ State.runningOf_of hy hst hup) hmay hsrc hdst hawake partials
    obtain ⟨tiles, htiles⟩ := s.noteOwner_eq y
      (hopSums (slice partials 0 256) (readWords s.mem (modAddr (sdSrc y.desc) + 1024 * y.issued) 256))
    dsimp only at hexec
    rw [htiles] at hexec
    obtain ⟨hown, hother⟩ := State.issue_eq (s := { s with tiles := tiles }) (k := k) (y := y) hy
      ((hopSums (slice partials 0 256) (readWords s.mem (modAddr (sdSrc y.desc) + 1024 * y.issued) 256)).flatMap (fun w => leBytes 4 w.toNat))
    exact ⟨_, hexec, hown, hother, rfl⟩
  · rw [exec, execCopy, State.runningOf_other hy hk]
  · rw [exec, execStrided, State.runningOf_other hy hk]
  · rw [exec, execReduceHop, State.runningOf_other hy hk]
  · rw [exec, execRotate, State.runningOf_other hy hk]
  · rw [exec, execTransferLand, hy]
    dsimp only
    rw [hnone]
  · have hexec := exec_transferLand (bytes := bytes) hy hfind hup hd hsrc hdst e
    rw [if_neg (by simp [hgone]), if_pos hgone] at hexec
    obtain ⟨⟨streams, mem, heq⟩, hother, hmem⟩ := s.drainOne_keeps k y i
    exact ⟨_, hexec, hmem, hother, by rw [heq]⟩
  · rw [exec_transferLand hy hfind hup hd hsrc hdst, if_pos (by simp [hlive, hspoils, lineLost])]
  · have hexec := exec_transferLand (bytes := bytes) hy hfind hup hd hsrc hdst .clean
    rw [if_neg (by simp [hspoils]), if_neg (by simp [hlive]), if_neg (by simp [hawake]), if_neg (by simp [lineLost]),
      State.landLine_clean hd hsrc] at hexec
    obtain ⟨hown, hother, streams, ctxs, sessions, heq⟩ := State.landOne_eq (i := i) (data := data) hy hd hdst huse
    refine ⟨_, hexec, hown, by rw [heq], fun a ha => ?_, hother, by rw [heq]⟩
    rw [heq]
    exact readByte_foldl_writeByte hwf _ fun p hp h => ha (h ▸ (List.of_mem_zip hp).1)

end Sys2Proof.Machine
end

section
/-! PROOFS. Pages of the module's own streams (O51). A RESTORE whose image is another context's ends without effect on the variant, which
is RESIDENT again (R349, R429, log 132); the statement has the stream end as any other read does, after which the variant would be
LOST. -/

namespace Sys2Proof.Machine

/-- An ACTIVE context homed here, with the settings of the shipped profile. -/
def foreignImageCtx : Ctx :=
  { newCtx true 1 [1] (some [2]) 5 0 (settingsOf (Profile.shipped0 1)
      ⟨none, none, none, none, none, none, none, none, none, none, none, none, none, none, none, none, none⟩ 0 []) none with st := .active }

/-- The stream that reads the image of variant 0, its head not yet read. -/
def foreignImageStrm : Strm :=
  { ctx := 0, id := 0, use := .restoring 0, kind := 6, engine := 4, desc := [], st := .running, issued := 0, outstanding := [],
    landed := [], pages := [], head := none, region := some ⟨3, 7, 0, 16⟩, baseSeq := 0, total := 1, credits := 1, classes := [2],
    halves := 0, consumed := 0, discard := false, later := none }

/-- Variant 0: it was RESIDENT when its RESTORE was accepted, and now loads from the image. -/
def foreignImageVar : Var :=
  { State.reset.blankVar 0 [0] 2 0 with
    st := .loading, restore := some ⟨⟨0, 1, 1, 0, opRestore, 0, 0⟩, ⟨3, 7, 0, 16⟩, false, true, true⟩ }

/-- A module that is up, with that context, variant and stream. -/
def foreignImageState : State :=
  { State.reset with
    power := { Power.reset with mode := .active }, ctxs := [(0, foreignImageCtx)], vars := [(0, foreignImageVar)],
    streams := [(5, foreignImageStrm)] }

/-- The head page of an image of a context with another uid. -/
def foreignImagePage : SealedPage := ⟨2, 1, 0, 0, 0, 1, 0, ⟨[3], [4]⟩, true, .head ⟨[3], [], [], [], 1, 1, 0, 1, 0⟩⟩

/-- The module once the read has failed: the variant is LOST and no stream is open. -/
def foreignImageLost (out : List Out) (ports : Tab Port) : State :=
  { foreignImageState with
    vars := [(0, { foreignImageVar with st := .lost, restore := none })], streams := [], out := out, ports := ports }

/-- A read that fails loses the variant. -/
theorem foreignImage_failRead (out : List Out) (ports : Tab Port) :
    { foreignImageState with out := out, ports := ports }.failRead 5 stNotPermitted false = foreignImageLost out ports := rfl

/-- Nothing is to start then. -/
theorem foreignImageLost_makeStarts (out : List Out) (ports : Tab Port) :
    (foreignImageLost out ports).makeStarts = foreignImageLost out ports := rfl

/-- Nor does anything settle but the readiness of the context. -/
theorem foreignImageLost_settle (out : List Out) (ports : Tab Port) :
    (foreignImageLost out ports).settle = (foreignImageLost out ports).noteReady := by
  have hsent : (foreignImageLost out ports).releaseSent = foreignImageLost out ports := rfl
  have hkeys : (foreignImageLost out ports).vars.keys = [0] := rfl
  have hload : (foreignImageLost out ports).tryLoad 0 = foreignImageLost out ports := rfl
  have hmarked : (foreignImageLost out ports).openMarked 0 = foreignImageLost out ports := rfl
  have hspaces : (foreignImageLost out ports).trySpaces = foreignImageLost out ports := rfl
  have hstreams : (foreignImageLost out ports).streams.keys = [] := rfl
  have hquiet : (foreignImageLost out ports).reportQuiet = foreignImageLost out ports := rfl
  have hends : (foreignImageLost out ports).endReclaims = foreignImageLost out ports := rfl
  have hform : (foreignImageLost out ports).formAll = foreignImageLost out ports := rfl
  unfold State.settle
  simp only [hsent, hkeys, eachDo, List.foldl_cons, List.foldl_nil, hload, hmarked, hspaces, hstreams, hquiet, hends, hform]

/-- Readiness changes no variant. -/
theorem State.noteReady_vars (s : State) : s.noteReady.vars = s.vars := by
  obtain ⟨f, -, heq⟩ := s.noteReady_eq
  obtain ⟨mem, tiles, hold, -⟩ := State.swapsTiles_holdTiles { s with ctxs := s.ctxs.each f }
  rw [heq, hold]

/-- So a read that fails leaves the variant LOST. -/
theorem foreignImage_failRead_lost (out : List Out) (ports : Tab Port) :
    ({ foreignImageState with out := out, ports := ports }.failRead 5 stNotPermitted false).makeStarts.settle.varState 0 = .lost := by
  rw [foreignImage_failRead, foreignImageLost_makeStarts, foreignImageLost_settle, State.varState, State.var, State.noteReady_vars]
  rfl

/-- The state of variant 0 after a step. -/
def varStateAfter : Res → Option VarState
  | .next s => some (s.varState 0)
  | _ => none

/-- The head read makes the variant RESIDENT again. -/
theorem foreignImage_pageIn : varStateAfter (exec (.pageIn 5 (.data foreignImagePage)) foreignImageState) = some .resident := by decide +kernel

/-- Refutes O51: the image of a RESTORE is another context's. The step answers the RESTORE with NOT_PERMITTED and leaves the variant
RESIDENT, as it was; the statement's clause on a foreign page would have the read fail, and the variant LOST. -/
theorem not_pagesMoveAndLinesAreScrubbed : ¬ Obligations.pages_move_and_lines_are_scrubbed := by
  unfold Obligations.pages_move_and_lines_are_scrubbed
  intro h
  obtain ⟨-, -, hin⟩ := h.1 foreignImageState 5 foreignImageStrm foreignImageCtx ⟨3, 7, 0, 16⟩ rfl rfl rfl rfl rfl rfl rfl
  obtain ⟨u, hu, -, -, -, -, hforeign, -⟩ := hin rfl
  have hread := foreignImage_pageIn
  rw [hforeign foreignImagePage (by decide +kernel), hu] at hread
  exact absurd ((foreignImage_failRead_lost u.out u.ports).symm.trans (Option.some.inj hread)) (by decide)

end Sys2Proof.Machine
end

section
/-! PROOFS. Frames a ring port delivers (O52): what `arrive` and FRAME_FORWARD come to on a ring port with the bypass open. -/

namespace Sys2Proof.Machine

/-- With the bypass open nothing is heard past it. -/
theorem State.tap_open {s : State} (h : s.board.bypassOpen = true) (p : Nat) (f : Frame) : s.tap p f = s := by
  unfold State.tap
  rw [h]
  rfl

/-- A frame for this member that is taken comes to its use. -/
theorem State.arrive_taken {s u : State} {p : Nat} {f : Frame} (hport : s.ringPort p = true) (hopen : s.board.bypassOpen = true)
    (hme : s.forMe f = true) (htake : s.take p f = (true, u)) {m : Nat} (hm : f.msgType = m) (use : State → Res) :
    s.arrive m p f use = use u := by
  unfold State.arrive
  rw [if_neg (by simp [hm, hport, hme]), State.tap_open hopen]
  simp only [htake]
  rfl

/-- One that is not taken comes to none. -/
theorem State.arrive_left {s u : State} {p : Nat} {f : Frame} (hport : s.ringPort p = true) (hopen : s.board.bypassOpen = true)
    (hme : s.forMe f = true) (htake : s.take p f = (false, u)) {m : Nat} (hm : f.msgType = m) (use : State → Res) :
    s.arrive m p f use = .next u := by
  unfold State.arrive
  rw [if_neg (by simp [hm, hport, hme]), State.tap_open hopen]
  simp only [htake]
  rfl

theorem State.port_modPort (s : State) (p : Nat) (f : Port → Port) : (s.modPort p f).port p = f (s.port p) := by
  simp [State.port, State.modPort, Tab.getOr, Tab.find_put_self]

/-- An event changes no port. -/
theorem State.raise_ports (s : State) (e : Event) : (s.raise e).ports = s.ports := by
  obtain ⟨r, k, x, h⟩ := s.raise_eq e
  rw [h]

/-- A neighbour met is recorded at its port (R254). -/
theorem State.meetNeighbour_neighbour (s : State) (p : Nat) (d : Lldpdu) : ((s.meetNeighbour p d).port p).neighbour = some d := by
  have hnew : ((s.newNeighbour p d).port p).neighbour = some d := by
    unfold State.newNeighbour State.raiseModule State.raiseFor
    rw [State.port, State.raise_ports, ← State.port, State.port_modPort]
  unfold State.meetNeighbour
  split
  · split
    · rw [State.port_modPort]
    · exact hnew
  · exact hnew

/-- A passing frame that its link accepts leaves, or is dropped (R243). -/
theorem exec_frameForward_accepted {s u : State} {p : Nat} {f : Frame} (hport : s.ringPort p = true) (hopen : s.board.bypassOpen = true)
    (hpass : s.passes f = true) (hacc : s.accept p f = (true, u)) :
    exec (.frameForward p f) s = if u.passDrops f then
        .next (if reservedType f.msgType && (f.bcast || decide (f.dst = u.pos)) then u.dropFrame p f else u.dropPassing p f)
      else .next ((u.modLink p (fun l => { l with passing := l.passing ++ [⟨f, u.sliceFor p f⟩] })).pumpBoth p) := by
  rw [exec, execFrameForward, if_neg (by simp [hport, hpass])]
  simp only [State.tap_open hopen, hacc]
  rfl

/-- The leader's step keeps the vote of a member. -/
theorem State.findStep_takeVote {s : State} {v n : Nat} {t : TStep} (h : s.findStep v n = some t) (hl : t.leader = true) (src : Nat)
    (w : Vote) (l : List (Nat × TensorState)) :
    (s.takeReduce v src (.vote n w l)).findStep v n = some { t with votes := t.votes.put src w } := by
  rw [State.takeReduce, State.takeVote, h]
  dsimp only
  rw [if_neg (by simp [hl])]
  exact State.findStep_modStep h (f := fun t => { t with votes := t.votes.put src w })

/-- And its report of the check. -/
theorem State.findStep_takeCheck {s : State} {v n : Nat} {t : TStep} (h : s.findStep v n = some t) (hl : t.leader = true) (src : Nat)
    (bad : Bool) (l : List LayerStat) :
    (s.takeReduce v src (.check n bad l)).findStep v n = some { t with checks := t.checks.put src (bad, l) } := by
  have hkeeps : ∀ x : TStep, (if x.leader then { x with checks := x.checks.put src (bad, l) } else x).variant = x.variant ∧
      (if x.leader then { x with checks := x.checks.put src (bad, l) } else x).number = x.number := by
    intro x
    split
    · exact ⟨rfl, rfl⟩
    · exact ⟨rfl, rfl⟩
  refine (State.findStep_modStep h (f := fun t => if t.leader then { t with checks := t.checks.put src (bad, l) } else t)
    (fun x => (hkeeps x).1) (fun x => (hkeeps x).2)).trans ?_
  rw [if_pos hl]

/-- Settles O52: what arrives is handed to the use of its kind, what passes goes on or is dropped. -/
theorem framesAreDelivered : Obligations.frames_are_delivered := by
  unfold Obligations.frames_are_delivered
  intro s u p f hport hopen
  refine ⟨fun hme htake => ⟨fun hm => ?_, fun hm => ?_, fun v m hm hp => ?_, fun m hm hp => ?_, fun d hm hp => ?_, fun e hm hp hkeep => ?_,
    fun e hm hp hidle hlow => ?_⟩, fun hme htake => ⟨fun hm => ?_, fun hm => ?_, fun hm => ?_⟩,
    fun hpass hacc => ⟨fun hdrop hres => ?_, fun hdrop => ?_⟩, fun hpass => ?_, fun v n w l t ht hl => ?_, fun v n bad l t ht hl => ?_⟩
  · rw [exec, execCaneStreamFrame, State.arrive_taken hport hopen hme htake hm]
    rfl
  · rw [exec, execIdle, State.arrive_taken hport hopen hme htake hm]
  · rw [exec, execReduce, State.arrive_taken hport hopen hme htake hm, hp]
    rfl
  · rw [exec, execAnnounce, State.arrive_taken hport hopen hme htake hm, hp]
    rfl
  · refine ⟨?_, u.meetNeighbour_neighbour p d⟩
    simp only [exec, execLldp]
    rw [if_pos hp, State.arrive_taken hport hopen hme htake hm]
  · rw [exec, execRekey, State.arrive_taken hport hopen hme htake hm, hp]
    dsimp only
    rw [if_neg]
    rcases hkeep with h | h <;> simp [h]
  · rw [exec, execRekey, State.arrive_taken hport hopen hme htake hm, hp]
    dsimp only
    rw [if_pos (by simp [hidle, hlow])]
    rfl
  · rw [exec, execCaneStreamFrame, State.arrive_left hport hopen hme htake hm]
  · rw [exec, execReduce, State.arrive_left hport hopen hme htake hm]
  · rw [exec, execAnnounce, State.arrive_left hport hopen hme htake hm]
  · rw [exec_frameForward_accepted hport hopen hpass hacc, if_pos hdrop, hres]
    rfl
  · rw [exec_frameForward_accepted hport hopen hpass hacc, if_neg (by simp [hdrop])]
    rfl
  · rw [exec, execFrameForward, if_pos (by simp [hpass])]
  · exact ⟨_, State.findStep_takeVote ht hl f.src w l, rfl⟩
  · exact ⟨_, State.findStep_takeCheck ht hl f.src bad l, rfl⟩

end Sys2Proof.Machine
end

section
/-! PROOFS. The state of a ring link (O53). When a link goes down, a unit whose bundles were lost with it loses the answers it awaits (R264,
R408); the statement's clause on the expiry of a hold leaves that out. -/

namespace Sys2Proof.Machine

theorem State.Sends.turnRound (s : State) (p : Nat) : s.Sends (s.turnRound p) := by
  unfold State.turnRound State.pumpBoth
  exact (State.Sends.modLink s p _).trans ((State.Sends.modLink _ _ _).trans ((State.Sends.pump _ _).trans (State.Sends.pump _ _)))

/-- A bundle of context 0 for an expert on another member, sent and not acknowledged. -/
def lostBundleFrame : Frame :=
  { msgType := 2, bcast := false, keyPhase := false, dst := 1, src := 0, hops := 0, length := 64, ctx := 0, tag := 0, linkSeq := 0,
    e2eSeq := 0, control := ⟨0, 0, 0, 0, false, false, 0, 0⟩,
    payload := .bundle
      { kind := 1, elemFmt := 0, layer := 0, ctx := 0, variant := 0, expert := 0, parison := 0, rows := 1, epoch := 0, srcPos := 0,
        stash := false, step := 1, microBatch := 0, incarnation := 1, key := 0, payload := [], rowFp := [], tag := 0, rowNos := [0],
        ranks := [0], generation := 0 },
     fecOk := true, authentic := true }

/-- The stream of answers to the bundles of context 0. -/
def answersStrm : Strm := { newStrm 0 0 .answers 1 0 [] 0 with classes := [2], st := .running }

/-- A module with both ring roles whose west link is held, that bundle on it. -/
def lostBundleState : State :=
  { State.reset with
    power := { Power.reset with mode := .active }, streams := [(5, answersStrm)],
    links := [(west, { Link.reset with st := .held, replay := [lostBundleFrame] })] }

/-- That module with whatever links, output, frame numbers, sessions, counters, flash and free values. -/
def lostBundleWith (links : Tab Link) (out : List Out) (numbers : Tab Nat) (sessions : Tab Session) (counters : Tab Counter)
    (flash : Flash) (freeCount : Nat) : State :=
  { lostBundleState with
    links := links, out := out, ring := { Ring.reset with e2eTx := numbers }, sessions := sessions, counters := counters, flash := flash,
    freeCount := freeCount }

section
variable (links : Tab Link) (out : List Out) (numbers : Tab Nat) (sessions : Tab Session) (counters : Tab Counter)
  (flash : Flash) (freeCount : Nat)

theorem lostBundleWith_makeStarts :
    (lostBundleWith links out numbers sessions counters flash freeCount).makeStarts =
      lostBundleWith links out numbers sessions counters flash freeCount := rfl

/-- Nothing settles there but the readiness of contexts. -/
theorem lostBundleWith_settle :
    (lostBundleWith links out numbers sessions counters flash freeCount).settle =
      (lostBundleWith links out numbers sessions counters flash freeCount).noteReady := by
  generalize hs : lostBundleWith links out numbers sessions counters flash freeCount = s
  have hsent : s.releaseSent = s := by subst hs; rfl
  have hvars : s.vars.keys = [] := by subst hs; rfl
  have hspaces : s.trySpaces = s := by subst hs; rfl
  have hstreams : s.streams.keys = [5] := by subst hs; rfl
  have hstrm : s.strm 5 = some answersStrm := by subst hs; rfl
  have hopen : s.tryOpen 5 = s := by subst hs; rfl
  have hquiet : s.reportQuiet = s := by subst hs; rfl
  have hends : s.endReclaims = s := by subst hs; rfl
  have hform : s.formAll = s := by subst hs; rfl
  unfold State.settle
  simp only [hsent, hvars, eachDo, List.foldl_cons, List.foldl_nil, hspaces, hstreams, hstrm, hopen, ite_self, hquiet, hends, hform]

/-- So the stream of answers runs on. -/
theorem lostBundleWith_keeps_stream :
    ((lostBundleWith links out numbers sessions counters flash freeCount).makeStarts.settle.strm 5).isSome = true := by
  obtain ⟨f, -, heq⟩ := (lostBundleWith links out numbers sessions counters flash freeCount).noteReady_eq
  obtain ⟨mem, tiles, hold, -⟩ := State.swapsTiles_holdTiles
    { lostBundleWith links out numbers sessions counters flash freeCount with
      ctxs := (lostBundleWith links out numbers sessions counters flash freeCount).ctxs.each f }
  rw [lostBundleWith_makeStarts, lostBundleWith_settle, heq, hold]
  rfl

end

/-- Whether a step leaves stream 5. -/
def keepsStream5 : Res → Bool
  | .next s => (s.strm 5).isSome
  | _ => false

/-- The step ends the stream of answers. -/
theorem linkHoldExpiry_ends_answers : keepsStream5 (exec (.linkHoldExpiry west) lostBundleState) = false := by decide +kernel

/-- Refutes O53: the hold of a link expires, and a bundle sent over it is lost. The step ends the stream that awaits its answer; by the
statement the stream would run on. -/
theorem not_ringLinksChangeState : ¬ Obligations.ring_links_change_state := by
  unfold Obligations.ring_links_change_state
  intro h
  obtain ⟨-, -, -, -, -, hexpiry, -⟩ := h lostBundleState west _ (by decide) rfl
  obtain ⟨u, hexec, -, -, -, hu⟩ := hexpiry rfl rfl
  obtain ⟨links, frames, numbers, hturn, -⟩ := State.Sends.turnRound u west
  have hnone : u.endRingStreams west (fun x => decide (sdDstKind x.desc = west) && x.inFrames (lostBundleState.link west).replay) = u := by
    rw [hu]
    rfl
  have hleft : u.turnRound west = lostBundleWith links (u.out ++ frames) numbers u.sessions u.counters u.flash u.freeCount := by
    rw [hturn, hu]
    rfl
  have hkeeps := linkHoldExpiry_ends_answers
  rw [hexec, hnone, hleft, keepsStream5, lostBundleWith_keeps_stream] at hkeeps
  exact absurd hkeeps (by decide)

end Sys2Proof.Machine
end

section
/-! PROOFS. Roll calls (O54): issued by the anchor, passed on by each member in the ring, taken by all. -/

namespace Sys2Proof.Machine

/-- The room a roll call leaves free is on its link only. -/
theorem State.freeRoll_eq (s : State) (p : Nat) (f : Frame) :
    ∃ links, (if f.dst = s.pos then s.freeLocal p f else s.freePassing p ⟨f, s.sliceFor p f⟩) = { s with links := links } := by
  unfold State.freeLocal
  split
  · split
    · exact ⟨_, rfl⟩
    · exact ⟨_, rfl⟩
  · exact ⟨_, rfl⟩

/-- A collect pass that its link accepts goes on with the entry of a member that is not the anchor (R256). -/
theorem exec_rollCallCollect_passes {s u : State} {p : Nat} {f : Frame} {r : RollCall} (hport : s.ringPort p = true)
    (hopen : s.board.bypassOpen = true) (hm : f.msgType = 4) (hp : f.payload = .roll r) (hb : f.bcast = false) (hpass : r.pass = 1)
    (hacc : s.accept p f = (true, u)) (hin : u.inRing = true) (hanchor : u.isAnchor = false) :
    exec (.rollCallCollect p f) s =
      .next (((if f.dst = u.pos then u.freeLocal p f else u.freePassing p ⟨f, u.sliceFor p f⟩).writeEntry p f r).settle) := by
  obtain ⟨links, hfree⟩ := u.freeRoll_eq p f
  rw [exec, execRollCallCollect, hp]
  dsimp only
  rw [if_neg (by simp [hport, hm, hb, hpass]), State.tap_open hopen]
  simp only [hacc, hfree]
  rw [if_neg (by decide), if_pos (show State.inRing { u with links := links } = true from hin), State.takeCollect,
    if_neg (by rw [show State.isAnchor { u with links := links } = u.isAnchor from rfl, hanchor]; decide)]
  rfl

/-- A publish pass that is taken becomes the table of a member that is not the anchor (R256). -/
theorem exec_rollCallPublish_taken {s u : State} {p : Nat} {f : Frame} {r : RollCall} (hport : s.ringPort p = true)
    (hopen : s.board.bypassOpen = true) (hm : f.msgType = 4) (hp : f.payload = .roll r) (hb : f.bcast = true) (hpass : r.pass = 2)
    (htake : s.take p f = (true, u)) (hin : u.inRing = true) (hanchor : u.isAnchor = false) :
    exec (.rollCallPublish p f) s = .next (u.takeTable r).makeStarts.settle := by
  have hlistens : s.listens = false := by simp [State.listens, hopen]
  have hme : s.forMe f = true := by simp [State.forMe, hb]
  rw [exec, execRollCallPublish, hp]
  dsimp only
  rw [if_neg (by simp [hport, hm, hb, hpass]), hlistens, if_neg (by decide), State.arrive_taken hport hopen hme htake hm]
  rw [if_neg (by simp [hin, hanchor])]
  rfl

/-- Settles O54: the anchor issues a roll call, and every other member passes it on and takes its table. -/
theorem rollCallsGoRound : Obligations.roll_calls_go_round := by
  unfold Obligations.roll_calls_go_round
  intro s
  refine ⟨fun ha => ⟨?_, fun hout => ?_⟩, fun ha => ⟨?_, ?_⟩, fun hst hne => ?_, fun hst hb => ?_, fun hb => ?_,
    fun u p f r hport hopen hm hp => ⟨fun hb hpass hacc hin hanchor => exec_rollCallCollect_passes hport hopen hm hp hb hpass hacc hin hanchor,
      fun hb hpass htake hin hanchor => exec_rollCallPublish_taken hport hopen hm hp hb hpass htake hin hanchor, fun hb => ?_, fun hb => ?_⟩⟩
  · rw [exec, execRollCallTimer, if_pos ha]
    rfl
  · rw [exec, execCollectPassTimeout, if_pos (by simp [ha, hout])]
    rfl
  · rw [exec, execRollCallTimer, if_neg (by simp [ha])]
    rfl
  · rw [exec, execCollectPassTimeout, if_neg (by simp [ha])]
    rfl
  · rw [exec, execAnchorLost, hst]
    dsimp only
    rw [if_neg hne]
    rfl
  · rw [exec, execAnchorBackoffExpiry, if_neg (by simp [hb]), hst]
    rfl
  · rw [exec, execAnchorBackoffExpiry, if_pos (by simp [hb])]
  · rw [exec, execRollCallCollect, hp]
    dsimp only
    rw [if_pos (by simp [hb])]
  · rw [exec, execRollCallPublish, hp]
    dsimp only
    rw [if_pos (by simp [hb])]

end Sys2Proof.Machine
end

section
/-! PROOFS. Joining and leaving the ring (O55): the commands of the gaffer, and the steps that open and close the bypass. -/

namespace Sys2Proof.Machine

/-- An event of the module changes the sessions that receive it and the module's counters. -/
theorem State.raise_module {e : Event} (he : e.ctx = none) (s : State) : ∃ r k, s.raise e = { s with sessions := r, counters := k } := by
  unfold State.raise
  rw [he]
  split
  · dsimp only
    split
    · exact ⟨_, _, rfl⟩
    · rw [State.countError_eq]
      exact ⟨_, _, rfl⟩
  · exact ⟨_, _, rfl⟩

theorem State.raiseFor_eq (s : State) (code cause : Nat) (params : List (Nat × Bytes)) :
    ∃ r k, s.raiseFor code cause params = { s with sessions := r, counters := k } := State.raise_module rfl s

/-- A joiner that no RING_JOIN waits for becomes a MEMBER, and tells nobody but by an event. -/
theorem State.becomeMember_eq {s : State} (h : s.ring.joinTicket = none) :
    ∃ r k, s.becomeMember = { s with
      ring := { s.ring with st := .member, joinTicket := none, joinImage := none, heard := none }, sessions := r, counters := k } := by
  obtain ⟨r, k, hraise⟩ := State.raiseFor_eq
    { s with ring := { s.ring with st := .member, joinTicket := none, joinImage := none, heard := none } }
    evBypassOpened (causeOf none) [p32 0x90 s.ring.ringEpoch]
  refine ⟨r, k, Eq.trans ?_ hraise⟩
  unfold State.becomeMember
  dsimp only [State.modRing]
  rw [h]

/-- The first of a ring is its anchor at position 0, a MEMBER, under the next ring epoch (R262). -/
theorem State.foundRing_founds {s : State} (h : s.ring.joinTicket = none) :
    s.foundRing.ring.st = .member ∧ s.foundRing.ring.position = some 0 ∧ s.foundRing.ring.anchor = 0 ∧
      s.foundRing.ring.ringEpoch = (s.ring.ringEpoch + 1) % 2 ^ 32 ∧
      s.foundRing = { s with ring := s.foundRing.ring, sessions := s.foundRing.sessions, counters := s.foundRing.counters } := by
  unfold State.foundRing
  extract_lets founded table
  obtain ⟨r, k, heq⟩ := State.becomeMember_eq (s := founded.modRing (fun g => { g with table := some table })) h
  rw [heq]
  exact ⟨rfl, rfl, rfl, rfl, rfl⟩

/-- The bypass that opens for the first of a ring. -/
theorem State.bypassOpened_founds {s : State} {p : Nat} (hst : s.ring.st = .opening p) (hheard : s.ring.heard = none) :
    s.bypassOpened = State.foundRing { s with board := { s.board with bypassOpen := true, bypassMoving := none } } := by
  unfold State.bypassOpened
  dsimp only [State.modBoard]
  rw [hst]
  dsimp only
  rw [hheard]

/-- A module whose bypass has closed after a leave is out of the ring, under the next ring epoch (R265). -/
theorem State.bypassClosed_leaves {s : State} (hst : s.ring.st = .closing) :
    s.bypassClosed.board.bypassOpen = false ∧ s.bypassClosed.board.bypassMoving = none ∧ s.bypassClosed.ring.st = .out ∧
      s.bypassClosed.ring.position = none ∧ s.bypassClosed.ring.table = none ∧
      s.bypassClosed.ring.ringEpoch = (s.ring.ringEpoch + 1) % 2 ^ 32 ∧ s.bypassClosed.mem = s.mem ∧ s.bypassClosed.ctxs = s.ctxs := by
  unfold State.bypassClosed
  dsimp only [State.modBoard]
  rw [hst]
  dsimp only
  obtain ⟨r, k, hraise⟩ := State.raiseFor_eq
    (State.modRing (State.outOfRing { s with board := { s.board with bypassOpen := false, bypassMoving := none } })
      (fun g => { g with ringEpoch := (s.ring.ringEpoch + 1) % 2 ^ 32 }))
    evBypassClosed (causeOf s.ring.leaveTicket) [p32 0x90 ((s.ring.ringEpoch + 1) % 2 ^ 32)]
  rw [hraise]
  split
  · next t ht =>
    obtain ⟨o, r', hans⟩ := State.answerWith_eq
      { State.modRing (State.outOfRing { s with board := { s.board with bypassOpen := false, bypassMoving := none } })
          (fun g => { g with ringEpoch := (s.ring.ringEpoch + 1) % 2 ^ 32 }) with sessions := r, counters := k }
      t stOk [p32 0x81 ((s.ring.ringEpoch + 1) % 2 ^ 32)]
    rw [hans]
    exact ⟨rfl, rfl, rfl, rfl, rfl, rfl, rfl, rfl⟩
  · exact ⟨rfl, rfl, rfl, rfl, rfl, rfl, rfl, rfl⟩

/-! ## RING_JOIN and RING_LEAVE (R360, R362) -/

section
variable {s : State} {c : Cmd} {n : Nat} {ss : Session}

/-- A RING_JOIN that only answers: its branch comes to the answer, whatever the region's alignment. -/
theorem exec_ringJoin_answers {image : Option Region} {st : Nat} {p : List (Nat × Bytes)} (h : Takes (specOf opRingJoin) c n ss s)
    (hc : Clear s ss) (haligned : ∀ r, image = some r → r.aligned = true) (hroles : s.ringRoles = true)
    (hbranch : s.ring.st = .member ∧ st = stOk ∧ p = [p8 0x81 s.pos, p32 0x82 s.ring.ringEpoch] ∨
      (s.ring.st = .leaving ∨ s.ring.st = .closing) ∧ st = stBusy ∧ p = []) :
    ∃ u : State, exec (.ringJoin c image) s = .next u ∧ SendsOnly (s.replyTo c opRingJoin st p) s u ∧
      u = { s with out := u.out, sessions := u.sessions } := by
  refine exec_gaffer_answers (u := s.awaiting c opRingJoin n) h hc (show _ = execRingJoin c image s from rfl) ?_ rfl rfl rfl rfl rfl
  have hring : (s.awaiting c opRingJoin n).ring = s.ring := rfl
  rw [if_neg (by cases image with | none => decide | some r => simp [haligned r rfl]),
    if_neg (by rw [show (s.awaiting c opRingJoin n).ringRoles = true from hroles]; decide), hring]
  rcases hbranch with ⟨hst, rfl, rfl⟩ | ⟨hst | hst, rfl, rfl⟩
  · rw [hst]
    rfl
  · rw [hst]
    rfl
  · rw [hst]
    rfl

/-- RING_JOIN of a module that is out begins to listen (R262). -/
theorem exec_ringJoin_listens {image : Option Region} (h : Takes (specOf opRingJoin) c n ss s)
    (haligned : ∀ r, image = some r → r.aligned = true) (hroles : s.ringRoles = true) (hst : s.ring.st = .out)
    (hmoving : s.board.bypassMoving = none) (hopen : s.board.bypassOpen = false) :
    exec (.ringJoin c image) s =
      .next ((s.awaiting c opRingJoin n).beginJoin (some (ticketOf c opRingJoin n ss.serial)) image) := by
  change execRingJoin c image s = _
  unfold execRingJoin
  rw [gaffer_takes h, if_neg (by cases image with | none => decide | some r => simp [haligned r rfl]),
    if_neg (by rw [show (s.awaiting c opRingJoin n).ringRoles = true from hroles]; decide),
    show (s.awaiting c opRingJoin n).ring.st = .out from hst]
  dsimp only
  rw [if_pos (by
    show (s.board.bypassMoving.isNone && !s.board.bypassOpen) = true
    rw [hmoving, hopen]
    rfl)]

/-- RING_LEAVE of a member with nothing homed here leaves (R362). -/
theorem exec_ringLeave_leaves (h : Takes (specOf opRingLeave) c n ss s) (hst : s.ring.st = .member) (hmay : s.mayLeave = true) :
    exec (.ringLeave c) s = .next { s.awaiting c opRingLeave n with
      ring := { s.ring with st := .leaving, leaveTicket := some (ticketOf c opRingLeave n ss.serial) } } := by
  rw [exec, execRingLeave, gaffer_takes h]
  dsimp only
  rw [if_pos (by
    show (decide (s.ring.st = .member) && s.mayLeave) = true
    rw [hst, hmay]
    rfl)]
  rfl

/-- Any other is BUSY. -/
theorem exec_ringLeave_busy (h : Takes (specOf opRingLeave) c n ss s) (hc : Clear s ss) (hno : s.ring.st ≠ .member ∨ s.mayLeave = false) :
    ∃ u : State, exec (.ringLeave c) s = .next u ∧ SendsOnly (s.replyTo c opRingLeave stBusy []) s u ∧
      u = { s with out := u.out, sessions := u.sessions } := by
  refine exec_gaffer_answers (u := s.awaiting c opRingLeave n) h hc (show _ = execRingLeave c s from rfl) ?_ rfl rfl rfl rfl rfl
  rw [if_neg]
  · rfl
  · show ¬ (decide (s.ring.st = .member) && s.mayLeave) = true
    rcases hno with hno | hno <;> simp [hno]

end

/-- Settles O55: each command by the state of the ring, each step of the bypass by what it opens or closes. -/
theorem modulesJoinAndLeave : Obligations.modules_join_and_leave := by
  unfold Obligations.modules_join_and_leave
  intro s c n ss hc
  refine ⟨fun r h hr => ?_, fun image h haligned hroles => ⟨fun hst => ?_, fun hst hmoving hopen => ?_, fun hst => ?_⟩,
    fun h => ⟨fun hst hmay => exec_ringLeave_leaves h hst hmay, fun hno => exec_ringLeave_busy h hc hno⟩, fun hst hheard => ?_,
    fun p hst hmoving hbase => ⟨fun hq => ?_, fun cause hq hcause => ?_, fun hq hcause => ?_⟩,
    fun p hst hmoving hheard hticket => ?_,
    fun e hst hentry he hmoving hwest heast hbundles => ?_,
    fun hst hmoving => ⟨s.bypassClosed, ?_, s.bypassClosed_leaves hst⟩, fun hmoving => ?_⟩
  · refine exec_gaffer_answers (u := s.awaiting c opRingJoin n) h hc (show _ = execRingJoin c (some r) s from rfl) ?_ rfl rfl rfl rfl rfl
    dsimp only
    rw [if_pos (by simp [hr])]
    rfl
  · exact exec_ringJoin_answers h hc haligned hroles (.inl ⟨hst, rfl, rfl⟩)
  · exact ⟨_, exec_ringJoin_listens h haligned hroles hst hmoving hopen, rfl, rfl, rfl, rfl, rfl⟩
  · exact exec_ringJoin_answers h hc haligned hroles (.inr ⟨hst, rfl, rfl⟩)
  · rw [exec, execNoRingTimeout, if_pos (by simp [hst, hheard])]
    rfl
  · rw [exec, execJoinQuietPasses, hst]
    dsimp only
    rw [if_neg (by simp; omega)]
  · rw [exec, execJoinQuietPasses, hst]
    dsimp only
    rw [if_pos (by simp [hq, hbase, hmoving]), hcause]
  · rw [exec, execJoinQuietPasses, hst]
    dsimp only
    rw [if_pos (by simp [hq, hbase, hmoving]), hcause]
    rfl
  · obtain ⟨hmember, hpos, hanchor, hepoch, heq⟩ := State.foundRing_founds
      (s := { s with board := { s.board with bypassOpen := true, bypassMoving := none } }) hticket
    refine ⟨_, ?_, ?_, ?_, hmember, hpos, hanchor, hepoch, ?_⟩
    · rw [exec, execBypassSettled, hmoving, ← State.bypassOpened_founds hst hheard]
      rfl
    · rw [heq]
    · rw [heq]
    · rw [heq]
  · rw [exec, execLeaveDrained, hentry]
    dsimp only
    rw [if_pos (by simp [hst, he, hmoving, hwest, heast, hbundles])]
    rfl
  · rw [exec, execBypassSettled, hmoving]
    rfl
  · rw [exec, execBypassSettled, hmoving]

end Sys2Proof.Machine
end

section
/-! PROOFS. Connections and ports (O57). The clause on a port that goes down speaks of every queue pair by its number; where the table
lists a number twice, on two ports, the step puts the first of them in error. No run reaches such a state (O3), but the statement does not
exclude it. -/

namespace Sys2Proof.Machine

/-- A queue pair of a port, in the OPEN state. -/
def openQp (port : Nat) : Qp := ⟨port, .openState, 0, [], fullRate, fullRate, 0⟩

/-- A module with port 0 up whose queue pair 1 is listed twice, on port 1 and on port 0. -/
def twicePaired : State :=
  { State.reset with qps := [(1, openQp 1), (1, openQp 0)], ports := [(0, { Port.reset with up := true })] }

/-- That module with whatever queue pairs, ports and output. -/
def twicePairedWith (qps : Tab Qp) (ports : Tab Port) (out : List Out) : State := { twicePaired with qps := qps, ports := ports, out := out }

/-- Nothing settles there. -/
theorem twicePairedWith_settle (qps : Tab Qp) (ports : Tab Port) (out : List Out) :
    (twicePairedWith qps ports out).settle = twicePairedWith qps ports out := by
  generalize hs : twicePairedWith qps ports out = s
  have hsent : s.releaseSent = s := by subst hs; rfl
  have hvars : s.vars.keys = [] := by subst hs; rfl
  have hspaces : s.trySpaces = s := by subst hs; rfl
  have hstreams : s.streams.keys = [] := by subst hs; rfl
  have hquiet : s.reportQuiet = s := by subst hs; rfl
  have hends : s.endReclaims = s := by subst hs; rfl
  have hform : s.formAll = s := by subst hs; rfl
  have hready : s.noteReady = s := by subst hs; rfl
  unfold State.settle
  simp only [hsent, hvars, eachDo, List.foldl_nil, hspaces, hstreams, hquiet, hends, hform, hready]

/-- The state of queue pair 1 after a step. -/
def qpStateAfter : Res → Option QpState
  | .next s => (s.qps.find 1).map (·.st)
  | _ => none

/-- The step puts the one on port 1 in error. -/
theorem fabricPortDown_errs_first : qpStateAfter (exec (.fabricPortDown 0) twicePaired) = some .error := by decide +kernel

/-- Refutes O57: port 0 goes down, and queue pair 1 is listed on port 1 before it is listed on port 0. The step puts it in error; by the
statement one that is found on another port stays. -/
theorem not_connectionsComeAndGo : ¬ Obligations.connections_come_and_go := by
  unfold Obligations.connections_come_and_go
  intro h
  obtain ⟨-, -, -, -, -, hdown, -⟩ := h twicePaired 0 (by decide)
  obtain ⟨u, hexec, -, hother, -, -, -, hu⟩ := hdown (by decide) (by simp [twicePaired, openQp])
  have hfound : u.qps.find 1 = some (openQp 1) := hother 1 (by decide)
  have hsettle : u.settle.resetIfDue = u := by
    rw [hu]
    exact congrArg State.resetIfDue (twicePairedWith_settle u.qps u.ports u.out)
  have herr := fabricPortDown_errs_first
  rw [hexec, hsettle, qpStateAfter, hfound] at herr
  exact absurd herr (by decide)

end Sys2Proof.Machine
end

section
/-! PROOFS. Inbound accesses of the fabric (O58): within a window they are served, any other is NAKed (R154 to R156). -/

namespace Sys2Proof.Machine

/-- An access wakes tiles at most (R441). -/
theorem State.wakeRange_eq (s : State) (a n : Nat) : ∃ tiles, s.wakeRange a n = { s with tiles := tiles } := by
  unfold State.wakeRange
  split
  · refine eachDo_induction (P := fun t => ∃ tiles, t = { s with tiles := tiles }) _ ⟨s.tiles, rfl⟩ fun k _ t ht => ?_
    obtain ⟨tiles, rfl⟩ := ht
    split
    · exact ⟨_, rfl⟩
    · exact ⟨_, rfl⟩
  · exact ⟨_, rfl⟩

section
variable {s : State} {qp key a k lo len : Nat} {q : Qp} {c : Ctx} {op : RdmaOp}

/-- With nothing received and no pause sent at its port, a queue pair that drains leaves it so. -/
theorem State.drainQp_stays_quiet (hq : s.qps.find qp = some q) (hrx : (s.port q.port).rx = []) (hx : (s.port q.port).xoffSent = []) :
    ∃ ports, s.drainQp qp = { s with ports := ports } ∧ (State.port { s with ports := ports } q.port).rx = [] ∧
      (State.port { s with ports := ports } q.port).xoffSent = [] := by
  let emptied := s.modPort q.port (fun k => { k with rx := k.rx.filter (fun f => decide (f.qp ≠ qp)) })
  let drained := emptied.modPort q.port (fun p => { p with xoffSent := p.xoffSent.filter (fun k => !([] : List Nat).contains k) })
  have hnone : (emptied.port q.port).xoffSent = [] := by rw [State.port_modPort, hx]
  refine ⟨drained.ports, ?_, ?_, ?_⟩
  · rw [State.drainQp, hq]
    show emptied.sendXon q.port = drained
    simp only [State.sendXon, hnone, List.filter_nil]
    rfl
  · show (drained.port q.port).rx = []
    rw [State.port_modPort, State.port_modPort, hrx]
    rfl
  · show (drained.port q.port).xoffSent = []
    rw [State.port_modPort, hnone]
    rfl

/-- A NAK puts the queue pair in error; memory stays. -/
theorem State.nakAccess_errs (hq : s.qps.find qp = some q) (hst : q.st = .hello ∨ q.st = .openState) (hrx : (s.port q.port).rx = [])
    (hx : (s.port q.port).xoffSent = []) :
    (s.nakAccess qp).out = s.out ++ [.nak qp .remoteAccess] ∧
      (s.nakAccess qp).qps.find qp = some { q with st := .error, inbox := [] } ∧ (s.nakAccess qp).mem = s.mem := by
  obtain ⟨ports, hdrain⟩ := State.drainQp_quiet (s := s.emit (.nak qp .remoteAccess)) hq hrx hx
  have hpair : s.nakAccess qp = { s with
      out := s.out ++ [.nak qp .remoteAccess], ports := ports,
      qps := s.qps.modify qp (fun q => { q with st := .error, inbox := [] }) } := by
    have hq' : (s.emit (.nak qp .remoteAccess)).qps.find qp = some q := hq
    rcases hst with h | h <;> simp only [State.nakAccess, State.qpError, hq', h, hdrain] <;> rfl
  rw [hpair]
  exact ⟨rfl, by simp [Tab.find_modify, hq], rfl⟩

section
variable (hq : s.qps.find qp = some q) (hlive : q.st ≠ .error) (hmode : s.power.mode = .active) (hrx : (s.port q.port).rx = [])
  (hx : (s.port q.port).xoffSent = []) (ha : a < statusBase ∨ statusBase + statusSize ≤ a)
include hq hlive hmode hrx hx ha

/-- An access that is not too long goes by its key's window, once the queue pair's port has drained. -/
theorem exec_inboundRdmaAccess (hlen : rdmaBytes op ≤ 2 ^ 31) :
    ∃ ports, (State.port { s with ports := ports } q.port).rx = [] ∧ (State.port { s with ports := ports } q.port).xoffSent = [] ∧
      (∀ k lo len c, s.inboundWindow q key = some (k, lo, len) → s.ctx k = some c →
        exec (.inboundRdmaAccess qp key a op) s =
          if decide (lo ≤ a) && decide (a + rdmaBytes op ≤ lo + len) && s.ownRange c a (rdmaBytes op) true then
            State.doAccess { s with ports := ports } qp k a op .clean
          else .next (State.nakAccess { s with ports := ports } qp).settle) ∧
      (s.inboundWindow q key = none →
        exec (.inboundRdmaAccess qp key a op) s = .next (State.nakAccess { s with ports := ports } qp).settle) := by
  obtain ⟨ports, hdrain, hrx', hx'⟩ := State.drainQp_stays_quiet hq hrx hx
  have hwake : State.wakeTrigger { s with ports := ports } = { s with ports := ports } := State.wakeTrigger_active hmode
  have hstatus : ¬ (decide (statusBase ≤ a) && decide (a < statusBase + statusSize)) = true := by
    simp
    omega
  refine ⟨ports, hrx', hx', fun k lo len c hw hc => ?_, fun hw => ?_⟩
  · have hw' : State.inboundWindow { s with ports := ports } q key = some (k, lo, len) := hw
    have hc' : State.ctx { s with ports := ports } k = some c := hc
    rw [exec, execInboundRdmaAccess, hq]
    dsimp only
    rw [if_neg hlive, if_neg (Nat.not_lt.mpr hlen), hdrain, hwake, if_neg hstatus, hw']
    dsimp only
    rw [hc']
    rfl
  · have hw' : State.inboundWindow { s with ports := ports } q key = none := hw
    rw [exec, execInboundRdmaAccess, hq]
    dsimp only
    rw [if_neg hlive, if_neg (Nat.not_lt.mpr hlen), hdrain, hwake, if_neg hstatus, hw']
    rfl

/-- Within its window an access is served. -/
theorem exec_inboundRdmaAccess_within (hlen : rdmaBytes op ≤ 2 ^ 31) (hw : s.inboundWindow q key = some (k, lo, len)) (hc : s.ctx k = some c)
    (hlo : lo ≤ a) (hin : a + rdmaBytes op ≤ lo + len) (hown : s.ownRange c a (rdmaBytes op) true = true) :
    ∃ ports, exec (.inboundRdmaAccess qp key a op) s = State.doAccess { s with ports := ports } qp k a op .clean := by
  obtain ⟨ports, -, -, hexec, -⟩ := exec_inboundRdmaAccess (key := key) hq hlive hmode hrx hx ha hlen
  refine ⟨ports, (hexec k lo len c hw hc).trans ?_⟩
  rw [if_pos (by simp [hlo, hin, hown])]

/-- Past the end of its window, or without one, it is NAKed. -/
theorem exec_inboundRdmaAccess_nak (hlen : rdmaBytes op ≤ 2 ^ 31) (hst : q.st = .hello ∨ q.st = .openState)
    (hout : s.inboundWindow q key = none ∨
      ∃ k lo len c, s.inboundWindow q key = some (k, lo, len) ∧ s.ctx k = some c ∧ lo + len < a + rdmaBytes op) :
    ∃ u : State, exec (.inboundRdmaAccess qp key a op) s = .next u.settle ∧ u.out = s.out ++ [.nak qp .remoteAccess] ∧
      u.qps.find qp = some { q with st := .error, inbox := [] } ∧ u.mem = s.mem := by
  obtain ⟨ports, hrx', hx', hexec, hnone⟩ := exec_inboundRdmaAccess (key := key) hq hlive hmode hrx hx ha hlen
  refine ⟨State.nakAccess { s with ports := ports } qp, ?_, State.nakAccess_errs hq hst hrx' hx'⟩
  rcases hout with hw | ⟨k, lo, len, c, hw, hc, hpast⟩
  · exact hnone hw
  · rw [hexec k lo len c hw hc, if_neg (by simp; omega)]

end
end

/-- Settles O58: an access that is too long is dropped, one within its window is served, and any other is NAKed. -/
theorem inboundAccessIsChecked : Obligations.inbound_access_is_checked := by
  unfold Obligations.inbound_access_is_checked
  intro s qp key a k lo len q c hq hlive hmode hrx hx ha
  refine ⟨fun op hlong => ?_, fun hw hc hlo => ⟨fun b hlen hin hown hspoils => ?_, fun b hlen hin hown hwf hspoils => ?_,
    fun n hlen hin hown => ?_, fun op hlen hpast hst => exec_inboundRdmaAccess_nak hq hlive hmode hrx hx ha hlen hst
      (.inr ⟨k, lo, len, c, hw, hc, hpast⟩)⟩,
    fun hw hst op hlen => exec_inboundRdmaAccess_nak hq hlive hmode hrx hx ha hlen hst (.inl hw)⟩
  · rw [exec, execInboundRdmaAccess, hq]
    dsimp only
    rw [if_neg hlive, if_pos hlong]
  · obtain ⟨ports, hexec⟩ := exec_inboundRdmaAccess_within (op := .write b) hq hlive hmode hrx hx ha hlen hw hc hlo hin hown
    rw [hexec, State.doAccess, if_pos (show State.spoilsInputs { s with ports := ports } _ = true from hspoils)]
  · obtain ⟨ports, hexec⟩ := exec_inboundRdmaAccess_within (op := .write b) hq hlive hmode hrx hx ha hlen hw hc hlo hin hown
    obtain ⟨tiles, hwoken⟩ := State.wakeRange_eq { s with ports := ports } a b.length
    refine ⟨{ s with mem := writeBytes s.mem a b, tiles := tiles, ports := ports }, ?_, fun i => readByte_writeBytes hwf a i b, rfl⟩
    rw [hexec, State.doAccess, if_neg (by
      rw [show State.spoilsInputs { s with ports := ports } ((List.range b.length).map (a + ·)) = false from hspoils]
      decide), State.serveAccess, hwoken]
  · obtain ⟨ports, hexec⟩ := exec_inboundRdmaAccess_within (op := .read n) hq hlive hmode hrx hx ha hlen hw hc hlo hin hown
    obtain ⟨tiles, hwoken⟩ := State.wakeRange_eq { s with ports := ports } a n
    have hline : State.accessLine { s with ports := ports } k a .clean = { s with ports := ports } := by
      unfold State.accessLine
      split
      · rfl
      · rfl
    refine ⟨{ s with out := s.out ++ [.rdmaReply qp (readBytes s.mem a n)], tiles := tiles, ports := ports }, ?_, rfl, rfl⟩
    rw [hexec, State.doAccess, hline, State.serveAccess, hwoken]
    · rfl
    · exact fun h => nomatch h

end Sys2Proof.Machine
end

section
/-! PROOFS. The base model (O59): BASE_LOAD by what stands and loads, and its completion by what was read. -/

namespace Sys2Proof.Machine

/-- Answers to several commands leave by their sessions, and change nothing else. -/
theorem State.eachDo_answerWith (s : State) (ts : List Ticket) (st : Nat) (p : List (Nat × Bytes)) :
    ∃ o r, eachDo ts (fun t s => s.answerWith t st p) s = { s with out := o, sessions := r } := by
  refine eachDo_induction (P := fun t => ∃ o r, t = { s with out := o, sessions := r }) _ ⟨s.out, s.sessions, rfl⟩ fun t _ u hu => ?_
  obtain ⟨o, r, rfl⟩ := hu
  obtain ⟨o', r', heq⟩ := State.answerWith_eq { s with out := o, sessions := r } t st p
  exact ⟨o', r', heq⟩

/-- Memory once a base model's extent is placed. -/
def State.placedMem (s : State) (b : BaseShape) (ext : Option (Nat × Nat)) : List Host.Cell :=
  let mem := match s.base.extent with | some x => zeroRange s.mem x.1 x.2 | none => s.mem
  match ext with | some x => writeBytes mem x.1 (b.rangeBytes.take s.baseRange) | none => mem

/-- What a base model placed leaves, but for the answers. -/
theorem State.placeBase_eq (s : State) (b : BaseShape) (pages : Nat) (ext : Option (Nat × Nat)) :
    ∃ mem o r, s.placeBase b pages ext = { s with
      base := { s.base with shape := some b, loading := none, tickets := [], placement := none, range := none, extent := ext, pages := pages },
      mem := mem, hbmFree := s.hbmFree + s.base.pages - pages, freeCount := s.freeCount + 1,
      ring := { s.ring with experts := if s.transport then [] else s.baseTable b, expertEpoch := s.loadEpoch, moving := [] },
      out := o, sessions := r } := by
  obtain ⟨o, r, heq⟩ := State.eachDo_answerWith { s with
      base := { s.base with shape := some b, loading := none, tickets := [], placement := none, range := none, extent := ext, pages := pages },
      mem := s.placedMem b ext, hbmFree := s.hbmFree + s.base.pages - pages, freeCount := s.freeCount + 1,
      ring := { s.ring with experts := if s.transport then [] else s.baseTable b, expertEpoch := s.loadEpoch, moving := [] } }
    s.base.tickets stOk ([p8 0x81 0] ++ (match ext with | some x => [p64 0x82 x.1] | none => []))
  exact ⟨_, o, r, heq⟩

/-- A base model placed stands, no load is left, and the expert table of a module in service mode begins (R376). -/
theorem State.placeBase_places (s : State) (b : BaseShape) (pages : Nat) (ext : Option (Nat × Nat)) :
    (s.placeBase b pages ext).base.shape = some b ∧ (s.placeBase b pages ext).base.loading = none ∧
      (s.placeBase b pages ext).base.pages = pages ∧ (s.placeBase b pages ext).hbmFree = s.hbmFree + s.base.pages - pages ∧
      (s.transport = false → (s.placeBase b pages ext).ring.experts = s.baseTable b) := by
  obtain ⟨mem, o, r, heq⟩ := s.placeBase_eq b pages ext
  rw [heq]
  exact ⟨rfl, rfl, rfl, rfl, fun ht => if_neg (by simp [ht])⟩

/-- A load that is answered or joined is completed by what was read (R376). -/
theorem exec_baseLoadComplete {s : State} {d : Bytes} (hd : s.base.loading = some d) (ht : s.base.tickets ≠ []) (r : ReadResult BaseShape) :
    exec (.baseLoadComplete r) s = match r with
      | .data b =>
        if b.digest ≠ d || !s.placementOk b then .next (s.failBaseLoad stNotPermitted).settle
        else match s.fitBase b with
          | none => .next (s.failBaseLoad stNotPermitted).settle
          | some (pages, extent) => .next (s.placeBase b pages extent).settle
      | .error => .next (s.failBaseLoad stStreamStall).settle
      | .stalled => .next (s.failBaseLoad stStreamStall).settle := by
  rw [exec, execBaseLoadComplete, hd]
  dsimp only
  rw [if_neg (by simp [ht])]
  rfl

section
variable {s : State} {c : Cmd} {n : Nat} {ss : Session} {image : Region} {digest : Bytes} {placement : Option (List Nat)}
  {range : Option (Nat × Nat)}

/-- A load that begins outside a ring tells nobody, and reads the image. -/
theorem State.beginBaseLoad_outside {u : State} (hring : u.ring.st = .out) (hl : u.base.loading = none) (t : Ticket) :
    u.beginBaseLoad t image digest placement range = { u with
      out := u.out ++ [.hostRead image 0],
      base := { u.base with
        loading := some digest, tickets := [t], image := some image, placement := placement, range := range } } := by
  have hquiet : ∀ base, State.onRing { u with base := base } = false := fun base => by
    rw [State.onRing, show ({ u with base := base } : State).ring.st = .out from hring]
  unfold State.beginBaseLoad
  rw [hl]
  dsimp only [Option.isNone]
  rw [if_pos rfl, State.ringBroadcast, if_pos (by simp [hquiet])]
  rfl

/-- BASE_LOAD by what stands: its branches, from the state after acceptance. -/
theorem exec_baseLoad_refused {st : Nat} (h : Takes (specOf opBaseLoad) c n ss s) (hc : Clear s ss)
    (hbranch : s.ctxs ≠ [] ∧ st = stBusy ∨
      s.ctxs = [] ∧ s.base.loading = none ∧ image.aligned = false ∧ st = stNotPermitted ∨
      s.ctxs = [] ∧ (∃ d, s.base.loading = some d ∧ d ≠ digest) ∧ st = stBusy) :
    ∃ u : State, exec (.baseLoad c image digest placement range) s = .next u ∧
      SendsOnly (s.replyTo c opBaseLoad st []) s u ∧ u = { s with out := u.out, sessions := u.sessions } := by
  refine exec_gaffer_answers (u := s.awaiting c opBaseLoad n) h hc (show _ = execBaseLoad c image digest placement range s from rfl) ?_
    rfl rfl rfl rfl rfl
  have hctxs : (s.awaiting c opBaseLoad n).ctxs = s.ctxs := rfl
  have hbase : (s.awaiting c opBaseLoad n).base = s.base := rfl
  rw [hctxs, hbase]
  rcases hbranch with ⟨hne, rfl⟩ | ⟨he, hl, ha, rfl⟩ | ⟨he, ⟨d, hl, hd⟩, rfl⟩
  · rw [if_pos hne]
    rfl
  · rw [if_neg (by simp [he]), hl]
    dsimp only
    rw [if_neg (by simp [ha])]
    rfl
  · rw [if_neg (by simp [he]), hl]
    dsimp only
    rw [if_pos hd]
    rfl

end

/-- Settles O59: BASE_LOAD by what stands and loads; its completion by what was read. -/
theorem baseModelIsLoaded : Obligations.base_model_is_loaded := by
  unfold Obligations.base_model_is_loaded
  intro s c n ss image digest placement range
  refine ⟨fun hc h => ⟨fun hne => exec_baseLoad_refused h hc (.inl ⟨hne, rfl⟩),
      fun he hl ha => exec_baseLoad_refused h hc (.inr (.inl ⟨he, hl, ha, rfl⟩)), fun he hl ha hout => ?_,
      fun d he hl hd => exec_baseLoad_refused h hc (.inr (.inr ⟨he, ⟨d, hl, hd⟩, rfl⟩)), fun he hl ht => ?_⟩,
    fun b pages ext hd ht hp hfit => ⟨?_, s.placeBase_places b pages ext⟩, fun d r hd ht hother => ?_, fun r hl => ?_⟩
  · rw [exec, execBaseLoad, gaffer_takes h, if_neg (fun hne => hne he), show (s.awaiting c opBaseLoad n).base.loading = none from hl]
    dsimp only
    rw [if_pos ha, State.beginBaseLoad_outside (u := s.awaiting c opBaseLoad n) hout hl]
    rfl
  · rw [exec, execBaseLoad, gaffer_takes h, if_neg (fun hne => hne he), show (s.awaiting c opBaseLoad n).base.loading = some digest from hl]
    dsimp only
    rw [if_neg (fun hne => hne rfl), if_neg (by exact ht)]
    rfl
  · rw [exec_baseLoadComplete hd ht]
    dsimp only
    rw [if_neg (by simp [hp]), hfit]
  · cases r with
    | data b =>
      refine ⟨_, stNotPermitted, ?_, rfl, fun _ => rfl, fun h => ?_⟩
      · rw [exec_baseLoadComplete hd ht]
        dsimp only
        rw [if_pos (by simp [hother b rfl])]
      · rcases h with h | h <;> nomatch h
    | error => exact ⟨_, stStreamStall, exec_baseLoadComplete hd ht _, rfl, fun ⟨b, hb⟩ => (nomatch hb), fun _ => rfl⟩
    | stalled => exact ⟨_, stStreamStall, exec_baseLoadComplete hd ht _, rfl, fun ⟨b, hb⟩ => (nomatch hb), fun _ => rfl⟩
  · rw [exec, execBaseLoadComplete, hl]

end Sys2Proof.Machine
end

section
/-! PROOFS. Crossings that stall (O60). Where the port of a stalled crossing carried a session, what waited on its replies settles (R188,
R308); the statement's clause on a crossing out of a port's domain leaves that out. -/

namespace Sys2Proof.Machine

/-- A request that has ended with pin 4 on variant 0, and whose last reply waits. -/
def sentTicket : Ticket := ⟨0, 1, 1, 9, opSubmit, 0, 0⟩

/-- A module with port 0 up; its queue pair 1 carries a session whose queue holds that reply. -/
def stalledPort : State :=
  { State.reset with
    power := { Power.reset with mode := .active }, ports := [(0, { Port.reset with up := true })],
    qps := [(1, ⟨0, .session 0, 0, [], fullRate, fullRate, 0⟩)],
    sessions := [(0, ⟨1, 1, .operator, [], [.reply (State.reset.replyOf sentTicket true stOk [])], 0, 0, 0, 0⟩)],
    vars := [(0, { State.reset.blankVar 0 [0] 2 0 with pins := 1 })], pinWaits := [⟨sentTicket, 0, 4⟩] }

/-- The pins of variant 0 after a step. -/
def pinsAfter : Res → Option Nat
  | .next s => (s.var 0).map (·.pins)
  | _ => none

/-- The step releases the pin with the session, for its reply can leave no longer. -/
theorem crossingTimeout_releases : pinsAfter (exec (.crossingTimeout 47 1) stalledPort) = some 0 := by decide +kernel

/-- Without settling it stays. -/
theorem dropPort_keeps_pin : pinsAfter (.next ((stalledPort.dropPort 0).noteStall 47 1 3).resetIfDue) = some 1 := by decide +kernel

/-- Refutes O60: a crossing out of port 0's domain stalls while a reply that holds a pin waits at a session of that port. The step closes
the session and releases the pin; by the statement's clause on ports nothing settles, and the pin would stay. -/
theorem not_tilesRetireAndCrossingsStall : ¬ Obligations.tiles_retire_and_crossings_stall := by
  unfold Obligations.tiles_retire_and_crossings_stall
  intro h
  obtain ⟨-, -, hstall⟩ := h stalledPort ⟨1, 1, 0, 0⟩ 0 ⟨1, 1, .operator, [], [], 0, 0, 0, 0⟩ 0
  obtain ⟨-, hport, -⟩ := hstall 47 1 (by decide) (by decide) (by decide) (by decide)
  have hkept := crossingTimeout_releases
  rw [hport 0 rfl rfl, dropPort_keeps_pin] at hkept
  exact absurd hkept (by decide)

end Sys2Proof.Machine
end
